-- ==== Sys2Proof/Word.lean ====
section
/-!
DEFINITION. The word types of the machine (R4, R83). Everything that computes on them stands in
Machine/Bits.lean and Decode.lean.
-/
namespace Sys2Proof

/-- A byte of memory. -/
abbrev Byte := BitVec 8

/-- One 32-bit register of one lane (R157). -/
abbrev Word := BitVec 32

/-- A 64-bit value: an even and odd register pair, or an address (R4). -/
abbrev DWord := BitVec 64

end Sys2Proof
end

