-- ==== Sys2Proof/Syntax.lean ====
section
/-!
DEFINITION. The instructions and device events of spec/opcode_table.json, one constructor a row.
Rows 0 to 226 are instructions of R73 to R81 and carry their decoded operands; rows 227 to 330 are steps
of the device that no instruction word encodes (spec/95) and carry what they act on.
-/
namespace Sys2Proof

/-- R49: the operand types, in the order of their codes 0 to 15. -/
inductive Ty where
  | i32 | n32 | i64 | n64 | f32 | f64 | f16 | bf16
  | e4m3 | e5m2 | e2m1 | cb4 | i8 | n8 | i16 | n16
  deriving DecidableEq, Repr

/-- R47: the rounding modes of the RM field, `.rdyn` among them. -/
inductive Rm where
  | rn | rz | ru | rd | ra | rdyn
  deriving DecidableEq, Repr

/-- R42: an enabled guard, register V0 to V15 and its sense (GS = 1 is `neg`). -/
structure Guard where
  reg : BitVec 4
  neg : Bool
  deriving DecidableEq, Repr

/-- R45, R46: a source of an extended instruction: register, last use, half select, swizzle. -/
structure Src where
  r : BitVec 8
  last : Bool
  h : Bool
  w : BitVec 3
  deriving DecidableEq, Repr

/-- R42, R43: the operands of a base instruction with D and A. -/
structure BaseOps where
  g : Option Guard
  d : BitVec 8
  a : BitVec 8
  la : Bool
  deriving DecidableEq, Repr

/-- R42, R44 to R46, R57: the operands of an extended instruction. PK is not held: R48 makes it the packing
of TY (00 when there is no type, TY = 0). -/
structure ExtOps where
  g : Option Guard
  d : BitVec 8
  rm : Rm
  lk : BitVec 4
  a : Src
  b : Src
  c : Src
  imm : BitVec 14
  sat : Bool
  ty : Ty
  lit : Option (BitVec 64)
  deriving DecidableEq, Repr

/-- Who issues an instruction: the slices of one sub-gang of a group, or a sequencer of a block
(R16, R280). Blocks are named by the model's block number. -/
inductive Issuer where
  | group (b g : Nat) (slices : BitVec 8)
  | mseq (b : Nat)
  | cseq (b : Nat)
  deriving DecidableEq, Repr

/-- An engine access that meets a fault: a transfer of a core's copy engine, or a matrix instruction
of a block (R303, R323). -/
inductive EngRef where
  | transfer (core x : Nat)
  | matrix (b m : Nat)
  deriving DecidableEq, Repr

/-- R447, R380: what a host access through BAR2 does. -/
inductive HostOp where
  | read | write | fetchAdd | swap | cas
  deriving DecidableEq, Repr

/-- R447: a host access through BAR2 at offset `off`; `data` is written (for `cas`, the comparand and then
the new value), `len` bytes are read. -/
structure HostAccess where
  op : HostOp
  off : Nat
  len : Nat
  data : List Byte
  deriving DecidableEq, Repr

/-- R347: what a request from another package does to this package's memory at physical address `pa`:
a read, a write, or an exact addition of type `ty`. -/
inductive RemoteAccess where
  | read (pa len : Nat)
  | write (pa : Nat) (data : List Byte)
  | add (pa : Nat) (ty : Ty) (data : List Byte)
  deriving DecidableEq, Repr

/-- One row of spec/opcode_table.json each. -/
inductive Instr where
  /-- R149. Base no-operation that occupies one issue slot. -/
  | nop (g : Option Guard)
  /-- R176. Base 32-bit register copy from A to D in the active lanes. -/
  | movBase (o : BaseOps)
  /-- R176. Base move of a 9-bit sign-extended immediate to D. -/
  | moviBase (g : Option Guard) (d : BitVec 8) (i : BitVec 9)
  /-- R58. Base+literal move of the low word of a 64-bit literal to D. -/
  | moviBaseLiteral (g : Option Guard) (d : BitVec 8) (v : BitVec 64)
  /-- R58. Base+literal move of a whole 64-bit literal to pair D. -/
  | moviI64 (g : Option Guard) (d : BitVec 8) (v : BitVec 64)
  /-- R188. Base two-address wrapping 32-bit add. -/
  | addBase (o : BaseOps)
  /-- R188. Base two-address wrapping 32-bit subtract. -/
  | subBase (o : BaseOps)
  /-- R190. Base two-address low 32 bits of a product. -/
  | mulBase (o : BaseOps)
  /-- R193. Base two-address bitwise and. -/
  | andBase (o : BaseOps)
  /-- R193. Base two-address bitwise or. -/
  | orBase (o : BaseOps)
  /-- R193. Base two-address bitwise xor. -/
  | xorBase (o : BaseOps)
  /-- R193. Base two-address and with complement of A. -/
  | andnBase (o : BaseOps)
  /-- R193. Base unary bitwise complement. -/
  | notBase (o : BaseOps)
  /-- R194. Base two-address logical left shift. -/
  | shlBase (o : BaseOps)
  /-- R194. Base two-address logical right shift. -/
  | shrBase (o : BaseOps)
  /-- R194. Base two-address arithmetic right shift. -/
  | sarBase (o : BaseOps)
  /-- R198. Base signed 32-bit minimum. -/
  | minI32Base (o : BaseOps)
  /-- R198. Base signed 32-bit maximum. -/
  | maxI32Base (o : BaseOps)
  /-- R198. Base unsigned 32-bit minimum. -/
  | minN32Base (o : BaseOps)
  /-- R198. Base unsigned 32-bit maximum. -/
  | maxN32Base (o : BaseOps)
  /-- R198. Base unary 32-bit negation. -/
  | negBase (o : BaseOps)
  /-- R198. Base unary 32-bit absolute value. -/
  | absBase (o : BaseOps)
  /-- R197. Base population count. -/
  | popcBase (o : BaseOps)
  /-- R197. Base count of leading zeros. -/
  | clzBase (o : BaseOps)
  /-- R201. Base FP32 add rounded in RNE. -/
  | faddBase (o : BaseOps)
  /-- R201. Base FP32 subtract rounded in RNE. -/
  | fsubBase (o : BaseOps)
  /-- R201. Base FP32 multiply rounded in RNE. -/
  | fmulBase (o : BaseOps)
  /-- R204. Base FP32 sign inversion. -/
  | fnegBase (o : BaseOps)
  /-- R143. Base relative branch by a 17-bit word offset, with per-slice divergence handling. -/
  | bra (g : Option Guard) (off : BitVec 17)
  /-- R143. Base+literal branch to a 64-bit absolute target. -/
  | braLiteral (g : Option Guard) (v : BitVec 64)
  /-- R144. Branch to the uniform 64-bit address held in pair A. -/
  | brx (g : Option Guard) (a : BitVec 8) (la : Bool)
  /-- R145. Branch to a literal target writing the return address to pair D. -/
  | call (g : Option Guard) (d : BitVec 8) (v : BitVec 64)
  /-- R145. Branch through pair A writing the return address to pair D. -/
  | calli (o : BaseOps)
  /-- R144. Return through pair A, as brx with a return-predictor hint. -/
  | ret (g : Option Guard) (a : BitVec 8) (la : Bool)
  /-- R146. Pop the top divergence-stack entry of each slice. -/
  | jn
  /-- R147. Wait until all live slices reach regang, then merge slices by address. -/
  | regang
  /-- R148. Exit the guarded active lanes once no lane is pending and no long instruction is open. -/
  | exit (g : Option Guard)
  /-- R149. Give up the next issue opportunity, or switch groups in deterministic mode. -/
  | yield
  /-- R179. Declare register D dead for the whole group. -/
  | kill (d : BitVec 8)
  /-- R427. Raise SYSC with an 8-bit service number and enter the handler. -/
  | trap (n : BitVec 8)
  /-- R428. Leave handler state and resume the block at the resume PC. -/
  | tret
  /-- R429. Halt the launch for an attached debugger, or do nothing without one. -/
  | brkpt
  /-- R150. Make the sub-gang not ready until SREFT has advanced by 16n ns. -/
  | sleep (o : ExtOps)
  /-- R151. Read a system register into D. -/
  | mfs (o : ExtOps)
  /-- R151. Write a uniform value to a system register. -/
  | mts (o : ExtOps)
  /-- R434. Set the group's phase hint to compute, memory or wait. -/
  | phint (o : ExtOps)
  /-- R176. Extended typed copy with half-select and swizzle. -/
  | mov (o : ExtOps)
  /-- R176. Extended typed move of IMM14 or a literal constant. -/
  | movi (o : ExtOps)
  /-- R177. Select elements of A or B by bit 0 of each element of C. -/
  | sel (o : ExtOps)
  /-- R178. Request n extended-pool lines for the group, waiting in order. -/
  | xacq (o : ExtOps)
  /-- R178. Kill the top n quota registers and return their lines to the pool. -/
  | xrel (o : ExtOps)
  /-- R180. Shuffle values across lanes within segments by idx, rot, rev or xor. -/
  | shfl (o : ExtOps)
  /-- R181. Broadcast one lane's value to every active lane. -/
  | bcast (o : ExtOps)
  /-- R183. Permute bytes of A and B by a selector. -/
  | perm (o : ExtOps)
  /-- R182. Combine a predicate across the active lanes. -/
  | vote (o : ExtOps)
  /-- R181. Read one uniformly named lane's value into every active lane. -/
  | rdlane (o : ExtOps)
  /-- R181. Write a uniform value into one named lane of D. -/
  | wrlane (o : ExtOps)
  /-- R184. Pack the low halves of A and B into D. -/
  | pack (o : ExtOps)
  /-- R184. Widen the selected half of the packed elements of A. -/
  | unpack (o : ExtOps)
  /-- R184. Apply a swizzle code to the packed elements of A. -/
  | swz (o : ExtOps)
  /-- R188. Extended wrapping add. -/
  | add (o : ExtOps)
  /-- R188. Extended wrapping subtract. -/
  | sub (o : ExtOps)
  /-- R189. Add with carry in and carry out to a pair. -/
  | addc (o : ExtOps)
  /-- R189. Subtract with borrow in and borrow out to a pair. -/
  | subb (o : ExtOps)
  /-- R188. Saturating add raising SI on clamp. -/
  | sadd (o : ExtOps)
  /-- R188. Saturating subtract raising SI on clamp. -/
  | ssub (o : ExtOps)
  /-- R193. Extended bitwise and. -/
  | and (o : ExtOps)
  /-- R193. Extended bitwise or. -/
  | or (o : ExtOps)
  /-- R193. Extended bitwise xor. -/
  | xor (o : ExtOps)
  /-- R193. Extended and with complement of B. -/
  | andn (o : ExtOps)
  /-- R193. Extended bitwise complement. -/
  | not (o : ExtOps)
  /-- R193. Three-input bitwise logic function from an 8-bit table. -/
  | lfn (o : ExtOps)
  /-- R193. Four-input bitwise logic function from a 16-bit literal table. -/
  | lfnD (o : ExtOps)
  /-- R194. Extended left shift. -/
  | shl (o : ExtOps)
  /-- R194. Extended logical right shift. -/
  | shr (o : ExtOps)
  /-- R194. Extended arithmetic right shift. -/
  | sar (o : ExtOps)
  /-- R194. Rotate left. -/
  | rol (o : ExtOps)
  /-- R194. Rotate right. -/
  | ror (o : ExtOps)
  /-- R195. Funnel shift of the concatenation of A and B. -/
  | fsh (o : ExtOps)
  /-- R196. Extract and extend a bitfield. -/
  | bfx (o : ExtOps)
  /-- R196. Insert a bitfield into B. -/
  | bfi (o : ExtOps)
  /-- R197. Extended population count. -/
  | popc (o : ExtOps)
  /-- R197. Extended count of leading zeros. -/
  | clz (o : ExtOps)
  /-- R197. Count of trailing zeros. -/
  | ctz (o : ExtOps)
  /-- R197. Bit reversal. -/
  | brev (o : ExtOps)
  /-- R198. Extended integer minimum. -/
  | min (o : ExtOps)
  /-- R198. Extended integer maximum. -/
  | max (o : ExtOps)
  /-- R198. Extended integer absolute value. -/
  | abs (o : ExtOps)
  /-- R198. Extended integer negation. -/
  | neg (o : ExtOps)
  /-- R199. Integer compare writing 1/0 or an element mask. -/
  | cmp (o : ExtOps)
  /-- R190. 32-bit or packed integer multiply, low half. -/
  | mul (o : ExtOps)
  /-- R190. 32-bit or packed integer multiply, high half. -/
  | mulhi (o : ExtOps)
  /-- R190. 32-bit or packed multiply-add. -/
  | mad (o : ExtOps)
  /-- R190. Widening 32x32 multiply plus 64-bit addend. -/
  | madw (o : ExtOps)
  /-- R191. Four-way byte dot product accumulated into 32 bits. -/
  | dot4 (o : ExtOps)
  /-- R190. 64-bit integer multiply, low half, as a long instruction. -/
  | mul64 (o : ExtOps)
  /-- R190. 64-bit integer multiply, high half. -/
  | mulhi64 (o : ExtOps)
  /-- R190. 64-bit integer multiply-add. -/
  | mad64 (o : ExtOps)
  /-- R192. 32-bit or packed truncating integer division. -/
  | idiv (o : ExtOps)
  /-- R192. 32-bit or packed integer remainder. -/
  | irem (o : ExtOps)
  /-- R192. 64-bit truncating integer division. -/
  | idiv64 (o : ExtOps)
  /-- R192. 64-bit integer remainder. -/
  | irem64 (o : ExtOps)
  /-- R201. Extended F-type add rounded once. -/
  | fadd (o : ExtOps)
  /-- R201. Extended F-type subtract rounded once. -/
  | fsub (o : ExtOps)
  /-- R201. Extended F-type multiply rounded once. -/
  | fmul (o : ExtOps)
  /-- R201. F-type fused multiply-add rounded once. -/
  | fma (o : ExtOps)
  /-- R202. F-type minimum number. -/
  | fmin (o : ExtOps)
  /-- R202. F-type maximum number. -/
  | fmax (o : ExtOps)
  /-- R203. F-type compare by predicate. -/
  | fcmp (o : ExtOps)
  /-- R210. Floating-to-floating conversion among F and Q types. -/
  | fcvt (o : ExtOps)
  /-- R210. Integer-to-floating conversion to F and Q types. -/
  | icvt (o : ExtOps)
  /-- R210. Floating-to-integer conversion from F and Q types. -/
  | fcvti (o : ExtOps)
  /-- R207. F-type round to integral value. -/
  | frnd (o : ExtOps)
  /-- R207. F-type multiply by a power of two rounded once. -/
  | fscale (o : ExtOps)
  /-- R211. Quantise 32 lanes into one MX block of element codes and a scale. -/
  | fcvtMx (o : ExtOps)
  /-- R201. FP64 add rounded once. -/
  | faddD (o : ExtOps)
  /-- R201. FP64 subtract rounded once. -/
  | fsubD (o : ExtOps)
  /-- R201. FP64 multiply rounded once. -/
  | fmulD (o : ExtOps)
  /-- R201. FP64 fused multiply-add. -/
  | fmaD (o : ExtOps)
  /-- R202. FP64 minimum number. -/
  | fminD (o : ExtOps)
  /-- R202. FP64 maximum number. -/
  | fmaxD (o : ExtOps)
  /-- R203. FP64 compare by predicate. -/
  | fcmpD (o : ExtOps)
  /-- R210. Floating conversion with an f64 side. -/
  | fcvtD (o : ExtOps)
  /-- R210. Integer-to-floating conversion with an f64 or 64-bit integer side. -/
  | icvtD (o : ExtOps)
  /-- R210. FP64-to-integer conversion. -/
  | fcvtiD (o : ExtOps)
  /-- R207. FP64 round to integral value. -/
  | frndD (o : ExtOps)
  /-- R207. FP64 binary scaling. -/
  | fscaleD (o : ExtOps)
  /-- R204. Extended sign inversion with canonical NaN. -/
  | fneg (o : ExtOps)
  /-- R204. Replace the sign of A by the sign of B. -/
  | fsgn (o : ExtOps)
  /-- R205. Write the class number of each element. -/
  | fclass (o : ExtOps)
  /-- R206. Write floor(log2|A|) of each element. -/
  | fexpo (o : ExtOps)
  /-- R235. Correctly rounded F-type division, parking undecided lanes. -/
  | fdiv (o : ExtOps)
  /-- R235. Correctly rounded F-type reciprocal. -/
  | frcp (o : ExtOps)
  /-- R235. Correctly rounded F-type square root. -/
  | fsqrt (o : ExtOps)
  /-- R235. Correctly rounded F-type reciprocal square root. -/
  | frsqrt (o : ExtOps)
  /-- R235. Correctly rounded F-type e^a. -/
  | fexp (o : ExtOps)
  /-- R235. Correctly rounded F-type 2^a. -/
  | fexp2 (o : ExtOps)
  /-- R235. Correctly rounded F-type e^a - 1. -/
  | fexpm1 (o : ExtOps)
  /-- R235. Correctly rounded F-type ln a. -/
  | flog (o : ExtOps)
  /-- R235. Correctly rounded F-type log2 a. -/
  | flog2 (o : ExtOps)
  /-- R235. Correctly rounded F-type ln(1 + a). -/
  | flog1p (o : ExtOps)
  /-- R235. Correctly rounded F-type sine. -/
  | fsin (o : ExtOps)
  /-- R235. Correctly rounded F-type cosine. -/
  | fcos (o : ExtOps)
  /-- R235. Correctly rounded F-type tangent. -/
  | ftan (o : ExtOps)
  /-- R235. Correctly rounded F-type sin(pi a). -/
  | fsinpi (o : ExtOps)
  /-- R235. Correctly rounded F-type cos(pi a). -/
  | fcospi (o : ExtOps)
  /-- R235. Correctly rounded F-type arctangent. -/
  | fatan (o : ExtOps)
  /-- R235. Correctly rounded F-type sqrt(a^2 + b^2). -/
  | fhypot (o : ExtOps)
  /-- R235. Correctly rounded F-type a^b. -/
  | fpow (o : ExtOps)
  /-- R237. Exact two-term f16/bf16 dot product plus f32 addend, rounded once. -/
  | fdot2 (o : ExtOps)
  /-- R237. Exact four-term 8-bit float dot product plus f32 addend, rounded once. -/
  | fdot4 (o : ExtOps)
  /-- R238. Exact F-type group sum rounded once and broadcast. -/
  | gsum (o : ExtOps)
  /-- R238. Exact F-type group sum of squares rounded once. -/
  | gsumsq (o : ExtOps)
  /-- R235. Correctly rounded FP64 division. -/
  | fdivD (o : ExtOps)
  /-- R235. Correctly rounded FP64 reciprocal. -/
  | frcpD (o : ExtOps)
  /-- R235. Correctly rounded FP64 square root. -/
  | fsqrtD (o : ExtOps)
  /-- R235. Correctly rounded FP64 reciprocal square root. -/
  | frsqrtD (o : ExtOps)
  /-- R235. Correctly rounded FP64 e^a, class E. -/
  | fexpD (o : ExtOps)
  /-- R235. Correctly rounded FP64 2^a, class E. -/
  | fexp2D (o : ExtOps)
  /-- R235. Correctly rounded FP64 e^a - 1, class E. -/
  | fexpm1D (o : ExtOps)
  /-- R235. Correctly rounded FP64 ln a, class E. -/
  | flogD (o : ExtOps)
  /-- R235. Correctly rounded FP64 log2 a, class E. -/
  | flog2D (o : ExtOps)
  /-- R235. Correctly rounded FP64 ln(1 + a), class E. -/
  | flog1pD (o : ExtOps)
  /-- R235. Correctly rounded FP64 sine, class T. -/
  | fsinD (o : ExtOps)
  /-- R235. Correctly rounded FP64 cosine, class T. -/
  | fcosD (o : ExtOps)
  /-- R235. Correctly rounded FP64 tangent, class T. -/
  | ftanD (o : ExtOps)
  /-- R235. Correctly rounded FP64 sin(pi a), class E. -/
  | fsinpiD (o : ExtOps)
  /-- R235. Correctly rounded FP64 cos(pi a), class E. -/
  | fcospiD (o : ExtOps)
  /-- R235. Correctly rounded FP64 arctangent, class E. -/
  | fatanD (o : ExtOps)
  /-- R238. Exact FP64 group sum rounded once. -/
  | gsumD (o : ExtOps)
  /-- R238. Exact FP64 group sum of squares rounded once. -/
  | gsumsqD (o : ExtOps)
  /-- R239. Group maximum broadcast to active lanes. -/
  | gmax (o : ExtOps)
  /-- R239. Group minimum broadcast to active lanes. -/
  | gmin (o : ExtOps)
  /-- R241. Invoke a loaded function slot as a resolved operation. -/
  | fprog (o : ExtOps)
  /-- R242. Wait until no lane of the group is pending. -/
  | parkw (o : ExtOps)
  /-- R240. Exact 32-bit integer group sum into a 64-bit pair. -/
  | gsumInt (o : ExtOps)
  /-- R275. Load a register from scratchpad. -/
  | lds (o : ExtOps)
  /-- R275. Store a register to scratchpad. -/
  | sts (o : ExtOps)
  /-- R276. Load one narrow element from scratchpad with extension. -/
  | ldsg (o : ExtOps)
  /-- R276. Store one narrow element to scratchpad. -/
  | stss (o : ExtOps)
  /-- R277. Scratchpad atomic read-modify-write by operation code. -/
  | atomsOp (o : ExtOps)
  /-- R277. Scratchpad atomic exchange. -/
  | atomsXchg (o : ExtOps)
  /-- R277. Scratchpad atomic compare and swap. -/
  | atomsCas (o : ExtOps)
  /-- R278. Pin n scratchpad pages and start their refills. -/
  | sppin (o : ExtOps)
  /-- R278. Clear the pin marks of n scratchpad pages. -/
  | spfree (o : ExtOps)
  /-- R279. Set up a named queue's ring, capacity and state. -/
  | qinit (o : ExtOps)
  /-- R279. Push a handle, waiting for allowance and room. -/
  | qpush (o : ExtOps)
  /-- R279. Pop the oldest handle, waiting while empty. -/
  | qpop (o : ExtOps)
  /-- R279. Pop a handle if available, else return all ones. -/
  | qtry (o : ExtOps)
  /-- R279. Add send allowance to a producer of a queue. -/
  | qallow (o : ExtOps)
  /-- R311. Block collective that loads sequencer files and starts both sequencers. -/
  | fork (o : ExtOps)
  /-- R311. Block collective completing when groups arrive and sequencers stop. -/
  | join (o : ExtOps)
  /-- R312. Multiply register-held tile images and accumulate exactly. -/
  | mmaReg (o : ExtOps)
  /-- R312. Multiply scratchpad tile images and accumulate exactly. -/
  | mmaSp (o : ExtOps)
  /-- R312. Empty the accumulator then multiply register images. -/
  | mmazReg (o : ExtOps)
  /-- R312. Empty the accumulator then multiply scratchpad images. -/
  | mmazSp (o : ExtOps)
  /-- R314. Load or add an accumulator image from memory. -/
  | acld (o : ExtOps)
  /-- R314. Store an accumulator image to memory, optionally clearing it. -/
  | acst (o : ExtOps)
  /-- R315. Round an accumulator tile once and hand it to the bulk copy engine. -/
  | mdrain (o : ExtOps)
  /-- R318. Load 32 bytes into the inactive bank of a codebook table. -/
  | lutld (o : ExtOps)
  /-- R318. Switch the active bank of both codebook tables. -/
  | lutsw (o : ExtOps)
  /-- R319. Arrive at a matrix barrier with an expected count. -/
  | mbarv (o : ExtOps)
  /-- R319. Wait for the next phase of a matrix barrier. -/
  | mbarw (o : ExtOps)
  /-- R352. Global lane load at a scope. -/
  | ld (o : ExtOps)
  /-- R352. Global lane store at a scope. -/
  | st (o : ExtOps)
  /-- R353. Load a whole global tile into scratchpad atomically. -/
  | ldt (o : ExtOps)
  /-- R353. Store a whole scratchpad tile to global memory atomically. -/
  | stt (o : ExtOps)
  /-- R354. Read the die's weight store. -/
  | ldw (o : ExtOps)
  /-- R355. Check and enqueue a bulk transfer descriptor. -/
  | cpy (o : ExtOps)
  /-- R356. Swap the dirty chunks of a published buffer. -/
  | publish (o : ExtOps)
  /-- R357. Optional prefetch of a line into its home slice. -/
  | prf (o : ExtOps)
  /-- R358. Write back and invalidate every device copy of a line. -/
  | cflush (o : ExtOps)
  /-- R359. Walk a translation and return its attributes. -/
  | xprobe (o : ExtOps)
  /-- R389. Record a set of earlier accesses and return a token. -/
  | fence (o : ExtOps)
  /-- R389. Wait until the fences named by a token are complete. -/
  | fwait (o : ExtOps)
  /-- R390. Global load with acquire. -/
  | ldacq (o : ExtOps)
  /-- R390. Global store with release. -/
  | strel (o : ExtOps)
  /-- R391. Global atomic read-modify-write by operation code. -/
  | atomOp (o : ExtOps)
  /-- R391. Global atomic exchange. -/
  | atomXchg (o : ExtOps)
  /-- R391. Global atomic compare and swap. -/
  | atomCas (o : ExtOps)
  /-- R392. Global integer reduction without return. -/
  | redInt (o : ExtOps)
  /-- R392. Exact floating add into an exact target. -/
  | redFloat (o : ExtOps)
  /-- R393. Read an exact target rounded once, optionally retiring it. -/
  | redget (o : ExtOps)
  /-- R394. Arrive at a named barrier and wait for its phase. -/
  | bar (o : ExtOps)
  /-- R394. Arrive at a named barrier without waiting. -/
  | barv (o : ExtOps)
  /-- R394. Wait for the next phase of a named barrier. -/
  | barw (o : ExtOps)
  /-- R395. Arrive at the launch-wide step barrier with a tag. -/
  | sbar (o : ExtOps)
  /-- R130. A long instruction's results are written in every lane that did not park, and failing lanes are marked pending. -/
  | fastCompletion (b g x : Nat)
  /-- R223. The WEU admits a parked record in service order and frees its allowance. -/
  | weuAdmission (cl : Nat)
  /-- R222. The WEU decides a record or passes it to the exact stage. -/
  | weuDecision (cl r : Nat)
  /-- R224. An exact-stage pass of class E or T begins with the records waiting for it. -/
  | exactPassStart (cl e : Nat)
  /-- R224. An exact-stage pass ends, settling every record admitted to it. -/
  | exactPassEnd (cl e : Nat)
  /-- R227. A settled result is written to the lane's register or image, the pending mark clears, flags OR in and the ring place is freed. -/
  | settlement (b r : Nat)
  /-- R124. An instruction-cache line fill completes. -/
  | icacheFill (b : Nat) (va : Nat)
  /-- R164. A live non-resident register line is filled from the context image. -/
  | lineFill (b g r : Nat)
  /-- R254. A scratchpad frame is filled with zeros or from the backing region. -/
  | pageRefill (b p : Nat)
  /-- R330. A tile instruction reaches the head of its home's tile lock queue and takes its lock. -/
  | tileLockGrant (cl : Nat)
  /-- R334. The bulk copy engine starts the next accepted transfer in acceptance order. -/
  | transferStart (c : Nat)
  /-- R339. A transfer completes and retires its range-scoreboard entry. -/
  | transferComplete (c x : Nat)
  /-- R323. An engine access meets a not-present page, stalls its transfer and posts a page request. -/
  | engineTranslationFault (e : EngRef)
  /-- R323. An engine meets a present page whose attributes forbid the access and halts the block with PERM. -/
  | enginePermissionFault (e : EngRef)
  /-- R315. After its contributions are added, a drain rounds the tile and enters it in the copy engine's queue. -/
  | drainHandover (b m : Nat)
  /-- R299. The accumulation port adds a contribution to its exact accumulator store entry. -/
  | spillContributionAdd (c : Nat)
  /-- R271. A blocked qpush or qpop resumes once a slot, handle or allowance is available. -/
  | queueWaiterResume (b q : Nat)
  /-- R385. Waiters on a named barrier are released when their phase completes. -/
  | namedBarrierRelease (b n : Nat)
  /-- R306. Waiters on a matrix barrier are released when their phase completes. -/
  | matrixBarrierRelease (b n : Nat)
  /-- R165. A waiting xacq request is granted whole when lines become free. -/
  | xacqGrant (c t : Nat)
  /-- R150. A sleeping sub-gang becomes ready after the requested reference time. -/
  | sleepWake (b : Nat) (w : Issuer)
  /-- R370. An fwait ends once the covered accesses of its fences have performed. -/
  | fwaitRelease (b g : Nat)
  /-- R386. The step-barrier tree compares tags of all arrivals and releases or faults every party. -/
  | sbarRelease (l : Nat)
  /-- R346. A bank group's refresh window ends and its stalled reads proceed. -/
  | weightRefreshWindowEnd (d k : Nat)
  /-- R374. A 256 ns deterministic round ends and its gathered atomics are served in fixed order. -/
  | syncRoundEnd (d : Nat)
  /-- R396. A halt is broadcast to every group and sequencer of a block, starting the skid. -/
  | blockHalt (b : Nat)
  /-- R398. A block has ended its skid and long instructions, and every live group writes its trap frame. -/
  | blockStopped (b : Nat)
  /-- R405. The launch's time slice expires and TSLICE is delivered, or held. -/
  | timeSliceExpiry (l : Nat)
  /-- R415. A stopped block leaves its teams, keeping slot and state, or is swapped out if its slot is needed. -/
  | preempt (b : Nat) (needSlot : Bool)
  /-- R414. A fetch translation fault swaps the whole block out and posts a page request. -/
  | fetchFaultSwapout (b : Nat)
  /-- R416. A pre-empted or swapped-out block resumes from its recorded state. -/
  | blockResume (b : Nat)
  /-- R24. The distributor places the next waiting block on the chosen core. -/
  | blockPlacement
  /-- R464. A block placed longer than Lb ends its launch with 0x0301. -/
  | hangDetection (l : Nat)
  /-- R465. A node's gather timer lapses and launches its partial batch. -/
  | gatherTimer (l : Nat)
  /-- R420. Blocks of a cluster stop and save their state before retention. -/
  | retentionEntry (cl : Nat)
  /-- R420. Retention parity is checked and blocks resume or the cluster is re-initialised. -/
  | retentionExit (cl : Nat) (parityOk : Bool)
  /-- R447. A host read or write through BAR2 reaches the device physical map. -/
  | hostBar2Access (acc : HostAccess)
  /-- R381. A host write to a line the synchronisation engine holds retires targets, writes back and drops the line. -/
  | atomicCollision (d line : Nat)
  /-- R460. A doorbell write is accepted or discarded by sequence and sets the queue tail. -/
  | doorbellWrite (slot : Nat) (v : BitVec 64)
  /-- R460. Every 100 us the tail words of all valid QCBs are re-read. -/
  | reconcilePass
  /-- R464. A LAUNCH command is checked, admitted with a placement time, or refused. -/
  | launch (q : Nat)
  /-- R465. A RECORD command appends a record to a node's gather list. -/
  | record (q : Nat)
  /-- R461. A SIGNAL command waits for earlier commands of its queue. -/
  | signal (q : Nat)
  /-- R461. The SIGNAL value is written with release at .sys and its vector raised. -/
  | signalWrite (q : Nat)
  /-- R461. A WAIT command holds back later commands of its queue. -/
  | wait (q : Nat)
  /-- R461. The awaited 64-bit value reaches the operand and the queue proceeds. -/
  | waitSatisfied (q : Nat)
  /-- R468. A WEIGHTS command writes the weight store of each die in its mask between kernels. -/
  | weights (q : Nat)
  /-- R468. A SLOTLOAD command verifies and loads a function slot between kernels. -/
  | slotload (q : Nat)
  /-- R465. A FLUSH command launches a node's partial group at once. -/
  | flush (q : Nat)
  /-- R465. A FLUSH with CLOSE launches the partial group and ends the node. -/
  | flushClose (q : Nat)
  /-- R425. A REPLICA command releases a held replica from its sbar. -/
  | replicaRelease (q : Nat)
  /-- R425. A REPLICA command ends a held replica with 0x0303. -/
  | replicaEnd (q : Nat)
  /-- R459. FE_QREQ create copies a descriptor into the first free probe slot. -/
  | queueCreate (v : BitVec 64)
  /-- R459. FE_QREQ destroy leaves a tombstone and discards unadmitted commands. -/
  | queueDestroy (v : BitVec 64)
  /-- R451. FE_INVAL discards cached translations of a PASID over a page range. -/
  | invalidateRange (v : BitVec 64)
  /-- R451. FE_INVAL with ALL discards every cached translation of the PASID. -/
  | invalidateAll (v : BitVec 64)
  /-- R451. Accesses using old translations have drained; DONE rises and vector 7 is raised. -/
  | invalidationComplete
  /-- R458. FE_PRQRESP result 1 makes the faulting access replay. -/
  | pagePresentResponse (tag : Nat)
  /-- R458. FE_PRQRESP result 2 makes the faulting access raise XLAT or end the launch. -/
  | pageNotPresentResponse (tag : Nat)
  /-- R467. FE_FWCTL.VERIFY has the pair verify the staged firmware image. -/
  | fwVerify
  /-- R467. FE_FWCTL.COMMIT installs a verified image and restarts the pair. -/
  | fwCommit
  /-- R469. A write to FE_ATTREQ starts an attestation. -/
  | attestationRequest (v : BitVec 64)
  /-- R469. The signed report is written and DONE set. -/
  | attestationReport
  /-- R412. FE_DBGREQ halt stops every block of the launch with DBG. -/
  | dbgHalt (v : BitVec 64)
  /-- R412. All blocks are stopped and written back; STATE becomes 2 and vector 5 is raised. -/
  | debuggerHalted
  /-- R413. FE_DBGREQ release reloads and resumes every block. -/
  | dbgRelease (v : BitVec 64)
  /-- R413. FE_DBGREQ step issues at most one instruction per slice and sequencer of one block. -/
  | dbgStep (v : BitVec 64)
  /-- R439. A write to PM_OPREQ is denied or begins a frequency and voltage step. -/
  | operatingPointRequest (d : Nat) (v : BitVec 32)
  /-- R440. The die relocks and every core clock stops for 1,500 ns. -/
  | relockStart (d : Nat)
  /-- R122. Clocks restart, STIME is reloaded and a step-log entry is written per core. -/
  | relockEnd (d : Nat)
  /-- R440. The rail ramp of a step ends, clearing BUSY when the relock has ended. -/
  | railRampEnd (d : Nat)
  /-- R439. Writing 1 to PM_OPSTAT.DENIED clears DENIED and REASON. -/
  | deniedClear (d : Nat)
  /-- R435. A write to PM_ISLCTL; clearing EN starts exit of near-threshold islands. -/
  | islandControlWrite (d : Nat) (v : BitVec 32)
  /-- R436. Every 10 us PM_STALLR is updated and islands begin entry or exit. -/
  | sampleBoundary
  /-- R436. An island's rail reaches 0.45 V. -/
  | ntEntryRampEnd (c t : Nat)
  /-- R437. An island's rail returns to die voltage and the team leaves the halved rate. -/
  | ntExitRampEnd (c t : Nat)
  /-- R443. The rail sensor crosses warn and teams record their signatures. -/
  | droopWarn (cl : Nat)
  /-- R443. The rail sensor crosses limit, injecting a pulse or stretching cycles. -/
  | droopLimit (cl : Nat)
  /-- R443. Duty-spent stretching ends after 100 ns above limit or at the next window. -/
  | stretchEnd (cl : Nat)
  /-- R382. Writing 1 to SE_COLL.VALID clears it and CNT. -/
  | seCollClear (d : Nat)
  /-- R421. Writing 1 to ERR_LOG_STAT.OVF clears it and DROP. -/
  | errLogOvfClear
  /-- R11. A write to a memory-mapped register without behaviour of its own, including width or alignment errors. -/
  | mmioWrite (off width : Nat) (v : BitVec 64)
  /-- R473. Power-good reset starts bring-up at stage 1. -/
  | powerGood
  /-- R473. A bring-up stage ends, starting the next or setting READY or FAIL. -/
  | bringupStageComplete (ok : Bool)
  /-- R466. A lock-step mismatch stops the control pair, sets FAULT and restarts it. -/
  | pairMismatch
  /-- R466. A worker core faults or exceeds 50 us and is restarted to reparse the item. -/
  | workerTimeout (w : Nat)
  /-- R61. A fetched instruction whose OP, SUB, form or fields match no defined instruction raises ILL and writes nothing. -/
  | undefinedEncoding (ws : List (BitVec 32))
  /-- R116. A core cycle ends: SCYC and STIME advance, wait counts change, latencies and residences expire, and the scheduler picks what issues. -/
  | coreCycle (c : Nat)
  /-- R325. A fabric or matrix cycle ends: bank and L2 grants are made, the matrix engine takes an issue, and the draw-record window slides. -/
  | fabricCycle
  /-- R361. A global or scratchpad access performs at its home, bank or engine, at its scope. -/
  | accessPerforms (x : Nat)
  /-- R365. A write carrying its die's vector clock is applied to another die's view once its causal predecessors are applied. -/
  | causalWriteApply (d x : Nat)
  /-- R170. The matrix engine reads an mma's operand images and scale record, releasing register holds and scratchpad footprints and taking last-use kills. -/
  | matrixOperandRead (b m : Nat)
  /-- R310. An mma, acld, acst or lutld completes as R310 defines, letting later arrivals and flag delivery proceed. -/
  | matrixInstructionComplete (b m : Nat)
  /-- R266. The last source byte of a copy or stt is read and its OUT range-scoreboard entry retires. -/
  | sourceReadDone (b x : Nat)
  /-- R229. The host ends a running launch, discarding its records and returning its resources with status 0x0302. -/
  | hostEndsLaunch (l : Nat)
  /-- R458. The host answers a PRI page request for an ATS leaf, and the faulting access replays or fails. -/
  | priResponse (tag : Nat) (ok : Bool)
  /-- R458. The host's completion of an ATS translation request arrives, giving a translation or a failure that posts a page request. -/
  | atsTranslationCompletion (pasid va : Nat) (ans : Option Nat)
  /-- R447. The host sends an ATS invalidation request that discards cached translations of host addresses. -/
  | atsInvalidation (pasid va pages : Nat)
  /-- R453. The driver advances FE_PRQTAIL, freeing ring entries so that a waiting page request is posted. -/
  | prqTailWrite (v : BitVec 32)
  /-- R347. A request from another package arrives over Keaset and reads or writes this package's memory, or adds at its synchronisation engine. -/
  | keasetRemoteAccess (acc : RemoteAccess)
  /-- R467. Verification of the staged image ends, setting FE_FWSTAT.STATE to verified or rejected and raising vector 4. -/
  | fwVerifyComplete
  /-- R467. After running launches complete, the committed image is written, the fused minimum raised and the pair restarted, or the recovery loader takes over. -/
  | fwCommitRestart (ok : Bool)
  /-- R466. The control pair finishes restarting after a mismatch, clears FAULT, rebuilds queue state and resumes admissions. -/
  | pairRestartComplete
  /-- R413. Reloading of the released launch ends and FE_DBGSTAT.STATE returns from releasing to 0. -/
  | dbgReleaseComplete
  deriving DecidableEq, Repr

/-- The device events of rows 227 to 330 as data, for the list of events that are due (log 6). Each stands for the
row of its name; `mmioRead`, which has no row, is a host read of `n` bytes at a BAR0 offset (R13). -/
inductive Event where
  /-- R13. -/
  | mmioRead (off n : Nat)
  /-- R130. -/
  | fastCompletion (b g x : Nat)
  /-- R223. -/
  | weuAdmission (cl : Nat)
  /-- R222. -/
  | weuDecision (cl r : Nat)
  /-- R224. -/
  | exactPassStart (cl e : Nat)
  /-- R224. -/
  | exactPassEnd (cl e : Nat)
  /-- R227. -/
  | settlement (b r : Nat)
  /-- R124. -/
  | icacheFill (b : Nat) (va : Nat)
  /-- R164. -/
  | lineFill (b g r : Nat)
  /-- R254. -/
  | pageRefill (b p : Nat)
  /-- R330. -/
  | tileLockGrant (cl : Nat)
  /-- R334. -/
  | transferStart (c : Nat)
  /-- R339. -/
  | transferComplete (c x : Nat)
  /-- R323. -/
  | engineTranslationFault (e : EngRef)
  /-- R323. -/
  | enginePermissionFault (e : EngRef)
  /-- R315. -/
  | drainHandover (b m : Nat)
  /-- R299. -/
  | spillContributionAdd (c : Nat)
  /-- R271. -/
  | queueWaiterResume (b q : Nat)
  /-- R385. -/
  | namedBarrierRelease (b n : Nat)
  /-- R306. -/
  | matrixBarrierRelease (b n : Nat)
  /-- R165. -/
  | xacqGrant (c t : Nat)
  /-- R150. -/
  | sleepWake (b : Nat) (w : Issuer)
  /-- R370. -/
  | fwaitRelease (b g : Nat)
  /-- R386. -/
  | sbarRelease (l : Nat)
  /-- R346. -/
  | weightRefreshWindowEnd (d k : Nat)
  /-- R374. -/
  | syncRoundEnd (d : Nat)
  /-- R396. -/
  | blockHalt (b : Nat)
  /-- R398. -/
  | blockStopped (b : Nat)
  /-- R405. -/
  | timeSliceExpiry (l : Nat)
  /-- R415. -/
  | preempt (b : Nat) (needSlot : Bool)
  /-- R414. -/
  | fetchFaultSwapout (b : Nat)
  /-- R416. -/
  | blockResume (b : Nat)
  /-- R24. -/
  | blockPlacement
  /-- R464. -/
  | hangDetection (l : Nat)
  /-- R465. -/
  | gatherTimer (l : Nat)
  /-- R420. -/
  | retentionEntry (cl : Nat)
  /-- R420. -/
  | retentionExit (cl : Nat) (parityOk : Bool)
  /-- R447. -/
  | hostBar2Access (acc : HostAccess)
  /-- R381. -/
  | atomicCollision (d line : Nat)
  /-- R460. -/
  | doorbellWrite (slot : Nat) (v : BitVec 64)
  /-- R460. -/
  | reconcilePass
  /-- R464. -/
  | launch (q : Nat)
  /-- R465. -/
  | record (q : Nat)
  /-- R461. -/
  | signal (q : Nat)
  /-- R461. -/
  | signalWrite (q : Nat)
  /-- R461. -/
  | wait (q : Nat)
  /-- R461. -/
  | waitSatisfied (q : Nat)
  /-- R468. -/
  | weights (q : Nat)
  /-- R468. -/
  | slotload (q : Nat)
  /-- R465. -/
  | flush (q : Nat)
  /-- R465. -/
  | flushClose (q : Nat)
  /-- R425. -/
  | replicaRelease (q : Nat)
  /-- R425. -/
  | replicaEnd (q : Nat)
  /-- R459. -/
  | queueCreate (v : BitVec 64)
  /-- R459. -/
  | queueDestroy (v : BitVec 64)
  /-- R451. -/
  | invalidateRange (v : BitVec 64)
  /-- R451. -/
  | invalidateAll (v : BitVec 64)
  /-- R451. -/
  | invalidationComplete
  /-- R458. -/
  | pagePresentResponse (tag : Nat)
  /-- R458. -/
  | pageNotPresentResponse (tag : Nat)
  /-- R467. -/
  | fwVerify
  /-- R467. -/
  | fwCommit
  /-- R469. -/
  | attestationRequest (v : BitVec 64)
  /-- R469. -/
  | attestationReport
  /-- R412. -/
  | dbgHalt (v : BitVec 64)
  /-- R412. -/
  | debuggerHalted
  /-- R413. -/
  | dbgRelease (v : BitVec 64)
  /-- R413. -/
  | dbgStep (v : BitVec 64)
  /-- R439. -/
  | operatingPointRequest (d : Nat) (v : BitVec 32)
  /-- R440. -/
  | relockStart (d : Nat)
  /-- R122. -/
  | relockEnd (d : Nat)
  /-- R440. -/
  | railRampEnd (d : Nat)
  /-- R439. -/
  | deniedClear (d : Nat)
  /-- R435. -/
  | islandControlWrite (d : Nat) (v : BitVec 32)
  /-- R436. -/
  | sampleBoundary
  /-- R436. -/
  | ntEntryRampEnd (c t : Nat)
  /-- R437. -/
  | ntExitRampEnd (c t : Nat)
  /-- R443. -/
  | droopWarn (cl : Nat)
  /-- R443. -/
  | droopLimit (cl : Nat)
  /-- R443. -/
  | stretchEnd (cl : Nat)
  /-- R382. -/
  | seCollClear (d : Nat)
  /-- R421. -/
  | errLogOvfClear
  /-- R11. -/
  | mmioWrite (off width : Nat) (v : BitVec 64)
  /-- R473. -/
  | powerGood
  /-- R473. -/
  | bringupStageComplete (ok : Bool)
  /-- R466. -/
  | pairMismatch
  /-- R466. -/
  | workerTimeout (w : Nat)
  /-- R61. -/
  | undefinedEncoding (ws : List (BitVec 32))
  /-- R116. -/
  | coreCycle (c : Nat)
  /-- R325. -/
  | fabricCycle
  /-- R361. -/
  | accessPerforms (x : Nat)
  /-- R365. -/
  | causalWriteApply (d x : Nat)
  /-- R170. -/
  | matrixOperandRead (b m : Nat)
  /-- R310. -/
  | matrixInstructionComplete (b m : Nat)
  /-- R266. -/
  | sourceReadDone (b x : Nat)
  /-- R229. -/
  | hostEndsLaunch (l : Nat)
  /-- R458. -/
  | priResponse (tag : Nat) (ok : Bool)
  /-- R458. -/
  | atsTranslationCompletion (pasid va : Nat) (ans : Option Nat)
  /-- R447. -/
  | atsInvalidation (pasid va pages : Nat)
  /-- R453. -/
  | prqTailWrite (v : BitVec 32)
  /-- R347. -/
  | keasetRemoteAccess (acc : RemoteAccess)
  /-- R467. -/
  | fwVerifyComplete
  /-- R467. -/
  | fwCommitRestart (ok : Bool)
  /-- R466. -/
  | pairRestartComplete
  /-- R413. -/
  | dbgReleaseComplete
  deriving DecidableEq, Repr

/-- The operands of an extended instruction, and nothing for every other row. -/
def Instr.ext? : Instr → Option ExtOps
  | .nop _ => none
  | .movBase _ => none
  | .moviBase _ _ _ => none
  | .moviBaseLiteral _ _ _ => none
  | .moviI64 _ _ _ => none
  | .addBase _ => none
  | .subBase _ => none
  | .mulBase _ => none
  | .andBase _ => none
  | .orBase _ => none
  | .xorBase _ => none
  | .andnBase _ => none
  | .notBase _ => none
  | .shlBase _ => none
  | .shrBase _ => none
  | .sarBase _ => none
  | .minI32Base _ => none
  | .maxI32Base _ => none
  | .minN32Base _ => none
  | .maxN32Base _ => none
  | .negBase _ => none
  | .absBase _ => none
  | .popcBase _ => none
  | .clzBase _ => none
  | .faddBase _ => none
  | .fsubBase _ => none
  | .fmulBase _ => none
  | .fnegBase _ => none
  | .bra _ _ => none
  | .braLiteral _ _ => none
  | .brx _ _ _ => none
  | .call _ _ _ => none
  | .calli _ => none
  | .ret _ _ _ => none
  | .jn => none
  | .regang => none
  | .exit _ => none
  | .yield => none
  | .kill _ => none
  | .trap _ => none
  | .tret => none
  | .brkpt => none
  | .sleep o => some o
  | .mfs o => some o
  | .mts o => some o
  | .phint o => some o
  | .mov o => some o
  | .movi o => some o
  | .sel o => some o
  | .xacq o => some o
  | .xrel o => some o
  | .shfl o => some o
  | .bcast o => some o
  | .perm o => some o
  | .vote o => some o
  | .rdlane o => some o
  | .wrlane o => some o
  | .pack o => some o
  | .unpack o => some o
  | .swz o => some o
  | .add o => some o
  | .sub o => some o
  | .addc o => some o
  | .subb o => some o
  | .sadd o => some o
  | .ssub o => some o
  | .and o => some o
  | .or o => some o
  | .xor o => some o
  | .andn o => some o
  | .not o => some o
  | .lfn o => some o
  | .lfnD o => some o
  | .shl o => some o
  | .shr o => some o
  | .sar o => some o
  | .rol o => some o
  | .ror o => some o
  | .fsh o => some o
  | .bfx o => some o
  | .bfi o => some o
  | .popc o => some o
  | .clz o => some o
  | .ctz o => some o
  | .brev o => some o
  | .min o => some o
  | .max o => some o
  | .abs o => some o
  | .neg o => some o
  | .cmp o => some o
  | .mul o => some o
  | .mulhi o => some o
  | .mad o => some o
  | .madw o => some o
  | .dot4 o => some o
  | .mul64 o => some o
  | .mulhi64 o => some o
  | .mad64 o => some o
  | .idiv o => some o
  | .irem o => some o
  | .idiv64 o => some o
  | .irem64 o => some o
  | .fadd o => some o
  | .fsub o => some o
  | .fmul o => some o
  | .fma o => some o
  | .fmin o => some o
  | .fmax o => some o
  | .fcmp o => some o
  | .fcvt o => some o
  | .icvt o => some o
  | .fcvti o => some o
  | .frnd o => some o
  | .fscale o => some o
  | .fcvtMx o => some o
  | .faddD o => some o
  | .fsubD o => some o
  | .fmulD o => some o
  | .fmaD o => some o
  | .fminD o => some o
  | .fmaxD o => some o
  | .fcmpD o => some o
  | .fcvtD o => some o
  | .icvtD o => some o
  | .fcvtiD o => some o
  | .frndD o => some o
  | .fscaleD o => some o
  | .fneg o => some o
  | .fsgn o => some o
  | .fclass o => some o
  | .fexpo o => some o
  | .fdiv o => some o
  | .frcp o => some o
  | .fsqrt o => some o
  | .frsqrt o => some o
  | .fexp o => some o
  | .fexp2 o => some o
  | .fexpm1 o => some o
  | .flog o => some o
  | .flog2 o => some o
  | .flog1p o => some o
  | .fsin o => some o
  | .fcos o => some o
  | .ftan o => some o
  | .fsinpi o => some o
  | .fcospi o => some o
  | .fatan o => some o
  | .fhypot o => some o
  | .fpow o => some o
  | .fdot2 o => some o
  | .fdot4 o => some o
  | .gsum o => some o
  | .gsumsq o => some o
  | .fdivD o => some o
  | .frcpD o => some o
  | .fsqrtD o => some o
  | .frsqrtD o => some o
  | .fexpD o => some o
  | .fexp2D o => some o
  | .fexpm1D o => some o
  | .flogD o => some o
  | .flog2D o => some o
  | .flog1pD o => some o
  | .fsinD o => some o
  | .fcosD o => some o
  | .ftanD o => some o
  | .fsinpiD o => some o
  | .fcospiD o => some o
  | .fatanD o => some o
  | .gsumD o => some o
  | .gsumsqD o => some o
  | .gmax o => some o
  | .gmin o => some o
  | .fprog o => some o
  | .parkw o => some o
  | .gsumInt o => some o
  | .lds o => some o
  | .sts o => some o
  | .ldsg o => some o
  | .stss o => some o
  | .atomsOp o => some o
  | .atomsXchg o => some o
  | .atomsCas o => some o
  | .sppin o => some o
  | .spfree o => some o
  | .qinit o => some o
  | .qpush o => some o
  | .qpop o => some o
  | .qtry o => some o
  | .qallow o => some o
  | .fork o => some o
  | .join o => some o
  | .mmaReg o => some o
  | .mmaSp o => some o
  | .mmazReg o => some o
  | .mmazSp o => some o
  | .acld o => some o
  | .acst o => some o
  | .mdrain o => some o
  | .lutld o => some o
  | .lutsw o => some o
  | .mbarv o => some o
  | .mbarw o => some o
  | .ld o => some o
  | .st o => some o
  | .ldt o => some o
  | .stt o => some o
  | .ldw o => some o
  | .cpy o => some o
  | .publish o => some o
  | .prf o => some o
  | .cflush o => some o
  | .xprobe o => some o
  | .fence o => some o
  | .fwait o => some o
  | .ldacq o => some o
  | .strel o => some o
  | .atomOp o => some o
  | .atomXchg o => some o
  | .atomCas o => some o
  | .redInt o => some o
  | .redFloat o => some o
  | .redget o => some o
  | .bar o => some o
  | .barv o => some o
  | .barw o => some o
  | .sbar o => some o
  | .fastCompletion _ _ _ => none
  | .weuAdmission _ => none
  | .weuDecision _ _ => none
  | .exactPassStart _ _ => none
  | .exactPassEnd _ _ => none
  | .settlement _ _ => none
  | .icacheFill _ _ => none
  | .lineFill _ _ _ => none
  | .pageRefill _ _ => none
  | .tileLockGrant _ => none
  | .transferStart _ => none
  | .transferComplete _ _ => none
  | .engineTranslationFault _ => none
  | .enginePermissionFault _ => none
  | .drainHandover _ _ => none
  | .spillContributionAdd _ => none
  | .queueWaiterResume _ _ => none
  | .namedBarrierRelease _ _ => none
  | .matrixBarrierRelease _ _ => none
  | .xacqGrant _ _ => none
  | .sleepWake _ _ => none
  | .fwaitRelease _ _ => none
  | .sbarRelease _ => none
  | .weightRefreshWindowEnd _ _ => none
  | .syncRoundEnd _ => none
  | .blockHalt _ => none
  | .blockStopped _ => none
  | .timeSliceExpiry _ => none
  | .preempt _ _ => none
  | .fetchFaultSwapout _ => none
  | .blockResume _ => none
  | .blockPlacement => none
  | .hangDetection _ => none
  | .gatherTimer _ => none
  | .retentionEntry _ => none
  | .retentionExit _ _ => none
  | .hostBar2Access _ => none
  | .atomicCollision _ _ => none
  | .doorbellWrite _ _ => none
  | .reconcilePass => none
  | .launch _ => none
  | .record _ => none
  | .signal _ => none
  | .signalWrite _ => none
  | .wait _ => none
  | .waitSatisfied _ => none
  | .weights _ => none
  | .slotload _ => none
  | .flush _ => none
  | .flushClose _ => none
  | .replicaRelease _ => none
  | .replicaEnd _ => none
  | .queueCreate _ => none
  | .queueDestroy _ => none
  | .invalidateRange _ => none
  | .invalidateAll _ => none
  | .invalidationComplete => none
  | .pagePresentResponse _ => none
  | .pageNotPresentResponse _ => none
  | .fwVerify => none
  | .fwCommit => none
  | .attestationRequest _ => none
  | .attestationReport => none
  | .dbgHalt _ => none
  | .debuggerHalted => none
  | .dbgRelease _ => none
  | .dbgStep _ => none
  | .operatingPointRequest _ _ => none
  | .relockStart _ => none
  | .relockEnd _ => none
  | .railRampEnd _ => none
  | .deniedClear _ => none
  | .islandControlWrite _ _ => none
  | .sampleBoundary => none
  | .ntEntryRampEnd _ _ => none
  | .ntExitRampEnd _ _ => none
  | .droopWarn _ => none
  | .droopLimit _ => none
  | .stretchEnd _ => none
  | .seCollClear _ => none
  | .errLogOvfClear => none
  | .mmioWrite _ _ _ => none
  | .powerGood => none
  | .bringupStageComplete _ => none
  | .pairMismatch => none
  | .workerTimeout _ => none
  | .undefinedEncoding _ => none
  | .coreCycle _ => none
  | .fabricCycle => none
  | .accessPerforms _ => none
  | .causalWriteApply _ _ => none
  | .matrixOperandRead _ _ => none
  | .matrixInstructionComplete _ _ => none
  | .sourceReadDone _ _ => none
  | .hostEndsLaunch _ => none
  | .priResponse _ _ => none
  | .atsTranslationCompletion _ _ _ => none
  | .atsInvalidation _ _ _ => none
  | .prqTailWrite _ => none
  | .keasetRemoteAccess _ => none
  | .fwVerifyComplete => none
  | .fwCommitRestart _ => none
  | .pairRestartComplete => none
  | .dbgReleaseComplete => none

end Sys2Proof
end

