-- ==== Sys2Proof/Machine/Bits.lean ====
section
/-!
DEFINITION. Bit fields, byte order, packed elements and swizzles (R3, R4, R51, R52, R83).
-/
namespace Sys2Proof.Machine

/-- R3: bits [lo + n - 1 : lo] of a value. -/
def bits (x lo n : Nat) : Nat := x / 2 ^ lo % 2 ^ n

/-- R3: bit `k` of a value. -/
def bit (x k : Nat) : Bool := x / 2 ^ k % 2 == 1

/-- The value of a two's-complement field of `n` bits. -/
def signed (n x : Nat) : Int :=
  if x % 2 ^ n < 2 ^ (n - 1) then (x % 2 ^ n : Nat) else ((x % 2 ^ n : Nat) : Int) - (2 ^ n : Nat)

/-- An integer modulo 2^n, as the bits of a field. -/
def wrap (n : Nat) (x : Int) : Nat := (x % ((2 ^ n : Nat) : Int)).toNat

/-- A bit as a number. -/
def b01 (b : Bool) : Nat := if b then 1 else 0

/-- R4: the little-endian bytes of a value. -/
def toBytes : Nat → Nat → List Byte
  | 0, _ => []
  | n + 1, x => BitVec.ofNat 8 x :: toBytes n (x / 256)

/-- R4: the value of little-endian bytes. -/
def ofBytes : List Byte → Nat
  | [] => 0
  | b :: bs => b.toNat + 256 * ofBytes bs

/-- R83: the element width of a packed type, or the width of the type. -/
def tyWidth : Ty → Nat
  | .i32 | .n32 | .f32 => 32
  | .i64 | .n64 | .f64 => 64
  | .f16 | .bf16 | .i16 | .n16 => 16
  | .e4m3 | .e5m2 | .i8 | .n8 => 8
  | .e2m1 | .cb4 => 4

/-- R49: the code of a type. -/
def tyCode : Ty → Nat
  | .i32 => 0 | .n32 => 1 | .i64 => 2 | .n64 => 3 | .f32 => 4 | .f64 => 5 | .f16 => 6 | .bf16 => 7
  | .e4m3 => 8 | .e5m2 => 9 | .e2m1 => 10 | .cb4 => 11 | .i8 => 12 | .n8 => 13 | .i16 => 14 | .n16 => 15

/-- R49: the type that a code names. Every code of four bits names one. -/
def tyOfCode (n : Nat) : Ty :=
  match n with
  | 0 => .i32 | 1 => .n32 | 2 => .i64 | 3 => .n64 | 4 => .f32 | 5 => .f64 | 6 => .f16 | 7 => .bf16
  | 8 => .e4m3 | 9 => .e5m2 | 10 => .e2m1 | 11 => .cb4 | 12 => .i8 | 13 => .n8 | 14 => .i16 | _ => .n16

/-- R48: the packing code of a type. -/
def tyPk (t : Ty) : Nat :=
  match tyWidth t with
  | 16 => 1
  | 8 => 2
  | 4 => 3
  | _ => 0

/-- Whether a type is 64 bits wide, so that its operands are pairs (R50). -/
def ty64 (t : Ty) : Bool := tyWidth t == 64

/-- R49: the integer types. -/
def tyInt : Ty → Bool
  | .i32 | .n32 | .i64 | .n64 | .i8 | .n8 | .i16 | .n16 => true
  | _ => false

/-- R49: the signed integer types. -/
def tySigned : Ty → Bool
  | .i32 | .i64 | .i8 | .i16 => true
  | _ => false

/-- R47: the code of a rounding mode. -/
def rmCode : Rm → Nat
  | .rn => 0 | .rz => 1 | .ru => 2 | .rd => 3 | .ra => 4 | .rdyn => 5

/-- R47: the mode that a code names; 6 and 7 name none. -/
def rmOfCode : Nat → Option Rm
  | 0 => some .rn | 1 => some .rz | 2 => some .ru | 3 => some .rd | 4 => some .ra | 5 => some .rdyn
  | _ => none

/-- R83: the `n` elements of width `w` of a word, element 0 in the lowest bits. -/
def elems (w n x : Nat) : List Nat := (List.range n).map fun i => bits x (w * i) w

/-- R83: the word that holds these elements of width `w`, element 0 in the lowest bits. -/
def ofElems (w : Nat) : List Nat → Nat
  | [] => 0
  | e :: es => e % 2 ^ w + 2 ^ w * ofElems w es

/-- R52: the index of the element that swizzle `c` places at position `i` of `n`. -/
def swizzleIx (c n i : Nat) : Nat :=
  match c with
  | 1 => i ^^^ 1
  | 2 => n - 1 - i
  | 3 => (i + 1) % n
  | 4 => (i + n / 2) % n
  | 5 => 0
  | 6 => n - 1
  | 7 => if i % 2 = 0 then i / 2 else n / 2 + (i - 1) / 2
  | _ => i

/-- R52: a swizzle of the elements of width `w` of a 32-bit word. A word of one element is unchanged. -/
def swizzle (c w x : Nat) : Nat :=
  if w ≥ 32 then x
  else
    let n := 32 / w
    ofElems w ((List.range n).map fun i => bits x (w * (swizzleIx c n i)) w)

/-- R51: the half select: with H = 1 the high half stands in both halves. -/
def halfSel (h : Bool) (x : Nat) : Nat := if h then bits x 16 16 + 65536 * bits x 16 16 else x

/-- R51: half select and then swizzle, for elements of width `w`. -/
def modify (s : Src) (w x : Nat) : Nat := swizzle s.w.toNat w (halfSel s.h x)

/-- Round up to a multiple of 2^k. -/
def roundUp (k x : Nat) : Nat := (x + (2 ^ k - 1)) / 2 ^ k * 2 ^ k

/-- The numbers from `a` to `a + n - 1`. -/
def span (a n : Nat) : List Nat := (List.range n).map (a + ·)

/-- The bits that are set, of the low `n`, lowest first. -/
def setBits (n x : Nat) : List Nat := (List.range n).filter (bit x)

/-- The mask with exactly these bits set. -/
def maskOf : List Nat → Nat
  | [] => 0
  | k :: ks => 2 ^ k ||| maskOf ks

end Sys2Proof.Machine
end

