-- ==== Sys2Proof/Machine/OpTable.lean ====
section
/-!
DEFINITION. The opcode map of R73 to R81 as data: for every instruction its opcode, its timing figures (R7, R114,
R115, R432) and the use it makes of the instruction fields (R70, R71).
-/
namespace Sys2Proof.Machine

/-- R114: the pace classes. -/
inductive Pace where
  | p0 | p1 | p2 | p3
  deriving DecidableEq, Repr

/-- R40: the two opcode spaces. -/
inductive Space where
  | base | ext
  deriving DecidableEq, Repr

/-- R7, R70, R115, R432: an opcode's space and numbers, pace, issue interval, latency in cycles of its pace,
worst case in tenths of a nanosecond, residence in cycles and draw weight. -/
structure OpInfo where
  space : Space
  op : Nat
  sub : Nat
  pace : Pace
  interval : Nat
  latency : Nat
  worst : Nat
  residence : Nat
  weight : Nat
  deriving DecidableEq, Repr

/-- R73 to R81, R115, R432. A device event has no opcode. -/
def opInfo : Instr → Option OpInfo
  | .nop _ => some ⟨.base, 1, 0, .p0, 1, 1, 25, 1, 1⟩
  | .movBase _ => some ⟨.base, 2, 0, .p0, 1, 2, 38, 2, 1⟩
  | .moviBase _ _ _ => some ⟨.base, 3, 0, .p0, 1, 2, 38, 2, 1⟩
  | .moviBaseLiteral _ _ _ => some ⟨.base, 3, 0, .p0, 1, 2, 38, 2, 1⟩
  | .moviI64 _ _ _ => some ⟨.base, 4, 0, .p0, 1, 2, 38, 2, 1⟩
  | .addBase _ => some ⟨.base, 5, 0, .p0, 1, 2, 38, 2, 1⟩
  | .subBase _ => some ⟨.base, 6, 0, .p0, 1, 2, 38, 2, 1⟩
  | .mulBase _ => some ⟨.base, 7, 0, .p1, 1, 4, 63, 4, 3⟩
  | .andBase _ => some ⟨.base, 8, 0, .p0, 1, 2, 38, 2, 1⟩
  | .orBase _ => some ⟨.base, 9, 0, .p0, 1, 2, 38, 2, 1⟩
  | .xorBase _ => some ⟨.base, 10, 0, .p0, 1, 2, 38, 2, 1⟩
  | .andnBase _ => some ⟨.base, 11, 0, .p0, 1, 2, 38, 2, 1⟩
  | .notBase _ => some ⟨.base, 12, 0, .p0, 1, 2, 38, 2, 1⟩
  | .shlBase _ => some ⟨.base, 13, 0, .p0, 1, 2, 38, 2, 1⟩
  | .shrBase _ => some ⟨.base, 14, 0, .p0, 1, 2, 38, 2, 1⟩
  | .sarBase _ => some ⟨.base, 15, 0, .p0, 1, 2, 38, 2, 1⟩
  | .minI32Base _ => some ⟨.base, 16, 0, .p0, 1, 2, 38, 2, 1⟩
  | .maxI32Base _ => some ⟨.base, 17, 0, .p0, 1, 2, 38, 2, 1⟩
  | .minN32Base _ => some ⟨.base, 18, 0, .p0, 1, 2, 38, 2, 1⟩
  | .maxN32Base _ => some ⟨.base, 19, 0, .p0, 1, 2, 38, 2, 1⟩
  | .negBase _ => some ⟨.base, 20, 0, .p0, 1, 2, 38, 2, 1⟩
  | .absBase _ => some ⟨.base, 21, 0, .p0, 1, 2, 38, 2, 1⟩
  | .popcBase _ => some ⟨.base, 22, 0, .p0, 1, 2, 38, 2, 1⟩
  | .clzBase _ => some ⟨.base, 23, 0, .p0, 1, 2, 38, 2, 1⟩
  | .faddBase _ => some ⟨.base, 24, 0, .p1, 1, 4, 63, 4, 3⟩
  | .fsubBase _ => some ⟨.base, 25, 0, .p1, 1, 4, 63, 4, 3⟩
  | .fmulBase _ => some ⟨.base, 26, 0, .p1, 1, 4, 63, 4, 3⟩
  | .fnegBase _ => some ⟨.base, 27, 0, .p0, 1, 2, 38, 2, 1⟩
  | .bra _ _ => some ⟨.base, 28, 0, .p0, 1, 3, 50, 3, 1⟩
  | .braLiteral _ _ => some ⟨.base, 28, 0, .p0, 1, 3, 50, 3, 1⟩
  | .brx _ _ _ => some ⟨.base, 29, 0, .p0, 1, 3, 50, 3, 1⟩
  | .call _ _ _ => some ⟨.base, 30, 0, .p0, 1, 3, 50, 3, 1⟩
  | .calli _ => some ⟨.base, 31, 0, .p0, 1, 3, 50, 3, 1⟩
  | .ret _ _ _ => some ⟨.base, 32, 0, .p0, 1, 3, 50, 3, 1⟩
  | .jn => some ⟨.base, 33, 0, .p0, 1, 3, 50, 3, 1⟩
  | .regang => some ⟨.base, 34, 0, .p0, 1, 3, 50, 3, 1⟩
  | .exit _ => some ⟨.base, 35, 0, .p0, 1, 1, 25, 1, 1⟩
  | .yield => some ⟨.base, 36, 0, .p0, 1, 1, 25, 1, 1⟩
  | .kill _ => some ⟨.base, 37, 0, .p0, 1, 1, 25, 1, 1⟩
  | .trap _ => some ⟨.base, 38, 0, .p0, 1, 40, 10000, 1, 1⟩
  | .tret => some ⟨.base, 39, 0, .p0, 1, 40, 10000, 1, 1⟩
  | .brkpt => some ⟨.base, 40, 0, .p0, 1, 40, 10000, 1, 1⟩
  | .sleep _ => some ⟨.ext, 1, 0, .p0, 1, 1, 1000, 1, 1⟩
  | .mfs _ => some ⟨.ext, 1, 1, .p0, 1, 3, 50, 1, 1⟩
  | .mts _ => some ⟨.ext, 1, 2, .p0, 1, 3, 50, 1, 1⟩
  | .phint _ => some ⟨.ext, 1, 3, .p0, 1, 1, 25, 1, 1⟩
  | .mov _ => some ⟨.ext, 2, 0, .p0, 1, 2, 38, 2, 1⟩
  | .movi _ => some ⟨.ext, 2, 1, .p0, 1, 2, 38, 2, 1⟩
  | .sel _ => some ⟨.ext, 2, 2, .p0, 1, 2, 38, 2, 1⟩
  | .xacq _ => some ⟨.ext, 2, 3, .p0, 1, 2, 1000, 2, 1⟩
  | .xrel _ => some ⟨.ext, 2, 4, .p0, 1, 1, 25, 1, 1⟩
  | .shfl _ => some ⟨.ext, 2, 5, .p0, 1, 3, 50, 3, 1⟩
  | .bcast _ => some ⟨.ext, 2, 6, .p0, 1, 3, 50, 3, 1⟩
  | .perm _ => some ⟨.ext, 2, 7, .p0, 1, 3, 50, 3, 1⟩
  | .vote _ => some ⟨.ext, 2, 8, .p0, 1, 3, 50, 3, 1⟩
  | .rdlane _ => some ⟨.ext, 2, 9, .p0, 1, 3, 50, 3, 1⟩
  | .wrlane _ => some ⟨.ext, 2, 10, .p0, 1, 3, 50, 3, 1⟩
  | .pack _ => some ⟨.ext, 2, 11, .p0, 1, 2, 38, 2, 1⟩
  | .unpack _ => some ⟨.ext, 2, 12, .p0, 1, 2, 38, 2, 1⟩
  | .swz _ => some ⟨.ext, 2, 13, .p0, 1, 2, 38, 2, 1⟩
  | .add _ => some ⟨.ext, 3, 0, .p0, 1, 2, 38, 2, 1⟩
  | .sub _ => some ⟨.ext, 3, 1, .p0, 1, 2, 38, 2, 1⟩
  | .addc _ => some ⟨.ext, 3, 2, .p0, 1, 2, 38, 2, 1⟩
  | .subb _ => some ⟨.ext, 3, 3, .p0, 1, 2, 38, 2, 1⟩
  | .sadd _ => some ⟨.ext, 3, 4, .p0, 1, 2, 38, 2, 1⟩
  | .ssub _ => some ⟨.ext, 3, 5, .p0, 1, 2, 38, 2, 1⟩
  | .and _ => some ⟨.ext, 3, 6, .p0, 1, 2, 38, 2, 1⟩
  | .or _ => some ⟨.ext, 3, 7, .p0, 1, 2, 38, 2, 1⟩
  | .xor _ => some ⟨.ext, 3, 8, .p0, 1, 2, 38, 2, 1⟩
  | .andn _ => some ⟨.ext, 3, 9, .p0, 1, 2, 38, 2, 1⟩
  | .not _ => some ⟨.ext, 3, 10, .p0, 1, 2, 38, 2, 1⟩
  | .lfn _ => some ⟨.ext, 3, 11, .p0, 1, 2, 38, 2, 1⟩
  | .lfnD _ => some ⟨.ext, 3, 11, .p0, 1, 2, 38, 2, 1⟩
  | .shl _ => some ⟨.ext, 3, 12, .p0, 1, 2, 38, 2, 1⟩
  | .shr _ => some ⟨.ext, 3, 13, .p0, 1, 2, 38, 2, 1⟩
  | .sar _ => some ⟨.ext, 3, 14, .p0, 1, 2, 38, 2, 1⟩
  | .rol _ => some ⟨.ext, 3, 15, .p0, 1, 2, 38, 2, 1⟩
  | .ror _ => some ⟨.ext, 3, 16, .p0, 1, 2, 38, 2, 1⟩
  | .fsh _ => some ⟨.ext, 3, 17, .p0, 1, 2, 38, 2, 1⟩
  | .bfx _ => some ⟨.ext, 3, 18, .p0, 1, 2, 38, 2, 1⟩
  | .bfi _ => some ⟨.ext, 3, 19, .p0, 1, 2, 38, 2, 1⟩
  | .popc _ => some ⟨.ext, 3, 20, .p0, 1, 2, 38, 2, 1⟩
  | .clz _ => some ⟨.ext, 3, 21, .p0, 1, 2, 38, 2, 1⟩
  | .ctz _ => some ⟨.ext, 3, 22, .p0, 1, 2, 38, 2, 1⟩
  | .brev _ => some ⟨.ext, 3, 23, .p0, 1, 2, 38, 2, 1⟩
  | .min _ => some ⟨.ext, 3, 24, .p0, 1, 2, 38, 2, 1⟩
  | .max _ => some ⟨.ext, 3, 25, .p0, 1, 2, 38, 2, 1⟩
  | .abs _ => some ⟨.ext, 3, 26, .p0, 1, 2, 38, 2, 1⟩
  | .neg _ => some ⟨.ext, 3, 27, .p0, 1, 2, 38, 2, 1⟩
  | .cmp _ => some ⟨.ext, 3, 28, .p0, 1, 2, 38, 2, 1⟩
  | .mul _ => some ⟨.ext, 4, 0, .p1, 1, 4, 63, 4, 3⟩
  | .mulhi _ => some ⟨.ext, 4, 1, .p1, 1, 4, 63, 4, 3⟩
  | .mad _ => some ⟨.ext, 4, 2, .p1, 1, 4, 63, 4, 3⟩
  | .madw _ => some ⟨.ext, 4, 3, .p1, 1, 4, 63, 4, 3⟩
  | .dot4 _ => some ⟨.ext, 4, 4, .p1, 1, 4, 63, 4, 4⟩
  | .mul64 _ => some ⟨.ext, 4, 5, .p3, 2, 6, 88, 6, 5⟩
  | .mulhi64 _ => some ⟨.ext, 4, 6, .p3, 2, 6, 88, 6, 5⟩
  | .mad64 _ => some ⟨.ext, 4, 7, .p3, 2, 6, 88, 6, 5⟩
  | .idiv _ => some ⟨.ext, 4, 8, .p3, 8, 20, 263, 20, 5⟩
  | .irem _ => some ⟨.ext, 4, 9, .p3, 8, 20, 263, 20, 5⟩
  | .idiv64 _ => some ⟨.ext, 4, 10, .p3, 16, 36, 463, 36, 5⟩
  | .irem64 _ => some ⟨.ext, 4, 11, .p3, 16, 36, 463, 36, 5⟩
  | .fadd _ => some ⟨.ext, 5, 0, .p1, 1, 4, 63, 4, 3⟩
  | .fsub _ => some ⟨.ext, 5, 1, .p1, 1, 4, 63, 4, 3⟩
  | .fmul _ => some ⟨.ext, 5, 2, .p1, 1, 4, 63, 4, 3⟩
  | .fma _ => some ⟨.ext, 5, 3, .p1, 1, 4, 63, 4, 3⟩
  | .fmin _ => some ⟨.ext, 5, 4, .p1, 1, 4, 63, 4, 3⟩
  | .fmax _ => some ⟨.ext, 5, 5, .p1, 1, 4, 63, 4, 3⟩
  | .fcmp _ => some ⟨.ext, 5, 6, .p1, 1, 4, 63, 4, 3⟩
  | .fcvt _ => some ⟨.ext, 5, 7, .p1, 1, 4, 63, 4, 3⟩
  | .icvt _ => some ⟨.ext, 5, 8, .p1, 1, 4, 63, 4, 3⟩
  | .fcvti _ => some ⟨.ext, 5, 9, .p1, 1, 4, 63, 4, 3⟩
  | .frnd _ => some ⟨.ext, 5, 10, .p1, 1, 4, 63, 4, 3⟩
  | .fscale _ => some ⟨.ext, 5, 11, .p1, 1, 4, 63, 4, 3⟩
  | .fcvtMx _ => some ⟨.ext, 5, 12, .p1, 2, 8, 113, 8, 4⟩
  | .faddD _ => some ⟨.ext, 6, 0, .p2, 2, 4, 63, 4, 6⟩
  | .fsubD _ => some ⟨.ext, 6, 1, .p2, 2, 4, 63, 4, 6⟩
  | .fmulD _ => some ⟨.ext, 6, 2, .p2, 2, 4, 63, 4, 6⟩
  | .fmaD _ => some ⟨.ext, 6, 3, .p2, 2, 4, 63, 4, 6⟩
  | .fminD _ => some ⟨.ext, 6, 4, .p2, 2, 4, 63, 4, 6⟩
  | .fmaxD _ => some ⟨.ext, 6, 5, .p2, 2, 4, 63, 4, 6⟩
  | .fcmpD _ => some ⟨.ext, 6, 6, .p2, 2, 4, 63, 4, 6⟩
  | .fcvtD _ => some ⟨.ext, 6, 7, .p2, 2, 4, 63, 4, 6⟩
  | .icvtD _ => some ⟨.ext, 6, 8, .p2, 2, 4, 63, 4, 6⟩
  | .fcvtiD _ => some ⟨.ext, 6, 9, .p2, 2, 4, 63, 4, 6⟩
  | .frndD _ => some ⟨.ext, 6, 10, .p2, 2, 4, 63, 4, 6⟩
  | .fscaleD _ => some ⟨.ext, 6, 11, .p2, 2, 4, 63, 4, 6⟩
  | .fneg _ => some ⟨.ext, 7, 0, .p0, 1, 2, 38, 2, 1⟩
  | .fsgn _ => some ⟨.ext, 7, 1, .p0, 1, 2, 38, 2, 1⟩
  | .fclass _ => some ⟨.ext, 7, 2, .p0, 1, 2, 38, 2, 1⟩
  | .fexpo _ => some ⟨.ext, 7, 3, .p0, 1, 2, 38, 2, 1⟩
  | .fdiv _ => some ⟨.ext, 8, 0, .p2, 4, 12, 12000, 12, 8⟩
  | .frcp _ => some ⟨.ext, 8, 1, .p2, 4, 12, 12000, 12, 8⟩
  | .fsqrt _ => some ⟨.ext, 8, 2, .p2, 4, 12, 12000, 12, 8⟩
  | .frsqrt _ => some ⟨.ext, 8, 3, .p2, 4, 12, 12000, 12, 8⟩
  | .fexp _ => some ⟨.ext, 8, 4, .p2, 4, 12, 12000, 12, 8⟩
  | .fexp2 _ => some ⟨.ext, 8, 5, .p2, 4, 12, 12000, 12, 8⟩
  | .fexpm1 _ => some ⟨.ext, 8, 6, .p2, 4, 12, 12000, 12, 8⟩
  | .flog _ => some ⟨.ext, 8, 7, .p2, 4, 12, 12000, 12, 8⟩
  | .flog2 _ => some ⟨.ext, 8, 8, .p2, 4, 12, 12000, 12, 8⟩
  | .flog1p _ => some ⟨.ext, 8, 9, .p2, 4, 12, 12000, 12, 8⟩
  | .fsin _ => some ⟨.ext, 8, 10, .p2, 4, 12, 12000, 12, 8⟩
  | .fcos _ => some ⟨.ext, 8, 11, .p2, 4, 12, 12000, 12, 8⟩
  | .ftan _ => some ⟨.ext, 8, 12, .p2, 4, 12, 12000, 12, 8⟩
  | .fsinpi _ => some ⟨.ext, 8, 13, .p2, 4, 12, 12000, 12, 8⟩
  | .fcospi _ => some ⟨.ext, 8, 14, .p2, 4, 12, 12000, 12, 8⟩
  | .fatan _ => some ⟨.ext, 8, 15, .p2, 4, 12, 12000, 12, 8⟩
  | .fhypot _ => some ⟨.ext, 8, 16, .p2, 4, 12, 12000, 12, 8⟩
  | .fpow _ => some ⟨.ext, 8, 17, .p2, 4, 12, 12000, 12, 8⟩
  | .fdot2 _ => some ⟨.ext, 8, 18, .p2, 4, 12, 12000, 12, 8⟩
  | .fdot4 _ => some ⟨.ext, 8, 19, .p2, 4, 12, 12000, 12, 8⟩
  | .gsum _ => some ⟨.ext, 8, 20, .p2, 4, 16, 12000, 16, 8⟩
  | .gsumsq _ => some ⟨.ext, 8, 21, .p2, 4, 16, 12000, 16, 8⟩
  | .fdivD _ => some ⟨.ext, 9, 0, .p2, 4, 12, 40000, 12, 8⟩
  | .frcpD _ => some ⟨.ext, 9, 1, .p2, 4, 12, 40000, 12, 8⟩
  | .fsqrtD _ => some ⟨.ext, 9, 2, .p2, 4, 12, 40000, 12, 8⟩
  | .frsqrtD _ => some ⟨.ext, 9, 3, .p2, 4, 12, 40000, 12, 8⟩
  | .fexpD _ => some ⟨.ext, 9, 4, .p2, 4, 12, 70000, 12, 8⟩
  | .fexp2D _ => some ⟨.ext, 9, 5, .p2, 4, 12, 70000, 12, 8⟩
  | .fexpm1D _ => some ⟨.ext, 9, 6, .p2, 4, 12, 70000, 12, 8⟩
  | .flogD _ => some ⟨.ext, 9, 7, .p2, 4, 12, 70000, 12, 8⟩
  | .flog2D _ => some ⟨.ext, 9, 8, .p2, 4, 12, 70000, 12, 8⟩
  | .flog1pD _ => some ⟨.ext, 9, 9, .p2, 4, 12, 70000, 12, 8⟩
  | .fsinD _ => some ⟨.ext, 9, 10, .p2, 4, 12, 130000, 12, 8⟩
  | .fcosD _ => some ⟨.ext, 9, 11, .p2, 4, 12, 130000, 12, 8⟩
  | .ftanD _ => some ⟨.ext, 9, 12, .p2, 4, 12, 130000, 12, 8⟩
  | .fsinpiD _ => some ⟨.ext, 9, 13, .p2, 4, 12, 70000, 12, 8⟩
  | .fcospiD _ => some ⟨.ext, 9, 14, .p2, 4, 12, 70000, 12, 8⟩
  | .fatanD _ => some ⟨.ext, 9, 15, .p2, 4, 12, 70000, 12, 8⟩
  | .gsumD _ => some ⟨.ext, 9, 20, .p2, 4, 16, 50000, 16, 8⟩
  | .gsumsqD _ => some ⟨.ext, 9, 21, .p2, 4, 16, 50000, 16, 8⟩
  | .gmax _ => some ⟨.ext, 10, 0, .p1, 2, 8, 113, 8, 4⟩
  | .gmin _ => some ⟨.ext, 10, 1, .p1, 2, 8, 113, 8, 4⟩
  | .fprog _ => some ⟨.ext, 10, 2, .p2, 4, 12, 130000, 12, 8⟩
  | .parkw _ => some ⟨.ext, 10, 3, .p0, 1, 1, 130000, 1, 1⟩
  | .gsumInt _ => some ⟨.ext, 10, 4, .p1, 2, 8, 113, 8, 4⟩
  | .lds _ => some ⟨.ext, 11, 0, .p1, 1, 6, 9000, 1, 2⟩
  | .sts _ => some ⟨.ext, 11, 1, .p1, 1, 1, 9000, 1, 2⟩
  | .ldsg _ => some ⟨.ext, 11, 2, .p1, 4, 10, 9000, 1, 2⟩
  | .stss _ => some ⟨.ext, 11, 3, .p1, 4, 1, 9000, 1, 2⟩
  | .atomsOp _ => some ⟨.ext, 11, 4, .p1, 2, 12, 10000, 1, 2⟩
  | .atomsXchg _ => some ⟨.ext, 11, 5, .p1, 2, 12, 10000, 1, 2⟩
  | .atomsCas _ => some ⟨.ext, 11, 6, .p1, 2, 12, 10000, 1, 2⟩
  | .sppin _ => some ⟨.ext, 11, 7, .p1, 1, 1, 48000, 1, 2⟩
  | .spfree _ => some ⟨.ext, 11, 8, .p1, 1, 1, 25, 1, 2⟩
  | .qinit _ => some ⟨.ext, 12, 0, .p1, 1, 4, 9000, 1, 2⟩
  | .qpush _ => some ⟨.ext, 12, 1, .p1, 1, 4, 9000, 1, 2⟩
  | .qpop _ => some ⟨.ext, 12, 2, .p1, 1, 4, 9000, 1, 2⟩
  | .qtry _ => some ⟨.ext, 12, 3, .p1, 1, 4, 9000, 1, 2⟩
  | .qallow _ => some ⟨.ext, 12, 4, .p1, 1, 4, 9000, 1, 2⟩
  | .fork _ => some ⟨.ext, 13, 0, .p0, 1, 2, 1000, 1, 1⟩
  | .join _ => some ⟨.ext, 13, 1, .p0, 1, 2, 1000, 1, 1⟩
  | .mmaReg _ => some ⟨.ext, 13, 2, .p0, 1, 8, 25000, 0, 1024⟩
  | .mmaSp _ => some ⟨.ext, 13, 3, .p0, 1, 8, 25000, 0, 1024⟩
  | .mmazReg _ => some ⟨.ext, 13, 4, .p0, 1, 8, 25000, 0, 1024⟩
  | .mmazSp _ => some ⟨.ext, 13, 5, .p0, 1, 8, 25000, 0, 1024⟩
  | .acld _ => some ⟨.ext, 13, 6, .p0, 16, 16, 10000, 0, 256⟩
  | .acst _ => some ⟨.ext, 13, 7, .p0, 16, 16, 10000, 0, 256⟩
  | .mdrain _ => some ⟨.ext, 13, 8, .p0, 32, 32, 20000, 0, 256⟩
  | .lutld _ => some ⟨.ext, 13, 9, .p0, 8, 8, 10000, 0, 256⟩
  | .lutsw _ => some ⟨.ext, 13, 10, .p0, 1, 1, 15, 0, 1⟩
  | .mbarv _ => some ⟨.ext, 13, 11, .p0, 1, 1, 25, 1, 1⟩
  | .mbarw _ => some ⟨.ext, 13, 12, .p0, 1, 1, 1000, 1, 1⟩
  | .ld _ => some ⟨.ext, 14, 0, .p1, 1, 160, 32000, 1, 2⟩
  | .st _ => some ⟨.ext, 14, 1, .p1, 1, 1, 32000, 1, 2⟩
  | .ldt _ => some ⟨.ext, 14, 2, .p1, 4, 200, 48000, 1, 2⟩
  | .stt _ => some ⟨.ext, 14, 3, .p1, 4, 1, 48000, 1, 2⟩
  | .ldw _ => some ⟨.ext, 14, 4, .p1, 1, 100, 17000, 1, 2⟩
  | .cpy _ => some ⟨.ext, 14, 5, .p1, 2, 2, 5000, 1, 2⟩
  | .publish _ => some ⟨.ext, 14, 6, .p0, 1, 2, 20000, 1, 2⟩
  | .prf _ => some ⟨.ext, 14, 7, .p1, 1, 1, 25, 1, 2⟩
  | .cflush _ => some ⟨.ext, 14, 8, .p1, 1, 1, 32000, 1, 2⟩
  | .xprobe _ => some ⟨.ext, 14, 9, .p1, 1, 40, 24000, 1, 2⟩
  | .fence _ => some ⟨.ext, 15, 0, .p0, 1, 1, 25, 1, 2⟩
  | .fwait _ => some ⟨.ext, 15, 1, .p0, 1, 1, 48000, 1, 2⟩
  | .ldacq _ => some ⟨.ext, 15, 2, .p1, 1, 160, 32000, 1, 2⟩
  | .strel _ => some ⟨.ext, 15, 3, .p1, 1, 1, 32000, 1, 2⟩
  | .atomOp _ => some ⟨.ext, 15, 4, .p1, 1, 400, 40000, 1, 2⟩
  | .atomXchg _ => some ⟨.ext, 15, 5, .p1, 1, 400, 40000, 1, 2⟩
  | .atomCas _ => some ⟨.ext, 15, 6, .p1, 1, 400, 40000, 1, 2⟩
  | .redInt _ => some ⟨.ext, 15, 7, .p1, 1, 1, 40000, 1, 2⟩
  | .redFloat _ => some ⟨.ext, 15, 8, .p1, 1, 1, 40000, 1, 2⟩
  | .redget _ => some ⟨.ext, 15, 9, .p1, 1, 400, 40000, 1, 2⟩
  | .bar _ => some ⟨.ext, 15, 10, .p0, 1, 2, 1000, 1, 2⟩
  | .barv _ => some ⟨.ext, 15, 11, .p0, 1, 2, 38, 1, 2⟩
  | .barw _ => some ⟨.ext, 15, 12, .p0, 1, 2, 1000, 1, 2⟩
  | .sbar _ => some ⟨.ext, 15, 13, .p0, 1, 2, 20000, 1, 2⟩
  | .fastCompletion _ _ _ => none
  | .weuAdmission _ => none
  | .weuDecision _ _ => none
  | .exactPassStart _ _ => none
  | .exactPassEnd _ _ => none
  | .settlement _ _ => none
  | .icacheFill _ _ => none
  | .lineFill _ _ _ => none
  | .pageRefill _ _ => none
  | .tileLockGrant _ => none
  | .transferStart _ => none
  | .transferComplete _ _ => none
  | .engineTranslationFault _ => none
  | .enginePermissionFault _ => none
  | .drainHandover _ _ => none
  | .spillContributionAdd _ => none
  | .queueWaiterResume _ _ => none
  | .namedBarrierRelease _ _ => none
  | .matrixBarrierRelease _ _ => none
  | .xacqGrant _ _ => none
  | .sleepWake _ _ => none
  | .fwaitRelease _ _ => none
  | .sbarRelease _ => none
  | .weightRefreshWindowEnd _ _ => none
  | .syncRoundEnd _ => none
  | .blockHalt _ => none
  | .blockStopped _ => none
  | .timeSliceExpiry _ => none
  | .preempt _ _ => none
  | .fetchFaultSwapout _ => none
  | .blockResume _ => none
  | .blockPlacement => none
  | .hangDetection _ => none
  | .gatherTimer _ => none
  | .retentionEntry _ => none
  | .retentionExit _ _ => none
  | .hostBar2Access _ => none
  | .atomicCollision _ _ => none
  | .doorbellWrite _ _ => none
  | .reconcilePass => none
  | .launch _ => none
  | .record _ => none
  | .signal _ => none
  | .signalWrite _ => none
  | .wait _ => none
  | .waitSatisfied _ => none
  | .weights _ => none
  | .slotload _ => none
  | .flush _ => none
  | .flushClose _ => none
  | .replicaRelease _ => none
  | .replicaEnd _ => none
  | .queueCreate _ => none
  | .queueDestroy _ => none
  | .invalidateRange _ => none
  | .invalidateAll _ => none
  | .invalidationComplete => none
  | .pagePresentResponse _ => none
  | .pageNotPresentResponse _ => none
  | .fwVerify => none
  | .fwCommit => none
  | .attestationRequest _ => none
  | .attestationReport => none
  | .dbgHalt _ => none
  | .debuggerHalted => none
  | .dbgRelease _ => none
  | .dbgStep _ => none
  | .operatingPointRequest _ _ => none
  | .relockStart _ => none
  | .relockEnd _ => none
  | .railRampEnd _ => none
  | .deniedClear _ => none
  | .islandControlWrite _ _ => none
  | .sampleBoundary => none
  | .ntEntryRampEnd _ _ => none
  | .ntExitRampEnd _ _ => none
  | .droopWarn _ => none
  | .droopLimit _ => none
  | .stretchEnd _ => none
  | .seCollClear _ => none
  | .errLogOvfClear => none
  | .mmioWrite _ _ _ => none
  | .powerGood => none
  | .bringupStageComplete _ => none
  | .pairMismatch => none
  | .workerTimeout _ => none
  | .undefinedEncoding _ => none
  | .coreCycle _ => none
  | .fabricCycle => none
  | .accessPerforms _ => none
  | .causalWriteApply _ _ => none
  | .matrixOperandRead _ _ => none
  | .matrixInstructionComplete _ _ => none
  | .sourceReadDone _ _ => none
  | .hostEndsLaunch _ => none
  | .priResponse _ _ => none
  | .atsTranslationCompletion _ _ _ => none
  | .atsInvalidation _ _ _ => none
  | .prqTailWrite _ => none
  | .keasetRemoteAccess _ => none
  | .fwVerifyComplete => none
  | .fwCommitRestart _ => none
  | .pairRestartComplete => none
  | .dbgReleaseComplete => none

/-- R70: how an instruction uses a register field: not at all, as one register, as an even and odd pair, as
a pair when TY is a 64-bit type, by the width of a conversion's source type, as the comparand and new value of
`atom.cas` (R81), as an accumulator number (R309), as a scope code (R352), or as registers of a feeder
group (R288). -/
inductive Use where
  | none | one | pair | byTy | src | quad | acc | scopeD | feeder
  deriving DecidableEq, Repr

/-- R57: whether operand B must be a register, or may be an immediate or a literal (b*), or a literal
only (b+). -/
inductive BKind where
  | reg | star | plus
  deriving DecidableEq, Repr

/-- The fields an extended opcode uses and the values it accepts (R47, R48, R49, R54 to R57, R70). -/
structure OpSpec where
  d : Use := .none
  a : Use := .none
  b : Use := .none
  c : Use := .none
  tys : List Ty := []
  usesImm : Bool := false
  rm : Bool := false
  lk : Bool := false
  sat : Bool := false
  x : Bool := true
  xl : Bool := false
  bk : BKind := .reg
  aMods : Bool := false
  bMods : Bool := false
  cMods : Bool := false
  scopes : List Nat := []
  ords : List Nat := []
  lastOk : Bool := true
  guardOk : Bool := true
  deriving DecidableEq, Repr

/-- R71: the set I. -/
def tysI : List Ty := [.i32, .n32, .i64, .n64]
/-- The 32-bit members of I. -/
def tysI32 : List Ty := [.i32, .n32]
/-- The 64-bit members of I. -/
def tysI64 : List Ty := [.i64, .n64]
/-- R71: the sets I and IP together. -/
def tysIIP : List Ty := [.i32, .n32, .i64, .n64, .i16, .n16, .i8, .n8]
/-- R71: the set F. -/
def tysF : List Ty := [.f32, .f16, .bf16]
/-- R71: the set D. -/
def tysD : List Ty := [.f64]
/-- R71: the set All. -/
def allTys : List Ty :=
  [.i32, .n32, .i64, .n64, .f32, .f64, .f16, .bf16, .e4m3, .e5m2, .e2m1, .cb4, .i8, .n8, .i16, .n16]

/-- R74 to R81: the field use of every extended opcode. -/
def opSpec : Instr → Option OpSpec
  | .nop _ => none
  | .movBase _ => none
  | .moviBase _ _ _ => none
  | .moviBaseLiteral _ _ _ => none
  | .moviI64 _ _ _ => none
  | .addBase _ => none
  | .subBase _ => none
  | .mulBase _ => none
  | .andBase _ => none
  | .orBase _ => none
  | .xorBase _ => none
  | .andnBase _ => none
  | .notBase _ => none
  | .shlBase _ => none
  | .shrBase _ => none
  | .sarBase _ => none
  | .minI32Base _ => none
  | .maxI32Base _ => none
  | .minN32Base _ => none
  | .maxN32Base _ => none
  | .negBase _ => none
  | .absBase _ => none
  | .popcBase _ => none
  | .clzBase _ => none
  | .faddBase _ => none
  | .fsubBase _ => none
  | .fmulBase _ => none
  | .fnegBase _ => none
  | .bra _ _ => none
  | .braLiteral _ _ => none
  | .brx _ _ _ => none
  | .call _ _ _ => none
  | .calli _ => none
  | .ret _ _ _ => none
  | .jn => none
  | .regang => none
  | .exit _ => none
  | .yield => none
  | .kill _ => none
  | .trap _ => none
  | .tret => none
  | .brkpt => none
  | .sleep _ => some { usesImm := true, guardOk := false }
  | .mfs _ => some { d := .byTy, tys := [.i32, .i64], usesImm := true }
  | .mts _ => some { a := .byTy, tys := [.i32, .i64], usesImm := true }
  | .phint _ => some { usesImm := true }
  | .mov _ => some { d := .byTy, a := .byTy, tys := allTys, aMods := true }
  | .movi _ => some { d := .byTy, tys := [.i32, .n32, .i64, .n64, .i16, .n16, .i8, .n8, .f32, .f16, .bf16, .f64], usesImm := true, xl := true }
  | .sel _ => some { d := .byTy, a := .byTy, b := .byTy, c := .one, tys := allTys, aMods := true, bMods := true }
  | .xacq _ => some { usesImm := true, guardOk := false }
  | .xrel _ => some { usesImm := true, guardOk := false }
  | .shfl _ => some { d := .byTy, a := .byTy, b := .one, tys := allTys, usesImm := true, aMods := true, bMods := true }
  | .bcast _ => some { d := .byTy, a := .byTy, tys := allTys, usesImm := true, aMods := true }
  | .perm _ => some { d := .one, a := .one, b := .one, c := .one, usesImm := true }
  | .vote _ => some { d := .one, a := .one, usesImm := true }
  | .rdlane _ => some { d := .byTy, a := .byTy, b := .one, tys := allTys, aMods := true }
  | .wrlane _ => some { d := .byTy, a := .byTy, b := .one, tys := allTys, aMods := true }
  | .pack _ => some { d := .one, a := .one, b := .one, tys := [.i16, .n16, .i8, .n8, .f16, .bf16, .e4m3, .e5m2, .e2m1, .cb4], aMods := true, bMods := true }
  | .unpack _ => some { d := .one, a := .one, tys := [.i16, .n16, .i8, .n8, .f16, .bf16, .e4m3, .e5m2, .e2m1, .cb4], usesImm := true, aMods := true }
  | .swz _ => some { d := .one, a := .one, tys := [.i16, .n16, .i8, .n8, .f16, .bf16, .e4m3, .e5m2, .e2m1, .cb4], usesImm := true, aMods := true }
  | .add _ => some { d := .byTy, a := .byTy, b := .byTy, tys := tysIIP, xl := true, bk := .star, aMods := true, bMods := true }
  | .sub _ => some { d := .byTy, a := .byTy, b := .byTy, tys := tysIIP, xl := true, bk := .star, aMods := true, bMods := true }
  | .addc _ => some { d := .pair, a := .one, b := .one, c := .one, tys := tysI32 }
  | .subb _ => some { d := .pair, a := .one, b := .one, c := .one, tys := tysI32 }
  | .sadd _ => some { d := .byTy, a := .byTy, b := .byTy, tys := tysIIP, xl := true, bk := .star, aMods := true, bMods := true }
  | .ssub _ => some { d := .byTy, a := .byTy, b := .byTy, tys := tysIIP, xl := true, bk := .star, aMods := true, bMods := true }
  | .and _ => some { d := .byTy, a := .byTy, b := .byTy, tys := tysIIP, xl := true, bk := .star, aMods := true, bMods := true }
  | .or _ => some { d := .byTy, a := .byTy, b := .byTy, tys := tysIIP, xl := true, bk := .star, aMods := true, bMods := true }
  | .xor _ => some { d := .byTy, a := .byTy, b := .byTy, tys := tysIIP, xl := true, bk := .star, aMods := true, bMods := true }
  | .andn _ => some { d := .byTy, a := .byTy, b := .byTy, tys := tysIIP, xl := true, bk := .star, aMods := true, bMods := true }
  | .not _ => some { d := .byTy, a := .byTy, tys := tysIIP, aMods := true }
  | .lfn _ => some { d := .byTy, a := .byTy, b := .byTy, c := .byTy, tys := tysI, usesImm := true }
  | .lfnD _ => some { d := .byTy, a := .byTy, b := .byTy, c := .byTy, tys := tysI, xl := true, x := false }
  | .shl _ => some { d := .byTy, a := .byTy, b := .byTy, tys := tysIIP, xl := true, bk := .star, aMods := true, bMods := true }
  | .shr _ => some { d := .byTy, a := .byTy, b := .byTy, tys := tysIIP, xl := true, bk := .star, aMods := true, bMods := true }
  | .sar _ => some { d := .byTy, a := .byTy, b := .byTy, tys := tysIIP, xl := true, bk := .star, aMods := true, bMods := true }
  | .rol _ => some { d := .byTy, a := .byTy, b := .byTy, tys := tysIIP, xl := true, bk := .star, aMods := true, bMods := true }
  | .ror _ => some { d := .byTy, a := .byTy, b := .byTy, tys := tysIIP, xl := true, bk := .star, aMods := true, bMods := true }
  | .fsh _ => some { d := .byTy, a := .byTy, b := .byTy, c := .one, tys := tysI }
  | .bfx _ => some { d := .byTy, a := .byTy, tys := tysI, usesImm := true }
  | .bfi _ => some { d := .byTy, a := .byTy, b := .byTy, tys := tysI, usesImm := true }
  | .popc _ => some { d := .byTy, a := .byTy, tys := tysI }
  | .clz _ => some { d := .byTy, a := .byTy, tys := tysI }
  | .ctz _ => some { d := .byTy, a := .byTy, tys := tysI }
  | .brev _ => some { d := .byTy, a := .byTy, tys := tysI }
  | .min _ => some { d := .byTy, a := .byTy, b := .byTy, tys := tysIIP, xl := true, bk := .star, aMods := true, bMods := true }
  | .max _ => some { d := .byTy, a := .byTy, b := .byTy, tys := tysIIP, xl := true, bk := .star, aMods := true, bMods := true }
  | .abs _ => some { d := .byTy, a := .byTy, tys := tysIIP, aMods := true }
  | .neg _ => some { d := .byTy, a := .byTy, tys := tysIIP, aMods := true }
  | .cmp _ => some { d := .one, a := .byTy, b := .byTy, tys := tysIIP, usesImm := true, xl := true, bk := .plus, aMods := true, bMods := true }
  | .mul _ => some { d := .byTy, a := .byTy, b := .byTy, tys := [.i32, .n32, .i16, .n16, .i8, .n8], xl := true, bk := .star, aMods := true, bMods := true }
  | .mulhi _ => some { d := .byTy, a := .byTy, b := .byTy, tys := [.i32, .n32, .i16, .n16, .i8, .n8], xl := true, bk := .star, aMods := true, bMods := true }
  | .mad _ => some { d := .byTy, a := .byTy, b := .byTy, c := .byTy, tys := [.i32, .n32, .i16, .n16, .i8, .n8], aMods := true, bMods := true, cMods := true }
  | .madw _ => some { d := .pair, a := .one, b := .one, c := .pair, tys := tysI32 }
  | .dot4 _ => some { d := .one, a := .one, b := .one, c := .one, tys := [.i8, .n8], sat := true, aMods := true, bMods := true }
  | .mul64 _ => some { d := .byTy, a := .byTy, b := .byTy, tys := tysI64, lk := true, xl := true, bk := .star }
  | .mulhi64 _ => some { d := .byTy, a := .byTy, b := .byTy, tys := tysI64, lk := true, xl := true, bk := .star }
  | .mad64 _ => some { d := .byTy, a := .byTy, b := .byTy, c := .byTy, tys := tysI64, lk := true }
  | .idiv _ => some { d := .byTy, a := .byTy, b := .byTy, tys := [.i32, .n32, .i16, .n16, .i8, .n8], lk := true, xl := true, bk := .star, aMods := true, bMods := true }
  | .irem _ => some { d := .byTy, a := .byTy, b := .byTy, tys := [.i32, .n32, .i16, .n16, .i8, .n8], lk := true, xl := true, bk := .star, aMods := true, bMods := true }
  | .idiv64 _ => some { d := .byTy, a := .byTy, b := .byTy, tys := tysI64, lk := true, xl := true, bk := .star }
  | .irem64 _ => some { d := .byTy, a := .byTy, b := .byTy, tys := tysI64, lk := true, xl := true, bk := .star }
  | .fadd _ => some { d := .byTy, a := .byTy, b := .byTy, tys := tysF, rm := true, xl := true, bk := .star, aMods := true, bMods := true }
  | .fsub _ => some { d := .byTy, a := .byTy, b := .byTy, tys := tysF, rm := true, xl := true, bk := .star, aMods := true, bMods := true }
  | .fmul _ => some { d := .byTy, a := .byTy, b := .byTy, tys := tysF, rm := true, xl := true, bk := .star, aMods := true, bMods := true }
  | .fma _ => some { d := .byTy, a := .byTy, b := .byTy, c := .byTy, tys := tysF, rm := true, aMods := true, bMods := true, cMods := true }
  | .fmin _ => some { d := .byTy, a := .byTy, b := .byTy, tys := tysF, xl := true, bk := .star, aMods := true, bMods := true }
  | .fmax _ => some { d := .byTy, a := .byTy, b := .byTy, tys := tysF, xl := true, bk := .star, aMods := true, bMods := true }
  | .fcmp _ => some { d := .one, a := .byTy, b := .byTy, tys := tysF, usesImm := true, aMods := true, bMods := true }
  | .fcvt _ => some { d := .byTy, a := .src, tys := [.f32, .f16, .bf16, .e4m3, .e5m2, .e2m1], usesImm := true, rm := true, sat := true, aMods := true }
  | .icvt _ => some { d := .byTy, a := .src, tys := [.f32, .f16, .bf16, .e4m3, .e5m2, .e2m1], usesImm := true, rm := true, aMods := true }
  | .fcvti _ => some { d := .byTy, a := .src, tys := [.i32, .n32, .i16, .n16, .i8, .n8], usesImm := true, rm := true, sat := true, aMods := true }
  | .frnd _ => some { d := .byTy, a := .byTy, tys := tysF, rm := true, aMods := true }
  | .fscale _ => some { d := .byTy, a := .byTy, b := .one, tys := tysF, rm := true, aMods := true, bMods := true }
  | .fcvtMx _ => some { d := .one, a := .src, b := .one, tys := [.e4m3, .e5m2, .e2m1], usesImm := true, rm := true, sat := true, aMods := true }
  | .faddD _ => some { d := .byTy, a := .byTy, b := .byTy, tys := tysD, rm := true, xl := true, bk := .star, aMods := true, bMods := true }
  | .fsubD _ => some { d := .byTy, a := .byTy, b := .byTy, tys := tysD, rm := true, xl := true, bk := .star, aMods := true, bMods := true }
  | .fmulD _ => some { d := .byTy, a := .byTy, b := .byTy, tys := tysD, rm := true, xl := true, bk := .star, aMods := true, bMods := true }
  | .fmaD _ => some { d := .byTy, a := .byTy, b := .byTy, c := .byTy, tys := tysD, rm := true, aMods := true, bMods := true, cMods := true }
  | .fminD _ => some { d := .byTy, a := .byTy, b := .byTy, tys := tysD, xl := true, bk := .star, aMods := true, bMods := true }
  | .fmaxD _ => some { d := .byTy, a := .byTy, b := .byTy, tys := tysD, xl := true, bk := .star, aMods := true, bMods := true }
  | .fcmpD _ => some { d := .one, a := .byTy, b := .byTy, tys := tysD, usesImm := true, aMods := true, bMods := true }
  | .fcvtD _ => some { d := .byTy, a := .src, tys := [.f32, .f16, .bf16, .e4m3, .e5m2, .e2m1, .f64], usesImm := true, rm := true, sat := true, aMods := true }
  | .icvtD _ => some { d := .byTy, a := .src, tys := [.f32, .f16, .bf16, .e4m3, .e5m2, .e2m1, .f64], usesImm := true, rm := true, aMods := true }
  | .fcvtiD _ => some { d := .byTy, a := .src, tys := tysI, usesImm := true, rm := true, sat := true, aMods := true }
  | .frndD _ => some { d := .byTy, a := .byTy, tys := tysD, rm := true, aMods := true }
  | .fscaleD _ => some { d := .byTy, a := .byTy, b := .one, tys := tysD, rm := true, aMods := true, bMods := true }
  | .fneg _ => some { d := .byTy, a := .byTy, tys := [.f32, .f16, .bf16, .f64, .e4m3, .e5m2, .e2m1], aMods := true }
  | .fsgn _ => some { d := .byTy, a := .byTy, b := .byTy, tys := [.f32, .f16, .bf16, .f64, .e4m3, .e5m2, .e2m1], aMods := true, bMods := true }
  | .fclass _ => some { d := .one, a := .byTy, tys := [.f32, .f16, .bf16, .f64, .e4m3, .e5m2, .e2m1], aMods := true }
  | .fexpo _ => some { d := .one, a := .byTy, tys := [.f32, .f16, .bf16, .f64, .e4m3, .e5m2, .e2m1], aMods := true }
  | .fdiv _ => some { d := .byTy, a := .byTy, b := .byTy, tys := tysF, rm := true, lk := true, aMods := true, bMods := true }
  | .frcp _ => some { d := .byTy, a := .byTy, tys := tysF, rm := true, lk := true, aMods := true }
  | .fsqrt _ => some { d := .byTy, a := .byTy, tys := tysF, rm := true, lk := true, aMods := true }
  | .frsqrt _ => some { d := .byTy, a := .byTy, tys := tysF, rm := true, lk := true, aMods := true }
  | .fexp _ => some { d := .byTy, a := .byTy, tys := tysF, rm := true, lk := true, aMods := true }
  | .fexp2 _ => some { d := .byTy, a := .byTy, tys := tysF, rm := true, lk := true, aMods := true }
  | .fexpm1 _ => some { d := .byTy, a := .byTy, tys := tysF, rm := true, lk := true, aMods := true }
  | .flog _ => some { d := .byTy, a := .byTy, tys := tysF, rm := true, lk := true, aMods := true }
  | .flog2 _ => some { d := .byTy, a := .byTy, tys := tysF, rm := true, lk := true, aMods := true }
  | .flog1p _ => some { d := .byTy, a := .byTy, tys := tysF, rm := true, lk := true, aMods := true }
  | .fsin _ => some { d := .byTy, a := .byTy, tys := tysF, rm := true, lk := true, aMods := true }
  | .fcos _ => some { d := .byTy, a := .byTy, tys := tysF, rm := true, lk := true, aMods := true }
  | .ftan _ => some { d := .byTy, a := .byTy, tys := tysF, rm := true, lk := true, aMods := true }
  | .fsinpi _ => some { d := .byTy, a := .byTy, tys := tysF, rm := true, lk := true, aMods := true }
  | .fcospi _ => some { d := .byTy, a := .byTy, tys := tysF, rm := true, lk := true, aMods := true }
  | .fatan _ => some { d := .byTy, a := .byTy, tys := tysF, rm := true, lk := true, aMods := true }
  | .fhypot _ => some { d := .byTy, a := .byTy, b := .byTy, tys := tysF, rm := true, lk := true, aMods := true, bMods := true }
  | .fpow _ => some { d := .byTy, a := .byTy, b := .byTy, tys := tysF, rm := true, lk := true, aMods := true, bMods := true }
  | .fdot2 _ => some { d := .one, a := .one, b := .one, c := .one, tys := [.f16, .bf16], rm := true, lk := true, aMods := true, bMods := true }
  | .fdot4 _ => some { d := .one, a := .one, b := .one, c := .one, tys := [.e4m3, .e5m2], rm := true, lk := true, aMods := true, bMods := true }
  | .gsum _ => some { d := .byTy, a := .byTy, tys := tysF, rm := true, lk := true, aMods := true }
  | .gsumsq _ => some { d := .byTy, a := .byTy, tys := tysF, rm := true, lk := true, aMods := true }
  | .fdivD _ => some { d := .byTy, a := .byTy, b := .byTy, tys := tysD, rm := true, lk := true }
  | .frcpD _ => some { d := .byTy, a := .byTy, tys := tysD, rm := true, lk := true }
  | .fsqrtD _ => some { d := .byTy, a := .byTy, tys := tysD, rm := true, lk := true }
  | .frsqrtD _ => some { d := .byTy, a := .byTy, tys := tysD, rm := true, lk := true }
  | .fexpD _ => some { d := .byTy, a := .byTy, tys := tysD, rm := true, lk := true }
  | .fexp2D _ => some { d := .byTy, a := .byTy, tys := tysD, rm := true, lk := true }
  | .fexpm1D _ => some { d := .byTy, a := .byTy, tys := tysD, rm := true, lk := true }
  | .flogD _ => some { d := .byTy, a := .byTy, tys := tysD, rm := true, lk := true }
  | .flog2D _ => some { d := .byTy, a := .byTy, tys := tysD, rm := true, lk := true }
  | .flog1pD _ => some { d := .byTy, a := .byTy, tys := tysD, rm := true, lk := true }
  | .fsinD _ => some { d := .byTy, a := .byTy, tys := tysD, rm := true, lk := true }
  | .fcosD _ => some { d := .byTy, a := .byTy, tys := tysD, rm := true, lk := true }
  | .ftanD _ => some { d := .byTy, a := .byTy, tys := tysD, rm := true, lk := true }
  | .fsinpiD _ => some { d := .byTy, a := .byTy, tys := tysD, rm := true, lk := true }
  | .fcospiD _ => some { d := .byTy, a := .byTy, tys := tysD, rm := true, lk := true }
  | .fatanD _ => some { d := .byTy, a := .byTy, tys := tysD, rm := true, lk := true }
  | .gsumD _ => some { d := .byTy, a := .byTy, tys := tysD, rm := true, lk := true }
  | .gsumsqD _ => some { d := .byTy, a := .byTy, tys := tysD, rm := true, lk := true }
  | .gmax _ => some { d := .byTy, a := .byTy, tys := [.i32, .n32, .i64, .n64, .f32, .f16, .bf16, .f64], aMods := true }
  | .gmin _ => some { d := .byTy, a := .byTy, tys := [.i32, .n32, .i64, .n64, .f32, .f16, .bf16, .f64], aMods := true }
  | .fprog _ => some { d := .byTy, a := .byTy, b := .byTy, c := .byTy, tys := [.f32, .f16, .bf16, .f64], usesImm := true, rm := true, lk := true, aMods := true, bMods := true, cMods := true }
  | .parkw _ => some { guardOk := false }
  | .gsumInt _ => some { d := .pair, a := .one, tys := tysI32 }
  | .lds _ => some { d := .byTy, a := .one, tys := allTys, usesImm := true, lk := true }
  | .sts _ => some { a := .one, b := .byTy, tys := allTys, usesImm := true, bMods := true }
  | .ldsg _ => some { d := .one, a := .one, tys := [.i32, .n32, .f32, .i16, .n16, .i8, .n8, .f16, .bf16], usesImm := true, lk := true }
  | .stss _ => some { a := .one, b := .one, tys := [.i32, .n32, .f32, .i16, .n16, .i8, .n8, .f16, .bf16], usesImm := true }
  | .atomsOp _ => some { d := .byTy, a := .one, b := .byTy, tys := tysI, usesImm := true, lk := true }
  | .atomsXchg _ => some { d := .byTy, a := .one, b := .byTy, tys := tysI, lk := true }
  | .atomsCas _ => some { d := .byTy, a := .one, b := .byTy, c := .byTy, tys := tysI, lk := true }
  | .sppin _ => some { a := .one, usesImm := true }
  | .spfree _ => some { a := .one, usesImm := true }
  | .qinit _ => some { a := .one, b := .one, usesImm := true }
  | .qpush _ => some { a := .pair, usesImm := true }
  | .qpop _ => some { d := .pair, usesImm := true }
  | .qtry _ => some { d := .pair, usesImm := true }
  | .qallow _ => some { a := .one, usesImm := true }
  | .fork _ => some { a := .pair, b := .pair, guardOk := false }
  | .join _ => some { guardOk := false }
  | .mmaReg _ => some { d := .acc, a := .feeder, b := .feeder, c := .one, tys := [.f32, .f16, .bf16, .f64, .e4m3, .e5m2, .e2m1, .cb4], usesImm := true, guardOk := false }
  | .mmaSp _ => some { d := .acc, a := .pair, b := .pair, c := .one, tys := [.f32, .f16, .bf16, .f64, .e4m3, .e5m2, .e2m1, .cb4], usesImm := true, lastOk := false, guardOk := false }
  | .mmazReg _ => some { d := .acc, a := .feeder, b := .feeder, c := .one, tys := [.f32, .f16, .bf16, .f64, .e4m3, .e5m2, .e2m1, .cb4], usesImm := true, guardOk := false }
  | .mmazSp _ => some { d := .acc, a := .pair, b := .pair, c := .one, tys := [.f32, .f16, .bf16, .f64, .e4m3, .e5m2, .e2m1, .cb4], usesImm := true, lastOk := false, guardOk := false }
  | .acld _ => some { d := .acc, a := .pair, usesImm := true, lastOk := false, guardOk := false }
  | .acst _ => some { d := .acc, a := .pair, usesImm := true, lastOk := false, guardOk := false }
  | .mdrain _ => some { d := .acc, a := .pair, tys := [.f32, .f16, .bf16, .f64, .e4m3, .e5m2, .e2m1], usesImm := true, rm := true, sat := true, lastOk := false, guardOk := false }
  | .lutld _ => some { a := .pair, usesImm := true, lastOk := false, guardOk := false }
  | .lutsw _ => some { guardOk := false }
  | .mbarv _ => some { usesImm := true }
  | .mbarw _ => some { usesImm := true }
  | .ld _ => some { d := .byTy, a := .pair, tys := allTys, usesImm := true, lk := true, xl := true, scopes := [0, 1, 2, 3, 4, 5], ords := [0] }
  | .st _ => some { a := .pair, b := .byTy, tys := allTys, usesImm := true, xl := true, bMods := true, scopes := [0, 1, 2, 3, 4, 5], ords := [0] }
  | .ldt _ => some { d := .scopeD, a := .pair, b := .pair, c := .one, lk := true, lastOk := false }
  | .stt _ => some { d := .scopeD, a := .pair, b := .pair, c := .one, lastOk := false }
  | .ldw _ => some { d := .byTy, a := .pair, tys := allTys, usesImm := true, lk := true, xl := true }
  | .cpy _ => some { a := .pair, b := .pair, usesImm := true, scopes := [0, 1, 2, 3, 4], ords := [0, 2] }
  | .publish _ => some { a := .pair, usesImm := true, scopes := [0, 1, 2, 3, 4], ords := [0] }
  | .prf _ => some { a := .pair, usesImm := true, xl := true }
  | .cflush _ => some { a := .pair, usesImm := true, xl := true, scopes := [5], ords := [0] }
  | .xprobe _ => some { d := .one, a := .pair, lk := true }
  | .fence _ => some { d := .one, usesImm := true, scopes := [0, 1, 2, 3, 4, 5], ords := [0] }
  | .fwait _ => some { a := .one }
  | .ldacq _ => some { d := .byTy, a := .pair, tys := allTys, usesImm := true, lk := true, xl := true, scopes := [0, 1, 2, 3, 4, 5], ords := [0] }
  | .strel _ => some { a := .pair, b := .byTy, tys := allTys, usesImm := true, xl := true, bMods := true, scopes := [0, 1, 2, 3, 4, 5], ords := [0] }
  | .atomOp _ => some { d := .byTy, a := .pair, b := .byTy, tys := tysI, usesImm := true, lk := true, scopes := [0, 1, 2, 3, 4, 5], ords := [0, 1, 2, 3] }
  | .atomXchg _ => some { d := .byTy, a := .pair, b := .byTy, tys := tysI, lk := true, scopes := [0, 1, 2, 3, 4, 5], ords := [0, 1, 2, 3] }
  | .atomCas _ => some { d := .byTy, a := .pair, b := .quad, tys := tysI, lk := true, scopes := [0, 1, 2, 3, 4, 5], ords := [0, 1, 2, 3] }
  | .redInt _ => some { a := .pair, b := .byTy, tys := tysI, usesImm := true, scopes := [0, 1, 2, 3, 4, 5], ords := [0, 2] }
  | .redFloat _ => some { a := .pair, b := .byTy, tys := [.f32, .f16, .bf16, .f64], usesImm := true, bMods := true, scopes := [0, 1, 2, 3, 4, 5], ords := [0, 2] }
  | .redget _ => some { d := .byTy, a := .pair, tys := [.f32, .f16, .bf16, .f64], usesImm := true, rm := true, lk := true, scopes := [0, 1, 2, 3, 4, 5], ords := [0, 1] }
  | .bar _ => some { a := .one, usesImm := true }
  | .barv _ => some { a := .one, usesImm := true }
  | .barw _ => some { usesImm := true }
  | .sbar _ => some { usesImm := true, guardOk := false }
  | .fastCompletion _ _ _ => none
  | .weuAdmission _ => none
  | .weuDecision _ _ => none
  | .exactPassStart _ _ => none
  | .exactPassEnd _ _ => none
  | .settlement _ _ => none
  | .icacheFill _ _ => none
  | .lineFill _ _ _ => none
  | .pageRefill _ _ => none
  | .tileLockGrant _ => none
  | .transferStart _ => none
  | .transferComplete _ _ => none
  | .engineTranslationFault _ => none
  | .enginePermissionFault _ => none
  | .drainHandover _ _ => none
  | .spillContributionAdd _ => none
  | .queueWaiterResume _ _ => none
  | .namedBarrierRelease _ _ => none
  | .matrixBarrierRelease _ _ => none
  | .xacqGrant _ _ => none
  | .sleepWake _ _ => none
  | .fwaitRelease _ _ => none
  | .sbarRelease _ => none
  | .weightRefreshWindowEnd _ _ => none
  | .syncRoundEnd _ => none
  | .blockHalt _ => none
  | .blockStopped _ => none
  | .timeSliceExpiry _ => none
  | .preempt _ _ => none
  | .fetchFaultSwapout _ => none
  | .blockResume _ => none
  | .blockPlacement => none
  | .hangDetection _ => none
  | .gatherTimer _ => none
  | .retentionEntry _ => none
  | .retentionExit _ _ => none
  | .hostBar2Access _ => none
  | .atomicCollision _ _ => none
  | .doorbellWrite _ _ => none
  | .reconcilePass => none
  | .launch _ => none
  | .record _ => none
  | .signal _ => none
  | .signalWrite _ => none
  | .wait _ => none
  | .waitSatisfied _ => none
  | .weights _ => none
  | .slotload _ => none
  | .flush _ => none
  | .flushClose _ => none
  | .replicaRelease _ => none
  | .replicaEnd _ => none
  | .queueCreate _ => none
  | .queueDestroy _ => none
  | .invalidateRange _ => none
  | .invalidateAll _ => none
  | .invalidationComplete => none
  | .pagePresentResponse _ => none
  | .pageNotPresentResponse _ => none
  | .fwVerify => none
  | .fwCommit => none
  | .attestationRequest _ => none
  | .attestationReport => none
  | .dbgHalt _ => none
  | .debuggerHalted => none
  | .dbgRelease _ => none
  | .dbgStep _ => none
  | .operatingPointRequest _ _ => none
  | .relockStart _ => none
  | .relockEnd _ => none
  | .railRampEnd _ => none
  | .deniedClear _ => none
  | .islandControlWrite _ _ => none
  | .sampleBoundary => none
  | .ntEntryRampEnd _ _ => none
  | .ntExitRampEnd _ _ => none
  | .droopWarn _ => none
  | .droopLimit _ => none
  | .stretchEnd _ => none
  | .seCollClear _ => none
  | .errLogOvfClear => none
  | .mmioWrite _ _ _ => none
  | .powerGood => none
  | .bringupStageComplete _ => none
  | .pairMismatch => none
  | .workerTimeout _ => none
  | .undefinedEncoding _ => none
  | .coreCycle _ => none
  | .fabricCycle => none
  | .accessPerforms _ => none
  | .causalWriteApply _ _ => none
  | .matrixOperandRead _ _ => none
  | .matrixInstructionComplete _ _ => none
  | .sourceReadDone _ _ => none
  | .hostEndsLaunch _ => none
  | .priResponse _ _ => none
  | .atsTranslationCompletion _ _ _ => none
  | .atsInvalidation _ _ _ => none
  | .prqTailWrite _ => none
  | .keasetRemoteAccess _ => none
  | .fwVerifyComplete => none
  | .fwCommitRestart _ => none
  | .pairRestartComplete => none
  | .dbgReleaseComplete => none

/-- R80: the instructions marked S, which only a matrix sequencer executes (R62). -/
def matrixOnly (i : Instr) : Bool :=
  match i with
  | .mmaReg _ | .mmaSp _ | .mmazReg _ | .mmazSp _ | .acld _ | .acst _ | .mdrain _ | .lutld _ | .lutsw _ => true
  | _ => false

end Sys2Proof.Machine
end

