-- ==== Sys2Proof/Machine/State.lean ====
section
/-!
DEFINITION. The state of the machine: one VK4 package (R15 to R18, R39) as plain data, and the state right after
power-good. Tables are lists of (key, value) pairs with rising keys; a key that is not listed has its default.
-/
namespace Sys2Proof.Machine

/-- A sparse table, keys strictly rising. -/
abbrev Tab (α : Type) := List (Nat × α)

/-- R137: an entry of a slice's divergence stack. -/
inductive SEntry where
  | rejoin (mask : BitVec 4)
  | alt (addr : DWord) (mask : BitVec 4)
  deriving DecidableEq, Repr

/-- R125 item 5 and the entries of waiting instructions: what a slice waits for. `bar` holds the phase it arrived
in; `sleep` the SREFT value awaited; `fwait` the fence numbers awaited. -/
inductive Wait where
  | none
  | regang
  | bar (n phase : Nat)
  | barw (n : Nat)
  | mbarw (n : Nat)
  | fork
  | join
  | sbar (tag : Nat)
  | sleep (till : Nat)
  | queue (q : Nat)
  | xacq
  | fwait (toks : List Nat)
  | swap (b : Nat)
  deriving DecidableEq, Repr

/-- R15, R137, R160: one slice. `stack` has its top first. Slices of equal `gang` form one sub-gang (R16): the
number is the lowest slice of the sub-gang. `waited` is R125's wait count, `skid` counts R396's skid. -/
structure Slice where
  pc : DWord := 0
  act : BitVec 4 := 0
  live : BitVec 4 := 0
  stack : List SEntry := []
  gang : Nat := 0
  wait : Wait := .none
  waited : Nat := 0
  skid : Nat := 0
  deriving DecidableEq, Repr

/-- R168: the storage forms. -/
inductive Form where
  | u | z16 | s16 | f
  deriving DecidableEq, Repr

/-- R159, R163, R168: a live line. Its 32 words are held while it is resident; otherwise they stand in the context
image. A line that is not listed is dead. -/
structure Line where
  vals : List Word := []
  resident : Bool := true
  dirty : Bool := true
  form : Form := .f
  poison : Bool := false
  used : Nat := 0
  deriving DecidableEq, Repr

/-- R218: the fields of one parked lane, or of one parked reduction (R219). `lanes` are the lanes it settles,
`values` the words of the settled result by lane; `flags` are its flags. `imgs` are the bytes of its places before
issue sequence and time are added (R218, R219). `stage` is 0 when written, 1 in the wide evaluation unit, 2 waiting
for a pass, 3 in a pass, 4 decided, 5 when its read met an uncorrectable error (R230). `marked` is true once its lanes have
been marked pending (R133), `dead` are the registers killed before (R166). -/
structure ParkRec where
  id : Nat
  op : Nat
  sub : Nat
  mode : Nat
  ty : Ty
  dreg : Nat
  emask : Nat
  kind : Nat
  slot : Nat
  team : Nat
  group : Nat
  lane : Nat
  lanes : List Nat
  pair : Bool
  values : List (Nat × List Word)
  flags : BitVec 6
  seq : Nat
  sreft : Nat
  places : List Nat
  ticket : Option Nat
  cls : Nat
  stage : Nat := 0
  hard : Bool := false
  imgs : List (List Byte) := []
  marked : Bool := false
  dead : List Nat := []
  deriving DecidableEq, Repr

/-- R130 to R132: a long instruction. `rem` is the window left per slice; `left` the steps until its result is due; `acc` the
accesses it waits for; `need` is R220's record need, 0 once its records have begun to be written. A result is delivered at
fast completion. `sent` are its records that stand in the ring or have left it, with their lanes (R221); `dead` the registers
killed since its issue, which its result no longer reaches (R166). -/
structure LongX where
  id : Nat
  reg : Nat
  nregs : Nat
  op : Nat := 0
  sub : Nat := 0
  rem : List Nat := []
  slices : BitVec 8 := 0
  left : Nat := 0
  acc : List Nat := []
  issued : Nat := 0
  res : List (Nat × List Word) := []
  flags : BitVec 6 := 0
  parks : List ParkRec := []
  need : Nat := 0
  ticket : Option Nat := none
  sent : List (Nat × List Nat) := []
  dead : List Nat := []
  done : Bool := false
  deriving DecidableEq, Repr

/-- R369, R370: an outstanding fence: its number, kind, scope and the accesses and transfers it covers. -/
structure Fence where
  no : Nat
  kind : Nat
  scope : Nat
  covers : List Nat
  deriving DecidableEq, Repr

/-- R403: the synchronous causes, in the order of their priority. -/
inductive Cause where
  | fetch | ill | lkv | dstk | regx | nuni | tlim | misa | tspan | perm | xlat | own | ecc | barm | bovf | qerr | sysc
  deriving DecidableEq, Repr

/-- R400: what a trap frame records of a cause. `code` is that of R403 or R405. -/
structure CauseRec where
  code : Nat
  second : Bool := false
  async : Bool := false
  seq : Bool := false
  addr : Nat := 0
  pc : DWord := 0
  words : List Word := []
  len : Nat := 0
  lower : Nat := 0
  pmask : Nat := 0
  lmask : Nat := 0
  scyc : Nat := 0
  sreft : Nat := 0
  stream : Nat := 0xFF
  engine : Nat := 0
  svc : Nat := 0
  errSeq : Nat := 0
  slices : BitVec 8 := 0
  deriving DecidableEq, Repr

/-- R407: what a slice sets aside in handler state. -/
structure Aside where
  pc : DWord
  act : BitVec 4
  stack : List SEntry
  gang : Nat
  wait : Wait
  deriving DecidableEq, Repr

/-- R434: the phase a group has hinted. -/
inductive Hint where
  | none | compute | memory | wait
  deriving DecidableEq, Repr

/-- R15, R158 to R160, R370, R407: a group. `flags` is SFLAGS (R98), `drm` SMODE.DRM (R154), `pend` the pending lanes per
register (R133), `busy` the steps until a short result is readable (R134), `holds` the held lines and their holders (R170),
`frame` STRAPF.FRAME (R156), `taken` the cause whose handler runs. `full` names the oldest of the 16 long instructions that
filled the scoreboard when it last filled (R132), `owed` lists, for each line that `xrel` released while it was held, its
register and those that have still to read it (R178). `just` are the registers that instructions issued since the team's last
step write, with the issuing slices (R127); `twice` marks a group that stops at a second cause of its own (R397). -/
structure Group where
  base : Nat := 256
  ext : Nat := 0
  quota : Nat := 0
  asked : Nat := 0
  flags : BitVec 6 := 0
  drm : BitVec 3 := 0
  hint : Hint := .none
  slices : List Slice := []
  lines : Tab Line := []
  pend : Tab Nat := []
  busy : Tab Nat := []
  longs : List LongX := []
  full : Nat := 0
  holds : List (Nat × Nat × List Word) := []
  owed : List (Nat × List Nat) := []
  just : List (Nat × BitVec 8) := []
  twice : Bool := false
  fenceNo : Nat := 0
  fences : List Fence := []
  aside : Option (List Aside) := none
  frame : Nat := 0
  under : List Byte := []
  cause : Option CauseRec := none
  taken : Option CauseRec := none
  badCtl : Bool := false
  finished : Bool := false
  deriving DecidableEq, Repr

/-- R280, R283: a sequencer. `wait` is what it waits for; `busy` the registers of a blocked pop. -/
structure Seq where
  regs : Vector Word 64 := Vector.replicate 64 0
  pc : DWord := 0
  running : Bool := false
  drm : BitVec 3 := 0
  wait : Wait := .none
  busy : List Nat := []
  cause : Option CauseRec := none
  hold : Bool := false
  deriving DecidableEq, Repr

/-- R292: the flags of an accumulator element or exact target. -/
structure XFlags where
  nan : Bool := false
  inv : Bool := false
  nvs : Bool := false
  pinf : Bool := false
  ninf : Bool := false
  zp : Bool := false
  zn : Bool := false
  deriving DecidableEq, Repr

/-- R292: an element of an accumulator: window, anchor and flags. A spilled element's integer stands in the
cluster's exact accumulator store (R298). -/
structure Elem where
  w : Int := 0
  a : Int := 0
  av : Bool := false
  sp : Bool := false
  fl : XFlags := {}
  deriving DecidableEq, Repr

/-- R304: a matrix barrier; `e` is none while unset; wait counts by party 0 to 33. -/
structure MBar where
  arrived : Nat := 0
  e : Option Nat := none
  c : Nat := 0
  waits : Tab Nat := []
  deriving DecidableEq, Repr

/-- R383: a named barrier; wait counts by 8 × group + slice, and 256 for the copy sequencer. -/
structure NBar where
  total : Nat := 0
  e : Option Nat := none
  c : Nat := 0
  waits : Tab Nat := []
  deriving DecidableEq, Repr

/-- R271: a blocked push or pop: its issuer (producer number), lanes and destination or handle, the SCYC value at
which it blocked (2^64 once its block has left the core), whether a handle is assigned to a pop, and its destination registers
that have been killed meanwhile (R166). -/
structure Waiter where
  party : Nat
  slices : BitVec 8
  lanes : Nat
  dst : Nat
  handle : DWord
  got : Bool := false
  since : Nat
  dead : List Nat := []
  deriving DecidableEq, Repr

/-- R268: a named queue. Its waiters stand in the order in which they blocked (R271), the pops with a handle first, in the order of
their handles. -/
structure Queue where
  init : Bool := false
  base : Nat := 0
  cap : Nat := 0
  head : Nat := 0
  count : Nat := 0
  allow : Tab Nat := []
  pushers : List Waiter := []
  poppers : List Waiter := []
  deriving DecidableEq, Repr

/-- R252 to R256: a 4 KiB page of a block's space. -/
structure Page where
  resident : Bool := false
  dirty : Bool := false
  pinned : Bool := false
  written : Bool := false
  used : Nat := 0
  deriving DecidableEq, Repr

/-- R266: an entry of the range scoreboard: OUT or IN, byte range, the transfer or access it belongs to. -/
structure RangeEntry where
  out : Bool
  lo : Nat
  hi : Nat
  owner : Nat
  deriving DecidableEq, Repr

/-- R302, R310: a matrix instruction that has issued and not completed. `read` is true once its operands have been
read, `acted` once its terms are in the windows or on their way to the store, `stalled` holds the tag of its page
request (0 before the request is posted). `foot` are the scratchpad bytes it will read. -/
structure MatOp where
  id : Nat
  instr : Instr
  pc : DWord
  acc : Nat := 0
  read : Bool := false
  aImg : List Byte := []
  bImg : List Byte := []
  scl : List Byte := []
  lutA : List Word := []
  lutB : List Word := []
  addr : Nat := 0
  tsr : List Byte := []
  row0 : Int := 0
  col0 : Int := 0
  mode : Nat := 0
  foot : List (Nat × Nat) := []
  group : Option Nat := none
  regs : List Nat := []
  kills : List Nat := []
  acted : Bool := false
  stalled : Option Nat := none
  deriving DecidableEq, Repr

/-- R396 to R415: how far a block's stopping has come. -/
inductive Halt where
  | running
  | halting
  | stopped
  | preempted
  | swapped
  deriving DecidableEq, Repr

/-- Why a block was halted (R396, R405, R415). -/
inductive HaltWhy where
  | cause | dbg | tslice | preempt | fetch | retention
  deriving DecidableEq, Repr

/-- R18 to R28, R248, R268, R292, R304, R383: a block. `core` is the package core number (R448), `teams` the physical team of
each logical team. `scr` holds the bytes of its resident pages that are not 0. `asks` are the requests for extended pools that
a block takes with it when it leaves its core: group, lines and slices (R165). -/
structure BlockX where
  accs : Vector (Tab Elem) 8 := Vector.replicate 8 []
  lutA : Vector (List Word) 2 := Vector.replicate 2 (List.replicate 16 0)
  lutB : Vector (List Word) 2 := Vector.replicate 2 (List.replicate 16 0)
  bank : Nat := 0
  mops : List MatOp := []
  mbars : Vector MBar 16 := Vector.replicate 16 {}
  nbars : Vector NBar 32 := Vector.replicate 32 {}
  queues : Vector Queue 16 := Vector.replicate 16 {}
  park : List ParkRec := []
  parkSeq : Nat := 0
  parkPtr : Nat := 0
  ranges : List RangeEntry := []
  asks : List (Nat × Nat × Nat) := []
  deriving DecidableEq, Repr

/-- The stopping and timing record of a block (R396 to R415, R405, R464). `since` and `sinceScyc` are the times of the
halt broadcast, `held` marks a block that is stopped for the debugger (R412). -/
structure BlockH where
  halt : Halt := .running
  why : Option HaltWhy := none
  since : Nat := 0
  sinceScyc : Nat := 0
  held : Bool := false
  primary : Option Nat := none
  dbgPend : Bool := false
  tslPend : Bool := false
  stepping : Bool := false
  placedAt : Nat := 0
  sliceUsed : Nat := 0
  placedFor : Nat := 0
  handler : Option Nat := none
  deriving DecidableEq, Repr

/-- R18: a block. `complete` marks one that R27 has completed while work that it issued is in flight: its slot, teams and frames
have been returned (log 10). -/
structure Block where
  launch : Nat
  sblock : Nat
  nl : Nat
  core : Nat := 0
  slot : Nat := 0
  placed : Bool := true
  ended : Bool := false
  complete : Bool := false
  started : Bool := false
  teams : List Nat := []
  scratch : Nat := 0
  cap : Nat := 0
  scr : List Host.Cell := []
  scrPoison : List Nat := []
  pages : Tab Page := []
  groups : Tab Group := []
  mseq : Seq := {}
  cseq : Seq := {}
  forked : Bool := false
  forkArr : List (Nat × Nat × Nat) := []
  joinArr : List Nat := []
  x : BlockX := {}
  h : BlockH := {}
  deriving DecidableEq, Repr

/-- R334, R335: a transfer of a bulk copy engine. `vals` are the elements of its source, or those a drain hands over
(R315), or `exact` the sums it adds: integer at weight 2^-2176, whether a nonzero term occurred, flags. `moved` are the
units that have moved, `after` the accesses its source read follows (R355). -/
structure Xfer where
  id : Nat
  b : Nat
  party : Nat
  slices : BitVec 8 := 0
  lanes : Nat := 0
  pc : DWord := 0
  words : List Word := []
  dir : Nat
  scope : Nat := 4
  rel : Bool := false
  tsr : List Byte
  desc : Nat × Nat := (0, 0)
  org : List Int
  drain : Bool := false
  vals : List Nat := []
  exact : List (Int × Bool × XFlags) := []
  moved : List Nat := []
  started : Bool := false
  sourceRead : Bool := false
  accepted : Nat := 0
  stalled : Option Nat := none
  after : List Nat := []
  deriving DecidableEq, Repr

/-- R360, R361: what an access does at its point of performing. A tile names its rows, row bytes and the base, pitch and
rotation of its scratchpad rows (R353); a swap is that of the published buffer at `va` (R343), a flush that of a line (R358).
-/
inductive AccOp where
  | read
  | write (data : List Byte)
  | atomic (code : Nat) (ty : Ty) (opnd new : Nat)
  | redInt (code : Nat) (ty : Ty) (opnd : Nat)
  | redFloat (ty : Ty) (opnd : Nat)
  | redget (ty : Ty) (mode : Nat) (fin : Bool)
  | tileLoad (rows rb base pitch rc : Nat)
  | tileStore (rows rb base pitch rc : Nat)
  | swap (va len : Nat)
  | flush
  deriving DecidableEq, Repr

/-- R360: one access of a party, not yet performed. `addr` is a physical address, or a scratchpad offset of block
`tgt`; `lanes` are the lanes it serves, in address order (R327); `segs` the physical ranges of a tile's rows or of
an access that crosses pages; `seq` the program order of the party. `landed` marks a tile store whose bytes have been
written while its lock is still held (R330), `parts` the words of a `.blk` tile that have moved (R360), with those read.
`arrive` says when an atomic reaches its unit: the matrix cycle for a scratchpad (R277), SREFT for a
synchronisation engine (R374). -/
structure Access where
  id : Nat := 0
  b : Nat
  party : Nat
  die : Nat := 0
  core : Nat := 0
  seq : Nat := 0
  op : AccOp
  scr : Bool := false
  tgt : Nat := 0
  va : Nat := 0
  addr : Nat := 0
  len : Nat
  lanes : List Nat := []
  segs : List (Nat × Nat) := []
  scope : Nat := 4
  acq : Bool := false
  rel : Bool := false
  long : Option Nat := none
  signed : Bool := false
  elemIx : Nat := 0
  data : List Byte := []
  srcRead : Bool := false
  queued : Bool := false
  locked : Bool := false
  launch : Nat := 0
  det : Bool := false
  sysatom : Bool := false
  arrive : Nat := 0
  landed : Bool := false
  parts : List (Nat × List Byte) := []
  deriving DecidableEq, Repr

/-- R362, R364 to R366: a write in coherence order that some die has not applied: its access, the writer's die, the clock
it carries and the dies that have applied it. A write of scope 1 (`.blk`) or 2 (`.clu`) reaches the observers of its scope,
block or cluster `near`, before it enters the view of its die and takes that view's clock; `eng` marks a write that a
synchronisation engine made (R373), and `vis` is the scope at which a `publish` that made it becomes visible, or 0 (R343, R485). -/
structure CWrite where
  id : Nat
  who : Nat := 0
  die : Nat
  clock : List Nat
  cells : List Host.Cell
  applied : List Nat
  scope : Nat := 4
  near : Nat := 0
  eng : Bool := false
  vis : Nat := 0
  deriving DecidableEq, Repr

/-- R322, R364: physical memory. `base` is what every die has applied, in canonical form; `log` the later writes in
coherence order; `clocks` counts, for each die, the writes of each die that its view holds. -/
structure Memory where
  base : List Host.Cell := []
  log : List CWrite := []
  clocks : List (List Nat) := List.replicate 4 [0, 0, 0, 0]
  poison : List Nat := []
  deriving DecidableEq, Repr

/-- R365, R375: an exact target on a die: its address, type, integer at weight 2^-2176, whether a nonzero
term has occurred, flags and launch, and the clock of the writes that came before its reductions. -/
structure Target where
  addr : Nat
  ty : Ty
  sum : Int
  nz : Bool := false
  fl : XFlags
  launch : Nat
  clock : List Nat := []
  deriving DecidableEq, Repr

/-- R341, R342: a published chunk: the bytes of its shadow by offset, and whether it is dirty. -/
structure Chunk where
  launch : Nat
  va : Nat
  shadow : List Host.Cell := []
  dirty : Bool := false
  deriving DecidableEq, Repr

/-- R436, R437: the state of a voltage island; `till` is the SREFT value at which its ramp ends, `mv` its rail. -/
inductive Island where
  | full
  | entering (till fromMv : Nat)
  | nt
  | exiting (till fromMv : Nat)
  deriving DecidableEq, Repr

/-- R444, R445: the counters of a team. -/
structure TeamCtr where
  lfill : Nat := 0
  lwb : Nat := 0
  lexp : Nat := 0
  rsiss : Nat := 0
  rsrec : Nat := 0
  rsweu : Nat := 0
  rsex : Nat := 0
  ntcyc : Nat := 0
  stallr : List Nat := [0, 0, 0, 0]
  sample : List Nat := [0, 0, 0, 0, 0]
  deriving DecidableEq, Repr

/-- R18, R39, R126, R129, R165, R213, R436, R443: a physical team. `xq` are the requests for its extended pool:
block, group, lines, slices. `half` is true in the off step of near-threshold mode (R117). -/
structure Team where
  prev : Pace := .p0
  iv : List (Nat × Nat × Nat) := []
  gap : Nat := 0
  running : Option (Nat × Nat) := none
  yielded : List (Nat × Nat × Nat) := []
  xq : List (Nat × Nat × Nat × Nat) := []
  island : Island := .full
  half : Bool := false
  hist : List (Nat × Nat) := []
  sigs : List (Nat × Nat) := []
  ctr : TeamCtr := {}
  deriving DecidableEq, Repr

/-- R444: the counters of a core. -/
structure CoreCtr where
  spbank : Nat := 0
  spfill : Nat := 0
  spwait : Nat := 0
  mxspill : Nat := 0
  mxcont : Nat := 0
  mxqwait : Nat := 0
  mxevict : Nat := 0
  ccstall : Nat := 0
  stretch : Nat := 0
  deriving DecidableEq, Repr

/-- R299: a contribution on its way to the exact accumulator store. -/
structure Contribution where
  b : Nat
  m : Nat
  acc : Nat
  elem : Nat
  val : Int
  deriving DecidableEq, Repr

/-- R124, R419: a line of the instruction cache, by PASID and virtual line number. `ran` says that its poison has been met. -/
structure ILine where
  pasid : Nat
  line : Nat
  bytes : List Byte
  poison : Bool := false
  ran : Bool := false
  used : Nat := 0
  deriving DecidableEq, Repr

/-- R18, R119, R120, R124, R220, R334: a core. `frac` is STIME with its 16 fraction bits, once it is `loaded`; `begun` is true
once a first cycle has begun, `fresh` while no cycle has begun since a load (R122). `start` is the reference time, in 2^-22
ns, at which the present cycle began; `stretch` counts the cycles that are stretched from the present one on, and `match_`
says that a signature matched in it (R443); `drain` names the drain whose handover has the copy engine's turn (R29, R316). -/
structure Core where
  scyc : Nat := 0
  frac : Nat := 0
  loaded : Bool := false
  begun : Bool := false
  fresh : Bool := false
  tofs : BitVec 32 := 0
  resident : List (Nat × Pace × Nat) := []
  stopped : Bool := false
  start : Nat := 0
  stretch : Nat := 0
  match_ : Bool := false
  drain : Option (Nat × Nat) := none
  teams : Vector Team 4 := Vector.replicate 4 {}
  icache : List ILine := []
  fills : List (Nat × Nat) := []
  xfers : List Xfer := []
  copyRR : Nat := 0
  matRR : Nat := 0
  matBusy : Nat := 0
  spillQ : List Contribution := []
  weuRR : Nat := 0
  ctr : CoreCtr := {}
  deriving DecidableEq, Repr

/-- R224: a microengine's pass: the records it settles. -/
structure Pass where
  busy : Bool := false
  recs : List Nat := []
  deriving DecidableEq, Repr

/-- R222 to R224, R298, R433, R443, R444: a cluster. `draws` holds the charges of the last 16 fabric cycles, newest
first; `store` the exact accumulator store by block, accumulator and element; `region` the entries that stand in the L2 region,
most recently used first, the others being in the backing area; `spoiled` the entries with an uncorrectable error (R418);
`crossed` the SREFT value of the last limit crossing that found the duty spent. -/
structure Cluster where
  curth : BitVec 24 := 0
  draws : List Nat := []
  weuRR : Nat := 0
  weu : List Nat := []
  passWait : List (Nat × Nat) := []
  passes : List Pass := List.replicate 4 {}
  store : Tab Int := []
  region : List Nat := []
  spoiled : List Nat := []
  weuPass : Nat := 0
  exPass : Nat := 0
  inj : Nat := 0
  duty : Nat := 0
  window : Nat := 0
  limited : Bool := false
  crossed : Nat := 0
  retained : Bool := false
  offline : Bool := false
  locks : List Nat := []
  deriving DecidableEq, Repr

/-- R438 to R440: an operating-point step in progress. -/
inductive OpStep where
  | idle
  | ramp (till : Nat) (thenRelock : Bool)
  | relockDue
  | relock (till : Nat) (thenRamp : Bool)
  deriving DecidableEq, Repr

/-- R346, R374, R382, R435 to R442: a die. `newFreq` and `newVolt` are the point a step goes to. -/
structure Die where
  islDet : Bool := true
  islEn : Bool := true
  reqFreq : BitVec 12 := 1800
  reqVolt : BitVec 12 := 0
  denied : Bool := false
  reason : BitVec 2 := 0
  freq : BitVec 12 := 1800
  volt : BitVec 12 := 0
  vfloor : List (BitVec 12) := List.replicate 13 0
  opStep : OpStep := .idle
  newFreq : BitVec 12 := 0
  newVolt : BitVec 12 := 0
  stepBase : BitVec 52 := 0
  stepHead : BitVec 8 := 0
  swref : BitVec 48 := 0
  collValid : Bool := false
  collCnt : BitVec 8 := 0
  collPa : BitVec 52 := 0
  targets : List Target := []
  held : List Nat := []
  round : List Nat := []
  deriving DecidableEq, Repr

/-- R463, R470: what a launch holds of its record and code object. -/
structure LaunchRec where
  pasid : Nat := 0
  queue : Nat := 0
  compl : Nat := 0
  entry : DWord := 0
  nl : Nat := 32
  blocks : Nat := 1
  dies : Nat := 0xF
  step : Bool := false
  det : Bool := false
  node : Bool := false
  debug : Bool := false
  mmrev : Nat := 2
  rt : Nat := 0
  handler : DWord := 0
  ctxArea : Nat := 0
  backing : Nat := 0
  publish : List (Nat × Nat) := []
  owns : List (Nat × Nat) := []
  lb : Nat := 0
  gather : Nat := 0
  inits : List (Nat × Nat) := []
  base : Nat := 256
  ext : Nat := 0
  scratch : Nat := 0
  park : Nat := 256
  bound : Nat := 0
  slice : Nat := 0
  prio : Nat := 0
  setNo : Nat := 0
  count : Nat := 0
  dmask : Nat := 0
  object : Nat := 0
  objSize : Nat := 0
  digest : List Byte := []
  deriving DecidableEq, Repr

/-- R25, R461 to R465, R423: an admitted launch. A record of a node is its index, address and completion address; `blockRecs`
holds those of each batch; `ending` is the status of a launch that has ended while work of it is in flight. `tslHeld` marks a
time slice that expired inside a step (R31). `toLoad` is an object that the front end has still to load (R470, R479). -/
structure Launch where
  r : LaunchRec := {}
  next : Nat := 0
  swapped : List Nat := []
  finishedBlocks : Nat := 0
  records : List (Nat × Nat × Nat) := []
  oldest : Nat := 0
  recNo : Nat := 0
  closed : Bool := false
  replicaHeld : Bool := false
  sbars : Nat := 0
  tslHeld : Bool := false
  blockRecs : List (Nat × List (Nat × Nat × Nat)) := []
  ending : Option Nat := none
  toLoad : Option (List Byte) := none
  deriving DecidableEq, Repr

/-- R461: a command taken from a queue and not complete. `mark` is the number of the first launch admitted after it
(R468). -/
structure Command where
  kind : Nat
  compl : Nat
  bytes : List Byte
  launch : Option Nat := none
  serial : Bool := false
  mark : Nat := 0
  deriving DecidableEq, Repr

/-- R460, R461: what the front end keeps of a queue beside its QCB: commands read and not complete, in order, and the
accepted tail; `readAt` is when a command at the head was read that a restart of the pair has left undecided (R466). -/
structure QueueRun where
  cmds : List Command := []
  urg : Bool := false
  tail : BitVec 32 := 0
  readAt : Option Nat := none
  deriving DecidableEq, Repr

/-- R233: the header of a loaded function slot. -/
structure FSlot where
  arity : Nat
  tys : List Ty
  cls : Nat
  worst : Nat
  bytes : List Byte
  deriving DecidableEq, Repr

/-- Who waits for a page (R303, R323, R414). -/
inductive PageWaiter where
  | xfer (core x : Nat)
  | mat (b m : Nat)
  | fetch (b : Nat)
  | ats (pasid page : Nat)
  deriving DecidableEq, Repr

/-- R458: a page request: tag, page, PASID, whether for a write, who waits, whether it is in the ring or with the
host, or waits for a place. -/
structure PageReq where
  tag : Nat
  va : Nat
  pasid : Nat
  write : Bool
  who : PageWaiter
  host : Bool
  posted : Bool
  deriving DecidableEq, Repr

/-- R447, R457: a cached translation: PASID, page, the bits that it covers, the leaf, address and the bits of the
leaf's page. -/
structure TlbEntry where
  pasid : Nat
  va : Nat
  size : Nat
  leaf : Nat
  pa : Nat
  page : Nat
  deriving DecidableEq, Repr

/-- R347: a request sent through the remote window. -/
structure RemoteReq where
  write : Bool
  pa : Nat
  data : List Byte
  nibbles : Nat := 3
  add : Option (Ty × Int × Bool × XFlags) := none
  deriving DecidableEq, Repr

/-- R411, R421, R450 to R454, R467, R473: the registers of the front end. -/
structure FrontRegs where
  stage : BitVec 4 := 1
  fwrecov : Bool := false
  fault : Bool := false
  fail : Bool := false
  ready : Bool := false
  fwStage : BitVec 52 := 0
  svn : BitVec 16 := 0
  fwReason : BitVec 8 := 0
  fwState : BitVec 3 := 0
  attPa : BitVec 40 := 0
  attDone : Bool := false
  attBusy : Bool := false
  bar2 : BitVec 22 := 0
  pasidPa : BitVec 40 := 0
  pasidEn : Bool := false
  invalP : BitVec 20 := 0
  invBusy : Bool := false
  invDone : BitVec 16 := 0
  invWait : List Nat := []
  qBusy : Bool := false
  qReq : Option (BitVec 64) := none
  qResult : BitVec 3 := 0
  qSlot : BitVec 14 := 0
  prqPa : BitVec 37 := 0
  prqEn : Bool := false
  prqHead : BitVec 11 := 0
  prqTail : BitVec 11 := 0
  deriving DecidableEq, Repr

/-- R411, R421: the debugger and error-log registers. -/
structure LogRegs where
  dbgBusy : Bool := false
  dbgState : BitVec 3 := 0
  dbgResult : BitVec 2 := 0
  dbgLaunch : BitVec 32 := 0
  errBase : BitVec 52 := 0
  errHead : BitVec 12 := 0
  errTail : BitVec 12 := 0
  errOvf : Bool := false
  errDrop : BitVec 16 := 0
  errSeq : BitVec 32 := 0
  deriving DecidableEq, Repr

/-- R459 to R468: the front end's working state. `loaded` lists PASID, address, digest and bytes of the loaded code objects,
latest first (R477); `code` lists PASID, address and bytes of code as it stood at the last launch (R470); `image` is the image
that a commit has put into the boot store, none while that is the one the package was delivered with, and `fused` the fused
minimum that a commit has raised (R467). -/
structure Front where
  r : FrontRegs := {}
  l : LogRegs := {}
  vcw : List (BitVec 32) := List.replicate 18 0x04020401
  qcbBase : Nat := 0
  queues : Tab QueueRun := []
  order : List Nat := []
  nextLaunch : Nat := 1
  slots : Tab FSlot := []
  reqs : List PageReq := []
  nextTag : Nat := 1
  msix : List Nat := []
  loaded : List (Nat × Nat × List Byte × List Byte) := []
  code : List (Nat × Nat × List Byte) := []
  pairDown : Bool := false
  image : Option (List Byte) := none
  fused : Option (BitVec 16) := none
  workers : List Nat := List.replicate 8 0
  remote : List RemoteReq := []
  deriving DecidableEq, Repr

/-- The whole package and the model's own fields (log 5 to 7): `focus` is who issues the instruction that `exec` is
given, `issueQ` the parties picked in the present cycle, `agenda` the device events that are due, `tick` the
number of free choices made, `nextId` the next name for an access, transfer, block or record. `time` is reference
time in units of 1/13 ns, of which a fabric cycle takes 10 (R121, R325); `sampled` counts the sample boundaries that
have been taken (R436). -/
structure State where
  time : Nat := 0
  fabric : Nat := 0
  sampled : Nat := 0
  pkg : BitVec 6 := 0
  mem : Memory := {}
  accesses : List Access := []
  seqNo : Nat := 0
  tlb : List TlbEntry := []
  ats : List TlbEntry := []
  chunks : List Chunk := []
  dies : Vector Die 4 := Vector.replicate 4 {}
  clusters : Vector Cluster 8 := Vector.replicate 8 {}
  cores : Tab Core := []
  launches : Tab Launch := []
  blocks : Tab Block := []
  front : Front := {}
  focus : Option Issuer := none
  issueQ : List Issuer := []
  agenda : List Event := []
  tick : Nat := 0
  nextId : Nat := 1
  deriving DecidableEq, Repr

/-- Why an instruction has no next state. -/
inductive Fault where
  /-- Raised by every instruction when no party of the machine issues it: `State.focus` names none that exists.
  The device never issues an instruction without a party (R16, R26): safe. -/
  | noIssuer
  deriving DecidableEq, Repr

/-- Why the model gives an instruction no meaning. -/
inductive Refusal where
  /-- Raised by the arm of an instruction that is not modelled: safe. -/
  | notModelled (mnemonic : String)
  deriving DecidableEq, Repr

/-- The result of a step of this machine. -/
abbrev Out := Host.Outcome State Fault Refusal

/-- R473: the package at power-good, bring-up stage 1: no launch, no block, memory all 0. -/
def State.reset : State := {}

end Sys2Proof.Machine
end

