-- ==== Sys2Proof/Machine/Flags.lean ====
section
/-!
DEFINITION. The exception flags (R98) and the single rounding with the flags it raises (R85 to R90, R95 to R97, R103 to
R107, R489).
-/
namespace Sys2Proof.Machine

/-- R98: the flags as bits of SFLAGS. -/
def fNX : Nat := 1
/-- R98. -/
def fUF : Nat := 2
/-- R98. -/
def fOF : Nat := 4
/-- R98. -/
def fDZ : Nat := 8
/-- R98. -/
def fNV : Nat := 16
/-- R98. -/
def fSI : Nat := 32

/-- A flag if a condition holds. -/
def flagIf (b : Bool) (f : Nat) : Nat := if b then f else 0

/-- R99: the OR of the flags of several lanes. -/
def orFlags (fs : List Nat) : Nat := fs.foldl (· ||| ·) 0

/-- R85: a floating format: exponent and mantissa bits, bias, largest finite value as integer and exponent, and
whether it has infinities and NaNs. -/
structure Fmt where
  eb : Nat
  mb : Nat
  bias : Nat
  emax : Int
  maxM : Nat
  inf : Bool
  nan : Bool

/-- R85: precision. -/
def Fmt.p (f : Fmt) : Nat := f.mb + 1

/-- R85: the least exponent of a normal value. -/
def Fmt.emin (f : Fmt) : Int := 1 - (f.bias : Int)

/-- R85: the floating formats. Other types have none and read as binary32. -/
def fmtOf : Ty → Fmt
  | .f64 => ⟨11, 52, 1023, 1023, 2 ^ 53 - 1, true, true⟩
  | .f16 => ⟨5, 10, 15, 15, 2047, true, true⟩
  | .bf16 => ⟨8, 7, 127, 127, 255, true, true⟩
  | .e4m3 => ⟨4, 3, 7, 8, 14, false, true⟩
  | .e5m2 => ⟨5, 2, 15, 15, 7, true, true⟩
  | .e2m1 => ⟨2, 1, 1, 2, 3, false, false⟩
  | _ => ⟨8, 23, 127, 127, 2 ^ 24 - 1, true, true⟩

/-- R86, R87: the value of an encoding: a NaN (signalling or not), an infinity, or sign, integer and exponent. -/
inductive FVal where
  | nan (signalling : Bool)
  | inf (neg : Bool)
  | fin (neg : Bool) (m : Nat) (e : Int)
  deriving DecidableEq, Repr

/-- R86, R87: decode an encoding of a floating type. -/
def decodeF (ty : Ty) (x : Nat) : FVal :=
  let f := fmtOf ty
  let m := bits x 0 f.mb
  let e := bits x f.mb f.eb
  let neg := bit x (f.mb + f.eb)
  let top : Int := 1 - (f.bias : Int) - (f.mb : Int)
  if f.inf ∧ e = 2 ^ f.eb - 1 then
    if m = 0 then .inf neg else .nan (!bit m (f.mb - 1))
  else if !f.inf && f.nan && e == 2 ^ f.eb - 1 && m == 2 ^ f.mb - 1 then .nan false
  else if e = 0 then .fin neg m top
  else .fin neg (m + 2 ^ f.mb) (top + (e : Int) - 1)

/-- The sign bit of a format, if set. -/
def signBit (f : Fmt) (neg : Bool) : Nat := if neg then 2 ^ (f.mb + f.eb) else 0

/-- R88: the canonical NaN. -/
def canonNan (ty : Ty) : Nat :=
  let f := fmtOf ty
  if f.inf then (2 ^ f.eb - 1) * 2 ^ f.mb + 2 ^ (f.mb - 1) else if f.nan then 2 ^ (f.mb + f.eb) - 1 else 0

/-- R87: an infinity. -/
def infBits (ty : Ty) (neg : Bool) : Nat :=
  let f := fmtOf ty
  signBit f neg + (2 ^ f.eb - 1) * 2 ^ f.mb

/-- R85: the largest finite value. -/
def maxBits (ty : Ty) (neg : Bool) : Nat :=
  let f := fmtOf ty
  signBit f neg + ((f.emax + (f.bias : Int)).toNat) * 2 ^ f.mb + (f.maxM - 2 ^ f.mb)

/-- A zero of a format. -/
def zeroBits (ty : Ty) (neg : Bool) : Nat := signBit (fmtOf ty) neg

/-- `n × 2^q < m × 2^e`. -/
def ltPow (n : Nat) (q : Int) (m : Nat) (e : Int) : Bool :=
  let k := min q e
  n * 2 ^ (q - k).toNat < m * 2 ^ (e - k).toNat

/-- R95 step 2: whether the mode picks the candidate of larger magnitude; `r` of `2^sh` is the remainder. -/
def roundUpMag (mode : Nat) (neg odd : Bool) (r sh : Nat) : Bool :=
  match mode with
  | 0 => 2 * r > 2 ^ sh || (2 * r == 2 ^ sh && odd)
  | 1 => false
  | 2 => !neg && r != 0
  | 3 => neg && r != 0
  | _ => r != 0 && 2 * r ≥ 2 ^ sh

/-- R95 steps 1 and 2: `m × 2^e` as a multiple of 2^q, and whether that is inexact. -/
def roundAt (mode : Nat) (neg : Bool) (m : Nat) (e q : Int) : Nat × Bool :=
  if q ≤ e then (m * 2 ^ (e - q).toNat, false)
  else
    let sh := (q - e).toNat
    let n := m / 2 ^ sh
    let r := m % 2 ^ sh
    (n + b01 (roundUpMag mode neg (n % 2 == 1) r sh), r != 0)

/-- R86: the encoding of `n × 2^q`, which the format holds. -/
def packF (ty : Ty) (neg : Bool) (n : Nat) (q : Int) : Nat :=
  let f := fmtOf ty
  if n = 0 then zeroBits ty neg
  else
    let l := n.log2
    let ex := q + (l : Int)
    if ex < f.emin then signBit f neg + n * 2 ^ (q - (f.emin - (f.mb : Int))).toNat
    else
      let frac := if l ≤ f.mb then n * 2 ^ (f.mb - l) else n / 2 ^ (l - f.mb)
      signBit f neg + ((ex + (f.bias : Int)).toNat) * 2 ^ f.mb + (frac - 2 ^ f.mb)

/-- R96, R106, R107: the result of an overflow. -/
def overflowBits (ty : Ty) (mode : Nat) (neg sat : Bool) : Nat :=
  let f := fmtOf ty
  let toInf := mode == 0 || mode == 4 || (mode == 2 && !neg) || (mode == 3 && neg)
  if !toInf then maxBits ty neg
  else if f.inf then (if sat && ty != .f64 then maxBits ty neg else infBits ty neg)
  else if f.nan then (if sat then maxBits ty neg else canonNan ty)
  else maxBits ty neg

/-- R95 to R97: the rounding of a nonzero `m × 2^e`, and its flags. -/
def roundF (ty : Ty) (mode : Nat) (sat neg : Bool) (m : Nat) (e : Int) : Nat × Nat :=
  let f := fmtOf ty
  let ex := e + (m.log2 : Int)
  let y := roundAt mode neg m e (ex - (f.mb : Int))
  let yq := ex - (f.mb : Int)
  if ltPow f.maxM (f.emax - (f.mb : Int)) y.1 yq then (overflowBits ty mode neg sat, fOF ||| fNX)
  else
    let q := max ex f.emin - (f.mb : Int)
    let r := roundAt mode neg m e q
    let tiny := ltPow y.1 yq 1 f.emin
    (packF ty neg r.1 q, flagIf r.2 fNX ||| flagIf (r.2 && tiny) fUF)

/-- The rounding of a real number that lies at `m × 2^e`, or above it by less than 2^e when `more` is set. -/
def roundMore (ty : Ty) (mode : Nat) (neg : Bool) (m : Nat) (e : Int) (more : Bool) : Nat × Nat :=
  roundF ty mode false neg (4 * m + b01 more) (e - 2)

/-- R103, R375: an exact sum: the integer at weight 2^e, the flags, and whether a nonzero term occurred. -/
structure XSum where
  s : Int := 0
  e : Int := 0
  nz : Bool := false
  fl : XFlags := {}
  deriving DecidableEq, Repr

/-- Whether a value is a signalling NaN. -/
def FVal.isSnan : FVal → Bool
  | .nan sg => sg
  | _ => false

/-- R293, R376: add a value as a term. -/
def XSum.add (x : XSum) (v : FVal) : XSum :=
  match v with
  | .nan sg => { x with fl := { x.fl with nan := true, nvs := x.fl.nvs || sg } }
  | .inf n => { x with fl := if n then { x.fl with ninf := true } else { x.fl with pinf := true } }
  | .fin n 0 _ => { x with fl := if n then { x.fl with zn := true } else { x.fl with zp := true } }
  | .fin n m e =>
    let k := min x.e e
    let t : Int := if n then -(m : Int) else (m : Int)
    { x with nz := true, e := k, s := x.s * 2 ^ (x.e - k).toNat + t * 2 ^ (e - k).toNat }

/-- R103: the product of two values, formed exactly: NaN, infinity, or sign, integer and exponent. `inv` is set for
0 × ∞. -/
def XSum.addMul (x : XSum) (a b : FVal) : XSum :=
  match a, b with
  | .nan s, .nan t => x.add (.nan (s || t))
  | .nan s, _ => x.add (.nan s)
  | _, .nan t => x.add (.nan t)
  | .inf n, .inf k => x.add (.inf (n != k))
  | .inf n, .fin k m _ =>
    if m = 0 then { x with fl := { x.fl with nan := true, inv := true } } else x.add (.inf (n != k))
  | .fin k m _, .inf n =>
    if m = 0 then { x with fl := { x.fl with nan := true, inv := true } } else x.add (.inf (n != k))
  | .fin n m e, .fin k l d => x.add (.fin (n != k) (m * l) (e + d))

/-- R103, R104, R297, R489: the value of a sum rounded once, and its flags. -/
def XSum.value (x : XSum) (ty : Ty) (mode : Nat) (sat : Bool) : Nat × Nat :=
  let f := fmtOf ty
  if x.fl.nan || x.fl.inv || (x.fl.pinf && x.fl.ninf) then
    (canonNan ty, flagIf (x.fl.inv || x.fl.nvs || (x.fl.pinf && x.fl.ninf) || !f.nan) fNV)
  else if x.fl.pinf || x.fl.ninf then
    if f.inf then (infBits ty x.fl.ninf, 0)
    else if f.nan && !sat then (canonNan ty, fNV)
    else (maxBits ty x.fl.ninf, fNV)
  else if x.s = 0 then
    (zeroBits ty ((x.fl.zn && !x.fl.zp && !x.nz) || (mode == 3 && (x.nz || (x.fl.zp && x.fl.zn)))), 0)
  else roundF ty mode sat (x.s < 0) x.s.natAbs x.e

/-- R105 to R107: the conversion of a value to a floating type. -/
def convertF (ty : Ty) (mode : Nat) (sat : Bool) (v : FVal) : Nat × Nat :=
  let f := fmtOf ty
  match v with
  | .nan sg => if f.nan then (canonNan ty, flagIf sg fNV) else (0, fNV)
  | .inf n =>
    if f.inf then (infBits ty n, 0)
    else if f.nan && !sat then (canonNan ty, fNV)
    else (maxBits ty n, fNV)
  | .fin n 0 _ => (zeroBits ty n, 0)
  | .fin n m e => roundF ty mode sat n m e

/-- R108: the rounding of a finite value to an integer, and whether it is inexact. -/
def roundInt (mode : Nat) (neg : Bool) (m : Nat) (e : Int) : Int × Bool :=
  let r := roundAt mode neg m e 0
  (if neg then -(r.1 : Int) else (r.1 : Int), r.2)

end Sys2Proof.Machine
end

