-- ==== Sys2Proof/Machine/Fields.lean ====
section
/-!
DEFINITION. The checks of R60 step 5 on decoded fields (R42, R47 to R59 and the layouts of the entries), and the
registers an instruction names. An instruction that fails them raises ILL (R10, R61).
-/
namespace Sys2Proof.Machine

/-- R56: the scope code, which stands in place of the C field's swizzle. -/
def scopeCode (o : ExtOps) : Nat := o.c.w.toNat

/-- R56: the ordering code, which stands in place of the C field's half select and last use. -/
def ordCode (o : ExtOps) : Nat := 2 * b01 o.c.h + b01 o.c.last

/-- IMM14 as an unsigned field. -/
def immU (o : ExtOps) : Nat := o.imm.toNat

/-- IMM14 as a two's-complement value (R57). -/
def immS (o : ExtOps) : Int := signed 14 o.imm.toNat

/-- R57: operand B is the immediate IMM14. -/
def immB (sp : OpSpec) (o : ExtOps) : Bool :=
  sp.bk == .star && o.lit.isNone && tyInt o.ty && tyPk o.ty == 0 && o.b.h

/-- R57: operand B is the literal. -/
def litB (sp : OpSpec) (o : ExtOps) : Bool := sp.bk != .reg && o.lit.isSome

/-- R77, R208: the source type of a conversion, IMM14[3:0]. -/
def srcTy (o : ExtOps) : Ty := tyOfCode (bits (immU o) 0 4)

/-- The use of the fields after the operand forms of single entries: `.rev` of `shfl` has no B (R180), an
immediate selector of `perm` no C (R183), a product without scales no C (R290). -/
def effSpec (i : Instr) (sp : OpSpec) (o : ExtOps) : OpSpec :=
  match i with
  | .shfl _ => if bits (immU o) 0 2 == 2 then { sp with b := .none, bMods := false } else sp
  | .perm _ => if bit (immU o) 13 then { sp with c := .none } else sp
  | .mmaReg _ | .mmaSp _ | .mmazReg _ | .mmazSp _ => if bit (immU o) 9 then sp else { sp with c := .none }
  | _ => if immB sp o || litB sp o then { sp with b := .none, bMods := false } else sp

/-- R208: the pairs of types a conversion accepts. -/
def convOk (i : Instr) (dst src : Ty) : Bool :=
  let fq : List Ty := [.f32, .f16, .bf16, .e4m3, .e5m2, .e2m1]
  let ints : List Ty := [.i32, .n32, .i16, .n16, .i8, .n8]
  match i with
  | .fcvt _ => fq.contains dst && fq.contains src
  | .fcvtD _ => (dst == .f64 && (src == .f64 || fq.contains src)) || (fq.contains dst && src == .f64)
  | .icvt _ => fq.contains dst && ints.contains src
  | .icvtD _ => (dst == .f64 && tyInt src) || (fq.contains dst && (src == .i64 || src == .n64))
  | .fcvti _ => ints.contains dst && fq.contains src
  | .fcvtiD _ => [Ty.i32, .n32, .i64, .n64].contains dst && src == .f64
  | _ => true

/-- R152: the system registers and their widths. -/
def sysWidth (n : Nat) : Option Nat :=
  match n with
  | 0x000 | 0x001 | 0x002 | 0x003 | 0x004 | 0x005 | 0x006 | 0x007 => some 32
  | 0x010 | 0x012 | 0x014 => some 64
  | 0x020 | 0x021 | 0x022 => some 32
  | 0x030 => some 64
  | 0x040 | 0x041 => some 32
  | 0x042 => some 64
  | _ => none

/-- R57 and the entries: whether IMM14 fits its layout, for an instruction whose IMM14 is in use. `xacq` and `xrel` with a count of
257 to 511, whose fate the entry does not state, do not fit (DESIGN CHOICE, log 103). -/
def immOk (i : Instr) (o : ExtOps) : Bool :=
  let m := immU o
  match i with
  | .mfs _ | .mts _ => bits m 12 2 == 0 && sysWidth (bits m 0 12) == some (tyWidth o.ty)
  | .phint _ => m ≤ 2
  | .xacq _ | .xrel _ => m ≤ 256
  | .shfl _ => bits m 6 8 == 0 && bits m 2 3 ≤ 5 && (!bit m 5 || bits m 0 2 == 1)
  | .bcast _ => m ≤ 31
  | .perm _ => !bit m 12 && (bit m 13 || m == 0)
  | .vote _ => m ≤ 6
  | .unpack _ => m ≤ 1
  | .swz _ => m ≤ 7
  | .lfn _ => m ≤ 255
  | .bfx _ | .bfi _ => bits m 12 2 == 0 && bits m 0 6 + bits m 6 6 + 1 ≤ tyWidth o.ty
  | .cmp _ => m ≤ 5
  | .fcmp _ | .fcmpD _ => m ≤ 15
  | .fcvt _ | .fcvtD _ | .icvt _ | .icvtD _ | .fcvti _ | .fcvtiD _ => m ≤ 15 && convOk i o.ty (srcTy o)
  | .fcvtMx _ => [4, 6, 7].contains m
  | .fprog _ => m ≤ 63
  | .atomsOp _ | .atomOp _ => bits m 10 4 ≤ 7
  | .sppin _ | .spfree _ => 1 ≤ m && m ≤ 16
  | .qinit _ | .qpush _ | .qpop _ | .qtry _ => m ≤ 15
  | .qallow _ => bits m 10 4 == 0
  | .mmaReg _ | .mmazReg _ | .mmaSp _ | .mmazSp _ =>
    let tb := tyOfCode (bits m 10 4)
    bits m 5 4 == 0
      && (match o.ty with
          | .e4m3 | .e5m2 => tb == .e4m3 || tb == .e5m2
          | .e2m1 | .cb4 => tb == .e2m1 || tb == .cb4
          | t => tb == t)
      && (!bit m 9 || tyWidth o.ty ≤ 8)
  | .acld _ | .acst _ | .lutld _ => m ≤ 1
  | .mdrain _ => bits m 7 7 == 0 && m % 2 == 0
  | .mbarv _ => bits m 10 4 == 0 && 1 ≤ bits m 4 6 && bits m 4 6 ≤ 34
  | .mbarw _ => m ≤ 15
  | .cpy _ => bits m 12 2 ≠ 3 && bits m 8 4 == 0 && bits m 0 8 + 4 ≤ 255
  | .fence _ => m ≤ 3
  | .redInt _ => bits m 10 4 ≤ 5
  | .redFloat _ => bits m 10 4 == 0
  | .redget _ => bits m 11 3 == 0
  | .bar _ | .barv _ | .barw _ => m ≤ 31
  | _ => true

/-- A field that an instruction does not use is all zero (R53, R61). -/
def srcZero (s : Src) : Bool := s.r == 0 && !s.last && !s.h && s.w == 0

/-- R50: whether a use names an even and odd pair (or two of them). -/
def usePair (u : Use) (o : ExtOps) : Bool :=
  match u with
  | .pair | .quad => true
  | .byTy => ty64 o.ty
  | .src => ty64 (srcTy o)
  | _ => false

/-- R287: the registers an operand image takes in the register forms. -/
def imageRegs (t : Ty) : Nat := if tyWidth t ≥ 32 then 2 else 4

/-- R50, R51, R53: one source field, by its use. H and W are allowed where the entry allows them and PK is not 00;
a conversion may also set H for a 16-bit source. -/
def srcOk (u : Use) (mods lastOk : Bool) (o : ExtOps) (s : Src) : Bool :=
  match u with
  | .none => srcZero s
  | _ =>
    (!usePair u o || s.r.toNat % 2 == 0)
      && (lastOk || !s.last)
      && (!s.h || (mods && !usePair u o
            && (tyPk o.ty ≠ 0 || (u == .src && tyWidth (srcTy o) == 16))))
      && (s.w == 0 || (mods && !usePair u o && tyPk o.ty ≠ 0))

/-- R50, R309, R352: the D field, by its use. -/
def destOk (u : Use) (o : ExtOps) : Bool :=
  match u with
  | .none => o.d == 0
  | .acc => o.d.toNat < 8
  | .scopeD => o.d.toNat ≤ 4
  | _ => !usePair u o || o.d.toNat % 2 == 0

/-- R57: the literal fits the operand it replaces. -/
def litOk (i : Instr) (sp : OpSpec) (o : ExtOps) : Bool :=
  match o.lit with
  | none => sp.x
  | some v =>
    sp.xl
      && (match i with
          | .lfnD _ => v.toNat < 2 ^ 16
          | .movi _ => ty64 o.ty || v.toNat < 2 ^ 32
          | _ => sp.bk == .reg || ty64 o.ty || v.toNat < 2 ^ 32)

/-- R57: IMM14 is in use by its layout; a literal that does not replace B replaces IMM14. -/
def immUsed (sp : OpSpec) (o : ExtOps) : Bool := (sp.usesImm && (o.lit.isNone || sp.bk != .reg)) || immB sp o

/-- Checks of single entries that join two fields. -/
def joinOk (i : Instr) (o : ExtOps) : Bool :=
  match i with
  | .fcvtMx _ => o.d ≠ o.b.r && !o.b.last && !o.b.h && o.b.w == 0
  | .mmaReg _ | .mmazReg _ =>
    o.a.r.toNat % imageRegs o.ty == 0 && o.b.r.toNat % imageRegs o.ty == 0
  | .mdrain _ => o.imm.toNat % 2 == 0
  | _ => true

/-- R60 step 5 for an extended instruction. -/
def extOk (i : Instr) (sp0 : OpSpec) (o : ExtOps) : Bool :=
  let sp := effSpec i sp0 o
  (if sp.tys.isEmpty then o.ty == .i32 else sp.tys.contains o.ty)
    && (sp.rm || o.rm == .rn)
    && (sp.lk || o.lk == 0)
    && (sp.sat || !o.sat)
    && (sp.guardOk || o.g.isNone)
    && litOk i sp0 o
    && destOk sp.d o
    && srcOk sp.a sp.aMods sp.lastOk o o.a
    && (if immB sp0 o then o.b.r == 0 && !o.b.last && o.b.w == 0
        else srcOk sp.b sp.bMods sp.lastOk o o.b)
    && (if sp.scopes.isEmpty then srcOk sp.c sp.cMods sp.lastOk o o.c
        else o.c.r == 0 && sp.scopes.contains (scopeCode o) && sp.ords.contains (ordCode o))
    && (if immUsed sp0 o then immB sp0 o || immOk i o else o.imm == 0)
    && joinOk i o

/-- Whether a base register field may name a pair. -/
def evenReg (r : BitVec 8) : Bool := r.toNat % 2 == 0

/-- R60 step 5: the fields of an instruction are those the map and its entry allow. Device events have none. -/
def fieldsOk (i : Instr) : Bool :=
  match i with
  | .moviBaseLiteral _ _ v => v.toNat < 2 ^ 32
  | .moviI64 _ d _ => evenReg d
  | .brx _ a _ | .ret _ a _ => evenReg a
  | .call _ d _ => evenReg d
  | .calli o => evenReg o.d && evenReg o.a
  | i =>
    match opSpec i, i.ext? with
    | some sp, some o => extOk i sp o
    | _, _ => true

/-- R42: whether the row is an instruction, which a word encodes. -/
def isInstruction (i : Instr) : Bool := (opInfo i).isSome

/-- The registers an instruction names: sources and guard, destinations, and those its last-use bits
kill (R53, R131, R158). -/
structure RegUse where
  reads : List Nat
  writes : List Nat
  kills : List Nat
  deriving DecidableEq, Repr

/-- R50: the registers of a field. -/
def useRegs (u : Use) (o : ExtOps) (r : Nat) : List Nat :=
  match u with
  | .none | .acc | .scopeD | .feeder => []
  | .one => [r]
  | .pair => [r, r + 1]
  | .byTy => if ty64 o.ty then [r, r + 1] else [r]
  | .src => if ty64 (srcTy o) then [r, r + 1] else [r]
  | .quad => if ty64 o.ty then [r, r + 1, r + 2, r + 3] else [r, r + 1]

/-- R53: what a last-use bit kills. -/
def killIf (s : Src) (rs : List Nat) : List Nat := if s.last then rs else []

/-- The register of a guard, if there is one. -/
def guardRegs (g : Option Guard) : List Nat :=
  match g with
  | none => []
  | some g => [g.reg.toNat]

/-- R70, R158: the registers an extended instruction names. `cpy` also reads its five origin registers (R354),
`lfn.d` its destination (R193), and the block form of `fcvt` writes B (R211). -/
def extRegs (i : Instr) (sp0 : OpSpec) (o : ExtOps) : RegUse :=
  let sp := effSpec i sp0 o
  let a := useRegs sp.a o o.a.r.toNat
  let b := useRegs sp.b o o.b.r.toNat
  let c := if sp.scopes.isEmpty then useRegs sp.c o o.c.r.toNat else []
  let d := useRegs sp.d o o.d.toNat
  let kc := if sp.scopes.isEmpty then killIf o.c c else []
  let ks := killIf o.a a ++ killIf o.b b ++ kc
  match i with
  | .fcvtMx _ => ⟨guardRegs o.g ++ a, d ++ b, killIf o.a a⟩
  | .lfnD _ => ⟨guardRegs o.g ++ a ++ b ++ c ++ d, d, ks⟩
  | .cpy _ => ⟨guardRegs o.g ++ a ++ b ++ span (bits (immU o) 0 8) 5, d, ks⟩
  | _ => ⟨guardRegs o.g ++ a ++ b ++ c, d, ks⟩

/-- The registers a base instruction with D and A names; two-address opcodes also read D. -/
def daRegs (two : Bool) (o : BaseOps) : RegUse :=
  ⟨guardRegs o.g ++ [o.a.toNat] ++ (if two then [o.d.toNat] else []), [o.d.toNat],
   if o.la then [o.a.toNat] else []⟩

/-- R131, R158: the registers an instruction names. -/
def regUse (i : Instr) : RegUse :=
  match i with
  | .nop g | .exit g => ⟨guardRegs g, [], []⟩
  | .movBase o | .notBase o | .negBase o | .absBase o | .popcBase o | .clzBase o | .fnegBase o => daRegs false o
  | .addBase o | .subBase o | .mulBase o | .andBase o | .orBase o | .xorBase o | .andnBase o | .shlBase o
  | .shrBase o | .sarBase o | .minI32Base o | .maxI32Base o | .minN32Base o | .maxN32Base o | .faddBase o
  | .fsubBase o | .fmulBase o => daRegs true o
  | .moviBase g d _ | .moviBaseLiteral g d _ => ⟨guardRegs g, [d.toNat], []⟩
  | .moviI64 g d _ | .call g d _ => ⟨guardRegs g, [d.toNat, d.toNat + 1], []⟩
  | .bra g _ | .braLiteral g _ => ⟨guardRegs g, [], []⟩
  | .brx g a la | .ret g a la =>
    ⟨guardRegs g ++ [a.toNat, a.toNat + 1], [], if la then [a.toNat, a.toNat + 1] else []⟩
  | .calli o =>
    ⟨guardRegs o.g ++ [o.a.toNat, o.a.toNat + 1], [o.d.toNat, o.d.toNat + 1],
     if o.la then [o.a.toNat, o.a.toNat + 1] else []⟩
  | .kill d => ⟨[], [], [d.toNat]⟩
  | i =>
    match opSpec i, i.ext? with
    | some sp, some o => extRegs i sp o
    | _, _ => ⟨[], [], []⟩

/-- The guard of an instruction (R42). -/
def guardOf (i : Instr) : Option Guard :=
  match i with
  | .nop g | .exit g | .moviBase g _ _ | .moviBaseLiteral g _ _ | .moviI64 g _ _ | .bra g _ | .braLiteral g _
  | .brx g _ _ | .ret g _ _ | .call g _ _ => g
  | .movBase o | .addBase o | .subBase o | .mulBase o | .andBase o | .orBase o | .xorBase o | .andnBase o
  | .notBase o | .shlBase o | .shrBase o | .sarBase o | .minI32Base o | .maxI32Base o | .minN32Base o
  | .maxN32Base o | .negBase o | .absBase o | .popcBase o | .clzBase o | .faddBase o | .fsubBase o | .fmulBase o
  | .fnegBase o | .calli o => o.g
  | i =>
    match i.ext? with
    | some o => o.g
    | none => none

/-- R41: the number of words of an instruction. -/
def lenWords (i : Instr) : Nat :=
  match i with
  | .moviBaseLiteral .. | .moviI64 .. | .braLiteral .. | .call .. => 3
  | i =>
    match i.ext? with
    | some o => if o.lit.isSome then 5 else 3
    | none => 1

end Sys2Proof.Machine
end

