-- ==== Sys2Proof/WellFormed.lean ====
section
/-!
DEFINITION. Which instruction terms the encodings of the spec admit (R42, R47 to R59).
-/
namespace Sys2Proof

/-- R10, R60: every field holds a value the opcode map and the entry allow. -/
def Instr.wellFormed (i : Instr) : Bool := Machine.fieldsOk i

end Sys2Proof
end

