-- ==== Sys2Proof/Decode.lean ====
section
/-!
DEFINITION. The decoder (R40 to R61) and, after it, the encoder. An instruction is one number: word k of
the instruction stands at bits [32k + 31 : 32k] (R4, R40).
-/
namespace Sys2Proof

open Machine

/-- R60, R61: why words are no instruction. Each of them raises ILL; `truncated` means that words are
missing. -/
inductive DecodeError where
  | truncated
  | undefinedOpcode
  | undefinedForm
  | reservedField
  deriving DecidableEq, Repr

/-- R41: the number of words that the LEN field selects. -/
def lenOf (w : Nat) : Nat :=
  match bits w 0 2 with
  | 0 => 1
  | 1 => 3
  | 2 => 3
  | _ => 5

/-- R42: the guard fields. With GE = 0, G and GS are 0. -/
def decodeGuard (w : Nat) : Except DecodeError (Option Guard) :=
  if bit w 9 then .ok (some ⟨BitVec.ofNat 4 (bits w 10 4), bit w 14⟩)
  else if bits w 10 5 = 0 then .ok none
  else .error .reservedField

/-- R45, R46: a source of word 1 or 2, whose lowest bit is bit `lo`. -/
def decodeSrc (w lo : Nat) : Src :=
  ⟨BitVec.ofNat 8 (bits w lo 8), bit w (lo + 8), bit w (lo + 9), BitVec.ofNat 3 (bits w (lo + 10) 3)⟩

/-- R45: source B, whose modifiers stand in another order than those of A and C. -/
def decodeSrcB (w : Nat) : Src :=
  ⟨BitVec.ofNat 8 (bits w 45 8), bit w 53, bit w 54, BitVec.ofNat 3 (bits w 55 3)⟩

/-- R73: the base opcodes with the operands D and A. -/
def baseCtor (op : Nat) : Option (BaseOps → Instr) :=
  match op with
  | 2 => some .movBase
  | 5 => some .addBase
  | 6 => some .subBase
  | 7 => some .mulBase
  | 8 => some .andBase
  | 9 => some .orBase
  | 10 => some .xorBase
  | 11 => some .andnBase
  | 12 => some .notBase
  | 13 => some .shlBase
  | 14 => some .shrBase
  | 15 => some .sarBase
  | 16 => some .minI32Base
  | 17 => some .maxI32Base
  | 18 => some .minN32Base
  | 19 => some .maxN32Base
  | 20 => some .negBase
  | 21 => some .absBase
  | 22 => some .popcBase
  | 23 => some .clzBase
  | 24 => some .faddBase
  | 25 => some .fsubBase
  | 26 => some .fmulBase
  | 27 => some .fnegBase
  | 31 => some .calli
  | _ => none

/-- R74 to R81: the sub-opcodes of extended OP 1. -/
def extCtor1 (sub : Nat) (xl : Bool) : Option (ExtOps → Instr) :=
  match sub, xl with
  | 0, _ => some .sleep
  | 1, _ => some .mfs
  | 2, _ => some .mts
  | 3, _ => some .phint
  | _, _ => none

/-- R74 to R81: the sub-opcodes of extended OP 2. -/
def extCtor2 (sub : Nat) (xl : Bool) : Option (ExtOps → Instr) :=
  match sub, xl with
  | 0, _ => some .mov
  | 1, _ => some .movi
  | 2, _ => some .sel
  | 3, _ => some .xacq
  | 4, _ => some .xrel
  | 5, _ => some .shfl
  | 6, _ => some .bcast
  | 7, _ => some .perm
  | 8, _ => some .vote
  | 9, _ => some .rdlane
  | 10, _ => some .wrlane
  | 11, _ => some .pack
  | 12, _ => some .unpack
  | 13, _ => some .swz
  | _, _ => none

/-- R74 to R81: the sub-opcodes of extended OP 3. -/
def extCtor3 (sub : Nat) (xl : Bool) : Option (ExtOps → Instr) :=
  match sub, xl with
  | 0, _ => some .add
  | 1, _ => some .sub
  | 2, _ => some .addc
  | 3, _ => some .subb
  | 4, _ => some .sadd
  | 5, _ => some .ssub
  | 6, _ => some .and
  | 7, _ => some .or
  | 8, _ => some .xor
  | 9, _ => some .andn
  | 10, _ => some .not
  | 11, false => some .lfn
  | 11, true => some .lfnD
  | 12, _ => some .shl
  | 13, _ => some .shr
  | 14, _ => some .sar
  | 15, _ => some .rol
  | 16, _ => some .ror
  | 17, _ => some .fsh
  | 18, _ => some .bfx
  | 19, _ => some .bfi
  | 20, _ => some .popc
  | 21, _ => some .clz
  | 22, _ => some .ctz
  | 23, _ => some .brev
  | 24, _ => some .min
  | 25, _ => some .max
  | 26, _ => some .abs
  | 27, _ => some .neg
  | 28, _ => some .cmp
  | _, _ => none

/-- R74 to R81: the sub-opcodes of extended OP 4. -/
def extCtor4 (sub : Nat) (xl : Bool) : Option (ExtOps → Instr) :=
  match sub, xl with
  | 0, _ => some .mul
  | 1, _ => some .mulhi
  | 2, _ => some .mad
  | 3, _ => some .madw
  | 4, _ => some .dot4
  | 5, _ => some .mul64
  | 6, _ => some .mulhi64
  | 7, _ => some .mad64
  | 8, _ => some .idiv
  | 9, _ => some .irem
  | 10, _ => some .idiv64
  | 11, _ => some .irem64
  | _, _ => none

/-- R74 to R81: the sub-opcodes of extended OP 5. -/
def extCtor5 (sub : Nat) (xl : Bool) : Option (ExtOps → Instr) :=
  match sub, xl with
  | 0, _ => some .fadd
  | 1, _ => some .fsub
  | 2, _ => some .fmul
  | 3, _ => some .fma
  | 4, _ => some .fmin
  | 5, _ => some .fmax
  | 6, _ => some .fcmp
  | 7, _ => some .fcvt
  | 8, _ => some .icvt
  | 9, _ => some .fcvti
  | 10, _ => some .frnd
  | 11, _ => some .fscale
  | 12, _ => some .fcvtMx
  | _, _ => none

/-- R74 to R81: the sub-opcodes of extended OP 6. -/
def extCtor6 (sub : Nat) (xl : Bool) : Option (ExtOps → Instr) :=
  match sub, xl with
  | 0, _ => some .faddD
  | 1, _ => some .fsubD
  | 2, _ => some .fmulD
  | 3, _ => some .fmaD
  | 4, _ => some .fminD
  | 5, _ => some .fmaxD
  | 6, _ => some .fcmpD
  | 7, _ => some .fcvtD
  | 8, _ => some .icvtD
  | 9, _ => some .fcvtiD
  | 10, _ => some .frndD
  | 11, _ => some .fscaleD
  | _, _ => none

/-- R74 to R81: the sub-opcodes of extended OP 7. -/
def extCtor7 (sub : Nat) (xl : Bool) : Option (ExtOps → Instr) :=
  match sub, xl with
  | 0, _ => some .fneg
  | 1, _ => some .fsgn
  | 2, _ => some .fclass
  | 3, _ => some .fexpo
  | _, _ => none

/-- R74 to R81: the sub-opcodes of extended OP 8. -/
def extCtor8 (sub : Nat) (xl : Bool) : Option (ExtOps → Instr) :=
  match sub, xl with
  | 0, _ => some .fdiv
  | 1, _ => some .frcp
  | 2, _ => some .fsqrt
  | 3, _ => some .frsqrt
  | 4, _ => some .fexp
  | 5, _ => some .fexp2
  | 6, _ => some .fexpm1
  | 7, _ => some .flog
  | 8, _ => some .flog2
  | 9, _ => some .flog1p
  | 10, _ => some .fsin
  | 11, _ => some .fcos
  | 12, _ => some .ftan
  | 13, _ => some .fsinpi
  | 14, _ => some .fcospi
  | 15, _ => some .fatan
  | 16, _ => some .fhypot
  | 17, _ => some .fpow
  | 18, _ => some .fdot2
  | 19, _ => some .fdot4
  | 20, _ => some .gsum
  | 21, _ => some .gsumsq
  | _, _ => none

/-- R74 to R81: the sub-opcodes of extended OP 9. -/
def extCtor9 (sub : Nat) (xl : Bool) : Option (ExtOps → Instr) :=
  match sub, xl with
  | 0, _ => some .fdivD
  | 1, _ => some .frcpD
  | 2, _ => some .fsqrtD
  | 3, _ => some .frsqrtD
  | 4, _ => some .fexpD
  | 5, _ => some .fexp2D
  | 6, _ => some .fexpm1D
  | 7, _ => some .flogD
  | 8, _ => some .flog2D
  | 9, _ => some .flog1pD
  | 10, _ => some .fsinD
  | 11, _ => some .fcosD
  | 12, _ => some .ftanD
  | 13, _ => some .fsinpiD
  | 14, _ => some .fcospiD
  | 15, _ => some .fatanD
  | 20, _ => some .gsumD
  | 21, _ => some .gsumsqD
  | _, _ => none

/-- R74 to R81: the sub-opcodes of extended OP 10. -/
def extCtor10 (sub : Nat) (xl : Bool) : Option (ExtOps → Instr) :=
  match sub, xl with
  | 0, _ => some .gmax
  | 1, _ => some .gmin
  | 2, _ => some .fprog
  | 3, _ => some .parkw
  | 4, _ => some .gsumInt
  | _, _ => none

/-- R74 to R81: the sub-opcodes of extended OP 11. -/
def extCtor11 (sub : Nat) (xl : Bool) : Option (ExtOps → Instr) :=
  match sub, xl with
  | 0, _ => some .lds
  | 1, _ => some .sts
  | 2, _ => some .ldsg
  | 3, _ => some .stss
  | 4, _ => some .atomsOp
  | 5, _ => some .atomsXchg
  | 6, _ => some .atomsCas
  | 7, _ => some .sppin
  | 8, _ => some .spfree
  | _, _ => none

/-- R74 to R81: the sub-opcodes of extended OP 12. -/
def extCtor12 (sub : Nat) (xl : Bool) : Option (ExtOps → Instr) :=
  match sub, xl with
  | 0, _ => some .qinit
  | 1, _ => some .qpush
  | 2, _ => some .qpop
  | 3, _ => some .qtry
  | 4, _ => some .qallow
  | _, _ => none

/-- R74 to R81: the sub-opcodes of extended OP 13. -/
def extCtor13 (sub : Nat) (xl : Bool) : Option (ExtOps → Instr) :=
  match sub, xl with
  | 0, _ => some .fork
  | 1, _ => some .join
  | 2, _ => some .mmaReg
  | 3, _ => some .mmaSp
  | 4, _ => some .mmazReg
  | 5, _ => some .mmazSp
  | 6, _ => some .acld
  | 7, _ => some .acst
  | 8, _ => some .mdrain
  | 9, _ => some .lutld
  | 10, _ => some .lutsw
  | 11, _ => some .mbarv
  | 12, _ => some .mbarw
  | _, _ => none

/-- R74 to R81: the sub-opcodes of extended OP 14. -/
def extCtor14 (sub : Nat) (xl : Bool) : Option (ExtOps → Instr) :=
  match sub, xl with
  | 0, _ => some .ld
  | 1, _ => some .st
  | 2, _ => some .ldt
  | 3, _ => some .stt
  | 4, _ => some .ldw
  | 5, _ => some .cpy
  | 6, _ => some .publish
  | 7, _ => some .prf
  | 8, _ => some .cflush
  | 9, _ => some .xprobe
  | _, _ => none

/-- R74 to R81: the sub-opcodes of extended OP 15. -/
def extCtor15 (sub : Nat) (xl : Bool) : Option (ExtOps → Instr) :=
  match sub, xl with
  | 0, _ => some .fence
  | 1, _ => some .fwait
  | 2, _ => some .ldacq
  | 3, _ => some .strel
  | 4, _ => some .atomOp
  | 5, _ => some .atomXchg
  | 6, _ => some .atomCas
  | 7, _ => some .redInt
  | 8, _ => some .redFloat
  | 9, _ => some .redget
  | 10, _ => some .bar
  | 11, _ => some .barv
  | 12, _ => some .barw
  | 13, _ => some .sbar
  | _, _ => none

/-- R41, R61: the instruction that OP and SUB name in the extended space. -/
def extCtor (op sub : Nat) (xl : Bool) : Option (ExtOps → Instr) :=
  match op with
  | 1 => extCtor1 sub xl
  | 2 => extCtor2 sub xl
  | 3 => extCtor3 sub xl
  | 4 => extCtor4 sub xl
  | 5 => extCtor5 sub xl
  | 6 => extCtor6 sub xl
  | 7 => extCtor7 sub xl
  | 8 => extCtor8 sub xl
  | 9 => extCtor9 sub xl
  | 10 => extCtor10 sub xl
  | 11 => extCtor11 sub xl
  | 12 => extCtor12 sub xl
  | 13 => extCtor13 sub xl
  | 14 => extCtor14 sub xl
  | 15 => extCtor15 sub xl
  | _ => none

/-- R60 steps 3 to 5 in the base space, without literal. -/
def decodeBase (w : Nat) (g : Option Guard) : Except DecodeError Instr :=
  let op := bits w 2 7
  let d := BitVec.ofNat 8 (bits w 15 8)
  let a := BitVec.ofNat 8 (bits w 23 8)
  let la := bit w 31
  let zeroDA (i : Instr) : Except DecodeError Instr := if bits w 15 17 = 0 then .ok i else .error .reservedField
  let bare (i : Instr) : Except DecodeError Instr :=
    if g.isNone ∧ bits w 15 17 = 0 then .ok i else .error .reservedField
  match baseCtor op with
  | some c => .ok (c ⟨g, d, a, la⟩)
  | none =>
    match op with
    | 0x01 => zeroDA (.nop g)
    | 0x03 => .ok (.moviBase g d (BitVec.ofNat 9 (bits w 23 9)))
    | 0x1C => .ok (.bra g (BitVec.ofNat 17 (bits w 15 17)))
    | 0x1D => if bits w 15 8 = 0 then .ok (.brx g a la) else .error .reservedField
    | 0x20 => if bits w 15 8 = 0 then .ok (.ret g a la) else .error .reservedField
    | 0x21 => bare .jn
    | 0x22 => bare .regang
    | 0x23 => zeroDA (.exit g)
    | 0x24 => bare .yield
    | 0x25 => if g.isNone ∧ bits w 23 9 = 0 then .ok (.kill d) else .error .reservedField
    | 0x26 => if g.isNone ∧ bits w 15 8 = 0 ∧ la = false then .ok (.trap a) else .error .reservedField
    | 0x27 => bare .tret
    | 0x28 => bare .brkpt
    | 0x04 => .error .undefinedForm
    | 0x1E => .error .undefinedForm
    | _ => .error .undefinedOpcode

/-- R60 steps 3 to 5 in the base space, with a literal in words 1 and 2 (R58). -/
def decodeBaseLit (w : Nat) (g : Option Guard) : Except DecodeError Instr :=
  let op := bits w 2 7
  let d := BitVec.ofNat 8 (bits w 15 8)
  let v := BitVec.ofNat 64 (bits w 32 64)
  match op with
  | 0x03 => if bits w 23 9 = 0 then .ok (.moviBaseLiteral g d v) else .error .reservedField
  | 0x04 => if bits w 23 9 = 0 then .ok (.moviI64 g d v) else .error .reservedField
  | 0x1C => if bits w 15 17 = 0 then .ok (.braLiteral g v) else .error .reservedField
  | 0x1E => if bits w 23 9 = 0 then .ok (.call g d v) else .error .reservedField
  | op => if 0x01 ≤ op ∧ op ≤ 0x28 then .error .undefinedForm else .error .undefinedOpcode

/-- R44 to R46: the operands of an extended instruction. PK must be that of the type (R48). -/
def decodeExtOps (w : Nat) (g : Option Guard) (lit : Option (BitVec 64)) : Except DecodeError ExtOps :=
  let ty := tyOfCode (bits w 77 4)
  match rmOfCode (bits w 27 3) with
  | none => .error .reservedField
  | some rm =>
    if bits w 30 2 ≠ tyPk ty then .error .reservedField
    else .ok {
      g := g
      d := BitVec.ofNat 8 (bits w 15 8)
      rm := rm
      lk := BitVec.ofNat 4 (bits w 23 4)
      a := decodeSrc w 32
      b := decodeSrcB w
      c := decodeSrc w 64
      imm := BitVec.ofNat 14 (bits w 82 14)
      sat := bit w 81
      ty := ty
      lit := lit }

/-- R60 steps 3 to 5 in the extended space. -/
def decodeExt (w : Nat) (g : Option Guard) (lit : Option (BitVec 64)) : Except DecodeError Instr :=
  match extCtor (bits w 2 7) (bits w 58 6) lit.isSome with
  | none => .error .undefinedOpcode
  | some c =>
    match decodeExtOps w g lit with
    | .error e => .error e
    | .ok o => .ok (c o)

/-- R60: the instruction that the words of `w` encode. -/
def decodeBits (w : Nat) : Except DecodeError Instr :=
  match decodeGuard w with
  | .error e => .error e
  | .ok g =>
    let r :=
      match bits w 0 2 with
      | 0 => decodeBase w g
      | 1 => decodeExt w g none
      | 2 => decodeBaseLit w g
      | _ => decodeExt w g (some (BitVec.ofNat 64 (bits w 96 64)))
    match r with
    | .error e => .error e
    | .ok i => if i.wellFormed then .ok i else .error .reservedField

/-- R40, R41: the instruction at the start of a list of bytes, and the bytes after it. -/
def decodeBytes (bs : List Byte) : Except DecodeError (Instr × List Byte) :=
  if bs.length < 4 then .error .truncated
  else
    let n := 4 * lenOf (Machine.ofBytes (bs.take 4))
    if bs.length < n then .error .truncated
    else
      match decodeBits (Machine.ofBytes (bs.take n)) with
      | .error e => .error e
      | .ok i => .ok (i, bs.drop n)

/-- The instruction read from an instruction whose bits are `w`, of which the opcode table gives the low `nbits`. -/
def decodeTableWord (nbits w : Nat) : Option Instr := (decodeBits (w % 2 ^ nbits)).toOption

/-- R42: the guard fields, as bits [14:9] of word 0. -/
def encodeGuard (g : Option Guard) : Nat :=
  match g with
  | none => 0
  | some g => 1 + 2 * g.reg.toNat + 32 * b01 g.neg

/-- R42, R43: word 0 of the base forms from LEN, OP, guard, D and bits [31:23]. -/
def encodeWord0 (len op : Nat) (g : Option Guard) (d hi : Nat) : Nat :=
  len + 4 * op + 2 ^ 9 * encodeGuard g + 2 ^ 15 * d + 2 ^ 23 * hi

/-- R45, R46: the thirteen bits of source A or C. -/
def encodeSrc (s : Src) : Nat :=
  s.r.toNat + 2 ^ 8 * b01 s.last + 2 ^ 9 * b01 s.h + 2 ^ 10 * s.w.toNat

/-- R44 to R46: the words of an extended instruction. -/
def encodeExt (op sub : Nat) (o : ExtOps) : Nat :=
  encodeWord0 (if o.lit.isSome then 3 else 1) op o.g o.d.toNat
      (o.lk.toNat + 2 ^ 4 * rmCode o.rm + 2 ^ 7 * tyPk o.ty)
    + 2 ^ 32 * (encodeSrc o.a + 2 ^ 13 * encodeSrc o.b + 2 ^ 26 * sub)
    + 2 ^ 64 * (encodeSrc o.c + 2 ^ 13 * tyCode o.ty + 2 ^ 17 * b01 o.sat + 2 ^ 18 * o.imm.toNat)
    + (match o.lit with
       | none => 0
       | some v => 2 ^ 96 * v.toNat)

/-- The operands of a base instruction with D and A. -/
def Instr.base? : Instr → Option BaseOps
  | .movBase o => some o
  | .addBase o => some o
  | .subBase o => some o
  | .mulBase o => some o
  | .andBase o => some o
  | .orBase o => some o
  | .xorBase o => some o
  | .andnBase o => some o
  | .notBase o => some o
  | .shlBase o => some o
  | .shrBase o => some o
  | .sarBase o => some o
  | .minI32Base o => some o
  | .maxI32Base o => some o
  | .minN32Base o => some o
  | .maxN32Base o => some o
  | .negBase o => some o
  | .absBase o => some o
  | .popcBase o => some o
  | .clzBase o => some o
  | .faddBase o => some o
  | .fsubBase o => some o
  | .fmulBase o => some o
  | .fnegBase o => some o
  | .calli o => some o
  | _ => none

/-- R41 to R46: the words of an instruction, as one number. A device event has none. -/
def encode (i : Instr) : Option Nat :=
  match opInfo i with
  | none => none
  | some f =>
    match i.ext?, i.base? with
    | some o, _ => some (encodeExt f.op f.sub o)
    | _, some o => some (encodeWord0 0 f.op o.g o.d.toNat (o.a.toNat + 2 ^ 8 * b01 o.la))
    | _, _ =>
      match i with
      | .nop g | .exit g => some (encodeWord0 0 f.op g 0 0)
      | .moviBase g d v => some (encodeWord0 0 f.op g d.toNat v.toNat)
      | .moviBaseLiteral g d v | .moviI64 g d v | .call g d v =>
        some (encodeWord0 2 f.op g d.toNat 0 + 2 ^ 32 * v.toNat)
      | .bra g off => some (encodeWord0 0 f.op g 0 0 + 2 ^ 15 * off.toNat)
      | .braLiteral g v => some (encodeWord0 2 f.op g 0 0 + 2 ^ 32 * v.toNat)
      | .brx g a la | .ret g a la => some (encodeWord0 0 f.op g 0 (a.toNat + 2 ^ 8 * b01 la))
      | .kill d => some (encodeWord0 0 f.op none d.toNat 0)
      | .trap n => some (encodeWord0 0 f.op none 0 n.toNat)
      | _ => some (encodeWord0 0 f.op none 0 0)

/-- The bytes of an instruction, in the order in which they are stored (R4, R40). -/
def encodeBytes (i : Instr) : Option (List Byte) :=
  (encode i).map fun w => Machine.toBytes (4 * Machine.lenWords i) w

end Sys2Proof
end

