-- ==== Sys2Proof/Config.lean ====
section
/-!
DEFINITION. What the manual leaves to the implementation or leaves open, as constants without a value (guide: free
values). No statement may rest on one of their values.
-/
namespace Sys2Proof.Config

/-- R417: where a soft error strikes: a register line, a 32-byte granule of a block's scratchpad or park ring, a granule of memory
in its store (5 HBM, 6 LPDDR6X, 7 weight store, as R421 numbers units), in the L2 (3) or in a synchronisation engine (8), a line
of an instruction cache, or an entry of a cluster's exact accumulator store. -/
inductive ErrorSite where
  | register (b g r : Nat)
  | scratchpad (b granule : Nat)
  | memory (unit granule : Nat)
  | icache (core line : Nat)
  | accumulator (cluster entry : Nat)
  deriving DecidableEq, Repr

/-- R417: a soft error as a store finds it: where, whether it could be corrected, and the bit position. -/
structure SoftError where
  site : ErrorSite
  corrected : Bool
  position : Nat
  deriving DecidableEq, Repr

/-- R298, R421: the physical address of an entry of a cluster's exact accumulator store. -/
opaque entryPlace (cluster entry : Nat) : Nat

/-- R417: the soft error, if any, that strikes before the next device event, by the counter of free choices. -/
opaque softError (choice : Nat) : Option SoftError

/-- R14, R361 to R367: which of the enabled happenings comes next, by the counter of free choices. -/
opaque pick : Nat → Nat

/-- R248: a byte of a scratchpad space that has ended, by the counter of free choices. -/
opaque openByte (choice k : Nat) : Byte

/-- R216: whether an element whose parking the manual leaves open parks: opcode, sub-opcode, mode, type, operands. -/
opaque parks (op sub mode : Nat) (ty : Ty) (operands : List Nat) : Bool

/-- R216, R233: the same for a loaded function slot. -/
opaque slotParks (package : List Byte) (mode : Nat) (ty : Ty) (operands : List Nat) : Bool

/-- R222: whether the wide evaluation unit passes a record that the manual leaves open to the exact stage. -/
opaque weuPasses (op sub mode : Nat) (ty : Ty) (operands : List Nat) : Bool

/-- R222, R233: the same for a loaded function slot. -/
opaque slotWeuPasses (package : List Byte) (mode : Nat) (ty : Ty) (operands : List Nat) : Bool

/-- R241: the function of a loaded slot on exact operand encodings: sign, integer and binary exponent of a value
below or equal to the result's magnitude, and whether the result is larger. -/
opaque slotFunction (package : List Byte) (ty : Ty) (operands : List Nat) : Bool × Nat × Int × Bool

/-- R233, R216: whether operands are special inputs of a slot; their result and flags are then given. -/
opaque slotSpecial (package : List Byte) (ty : Ty) (operands : List Nat) (mode : Nat) : Option (Nat × BitVec 6)

/-- R233: arity, type codes, class and worst case that the header of a signed package states. -/
opaque slotHeader (package : List Byte) : Option (Nat × List Nat × Nat × Nat)

/-- R467, R468: whether a Falcon-1024 signature by Grenfold over the digest of these bytes verifies. -/
opaque falconVerifies (package : List Byte) : Bool

/-- R469: the signature of the package identity key over a digest. -/
opaque falconSign (digest : List Byte) : List Byte

/-- R467: the reason code of a staged image that is refused for its format, its security version and its length,
found from its bytes. -/
opaque imageVersion (image : List Byte) : Option Nat

/-- R467, R468: the number of bytes of a staged image or signed package that begins with these bytes. -/
opaque packageLength (front : List Byte) : Nat

/-- R12: the value that bring-up calibration loads, by register number of this model. -/
opaque calibrated (register : Nat) : Nat

/-- R454: the 1,793 bytes of the identity public key. -/
opaque identityKey (offset : Nat) : Byte

/-- R454: the length of the Grenfold certificate. -/
opaque certificateLength : Nat

/-- R454: the bytes of the Grenfold certificate. -/
opaque certificate (offset : Nat) : Byte

/-- R443: the 16-bit signature of a team's last issues: pace class and weight of each. -/
opaque signature (issues : List (Nat × Nat)) : BitVec 16

/-- R120: by how many thousandths of a thousandth the calibrated period of a core's class is off its nominal length,
from 0 (0.1 % short) to 2000 (0.1 % long). -/
opaque periodError (core pace freq : Nat) : Nat

/-- R347: the bytes that a remote package returns for a read, by the counter of free choices. -/
opaque remoteByte (choice : Nat) (pa : Nat) : Byte

/-- R422, R423, R425: the replicas of a set in other packages that have arrived at their step barrier, by the counter of
free choices: the values each exchanges at its first, and the digests of its chunks. -/
opaque replicasElsewhere (choice set : Nat) : List (List Byte × List (List Byte))

/-- R469: the bytes of the boot ROM. -/
opaque bootRom : List Byte
/-- R467: the firmware image that the package is delivered with. -/
opaque firmwareImage : List Byte
/-- R469: the package serial number. -/
opaque serialNumber : List Byte

/-- R476: the name that stands at an offset in an object. -/
opaque nameAt (object : List Byte) (offset : Nat) : List Byte

/-- R471: the symbol of a linkage entry. -/
opaque linkageName (object : List Byte) (entry : Nat) : List Byte

/-- R476, R477: the offset at which an object defines a symbol, if it does. -/
opaque symbolAt (object sym : List Byte) : Option Nat

/-- R477: whether an object exports a symbol. -/
opaque exports (object sym : List Byte) : Bool

/-- R68, R470: the section of a name: offset and bytes. -/
opaque sectionNamed (object name : List Byte) : Option (Nat × Nat)

/-- R68, R472: the code sections of an object: offset and bytes. -/
opaque codeSections (object : List Byte) : List (Nat × Nat)

/-- R472: where the translator puts the native code of the portable object of a digest. -/
opaque translatedAt (digest : List Byte) : Nat

end Sys2Proof.Config
end

