-- ==== Sys2Proof/Machine/Ops.lean ====
section
/-!
DEFINITION. The named operations over tables, bytes, registers and parts of the state. Everything else reads and
writes the state through them.
-/
namespace Sys2Proof.Machine

/-- The entry of a table. -/
def tget {α : Type} (t : Tab α) (k : Nat) : Option α :=
  match t with
  | [] => none
  | (j, v) :: r => if j = k then some v else tget r k

/-- A table with one entry set. Keys stay in rising order. -/
def tset {α : Type} (t : Tab α) (k : Nat) (v : α) : Tab α :=
  match t with
  | [] => [(k, v)]
  | (j, u) :: r =>
    if k < j then (k, v) :: (j, u) :: r
    else if j = k then (k, v) :: r
    else (j, u) :: tset r k v

/-- A table without an entry. -/
def tdel {α : Type} (t : Tab α) (k : Nat) : Tab α :=
  match t with
  | [] => []
  | (j, u) :: r => if j = k then tdel r k else (j, u) :: tdel r k

/-- A table with an entry changed, if it has that entry. -/
def tmod {α : Type} (t : Tab α) (k : Nat) (f : α → α) : Tab α :=
  match tget t k with
  | none => t
  | some v => tset t k (f v)

/-- The entry of a table of counts. -/
def tcount (t : Tab Nat) (k : Nat) : Nat := (tget t k).getD 0

/-- A table of counts with one entry set; 0 is not listed. -/
def tsetCount (t : Tab Nat) (k v : Nat) : Tab Nat := if v = 0 then tdel t k else tset t k v

/-- A byte of a memory. A byte that is not listed reads 0 (log 2). -/
def rdCell (m : List Host.Cell) (a : Nat) : Byte := (tget m a).getD 0

/-- A memory with one byte written. A byte that is 0 is not listed. -/
def wrCell (m : List Host.Cell) (a : Nat) (v : Byte) : List Host.Cell := if v = 0 then tdel m a else tset m a v

/-- R4: consecutive bytes. -/
def rdCells (m : List Host.Cell) (a n : Nat) : List Byte := (List.range n).map fun k => rdCell m (a + k)

/-- R4: consecutive bytes, written from the lowest address on. -/
def wrCells (m : List Host.Cell) (a : Nat) : List Byte → List Host.Cell
  | [] => m
  | v :: vs => wrCells (wrCell m a v) (a + 1) vs

/-- The canonical form of a memory: addresses strictly rising, no byte that is 0. -/
def cellsOk : List Host.Cell → Bool
  | [] => true
  | [(_, v)] => v != 0
  | (a, v) :: (b, w) :: r => v != 0 && a < b && cellsOk ((b, w) :: r)

/-- The canonical form of physical memory. -/
def Memory.wf (m : Memory) : Bool := cellsOk m.base

/-- A fixed row of parts with one of them changed. -/
def vmod {α : Type} {n : Nat} (v : Vector α n) (k : Nat) (f : α → α) : Vector α n :=
  match v[k]? with
  | none => v
  | some x => v.setIfInBounds k (f x)

/-- SREFT (R121): nanoseconds of reference time. -/
def sref (s : State) : Nat := s.time / 13

/-- A free choice below `n` (R14): the counter advances. -/
def choose (s : State) (n : Nat) : Nat × State :=
  (Config.pick s.tick % n, { s with tick := s.tick + 1 })

/-- A fresh name. -/
def fresh (s : State) : Nat × State := (s.nextId, { s with nextId := s.nextId + 1 })

/-- A core; one that nothing has changed since reset is not listed. -/
def coreOf (s : State) (c : Nat) : Core := (tget s.cores c).getD {}

/-- Change a core. -/
def modCore (s : State) (c : Nat) (f : Core → Core) : State := { s with cores := tset s.cores c (f (coreOf s c)) }

/-- R248: the bytes of a block's space: the program area rounded up to 4 KiB. -/
def progSize (b : Block) : Nat := roundUp 12 b.scratch

/-- R217: the bytes of the park ring. -/
def ringSize (b : Block) : Nat := roundUp 12 (64 * b.cap)

/-- R461, R465: the number of blocks a launch has so far. -/
def blocksDue (x : Launch) : Nat := if x.r.node then x.blockRecs.length else x.r.blocks

/-- R119: the count of core cycles where a block stands. -/
def cycleOf (s : State) (k : Block) : Nat := (coreOf s k.core).scyc

/-- Change a team of a core. -/
def modTeam (s : State) (c t : Nat) (f : Team → Team) : State :=
  modCore s c fun k => { k with teams := vmod k.teams t f }

/-- Change a block, if it exists. -/
def modBlock (s : State) (b : Nat) (f : Block → Block) : State := { s with blocks := tmod s.blocks b f }

/-- Change a group of a block, if both exist. -/
def modGroup (s : State) (b g : Nat) (f : Group → Group) : State :=
  modBlock s b fun k => { k with groups := tmod k.groups g f }

/-- Change a launch, if it exists. -/
def modLaunch (s : State) (l : Nat) (f : Launch → Launch) : State := { s with launches := tmod s.launches l f }

/-- A die. -/
def dieOf (s : State) (d : Nat) : Die := s.dies.getD d {}

/-- A cluster, by its global number (R22). -/
def clusterOf (s : State) (k : Nat) : Cluster := s.clusters.getD k {}

/-- Change a die. -/
def modDie (s : State) (d : Nat) (f : Die → Die) : State := { s with dies := s.dies.setIfInBounds d (f (dieOf s d)) }

/-- Change a cluster. -/
def modCluster (s : State) (k : Nat) (f : Cluster → Cluster) : State :=
  { s with clusters := s.clusters.setIfInBounds k (f (clusterOf s k)) }

/-- Change every die. -/
def modDies (s : State) (f : Nat → Die → Die) : State := (List.range 4).foldl (fun s d => modDie s d (f d)) s

/-- Change every cluster. -/
def modClusters (s : State) (f : Nat → Cluster → Cluster) : State :=
  (List.range 8).foldl (fun s k => modCluster s k (f k)) s

/-- R448, R22: the global cluster of a package core. -/
def clusterOfCore (c : Nat) : Nat := c / 96

/-- R448: the die of a package core. -/
def dieOfCore (c : Nat) : Nat := c / 192

/-- The launch record of a block's launch. -/
def recOf (s : State) (b : Block) : LaunchRec := ((tget s.launches b.launch).map Launch.r).getD {}

/-- R402: the location word of a core. -/
def location (s : State) (c : Nat) : Nat := c % 96 + 128 * (c / 96 % 2) + 256 * (c / 192) + 1024 * s.pkg.toNat

/-- Write all of `l` in the order given. -/
def applyAll {α : Type} (s : State) (l : List α) (f : State → α → State) : State := l.foldl f s

/-- Put device events at the end of those that are due. -/
def dueEvents (s : State) (is : List Event) : State := { s with agenda := s.agenda ++ is }

/-- R456: raise an MSI-X vector. -/
def raiseMsix (s : State) (v : Nat) : State := { s with front := { s.front with msix := s.front.msix ++ [v] } }

/-- Whether two byte ranges (address, length) overlap. -/
def overlap (a n b m : Nat) : Bool := decide (a < b + m) && decide (b < a + n)

/-! ### Poison (R418): 32-byte granules by number -/

/-- R418: whether a byte of these lies in a poisoned granule. -/
def poisoned (gs : List Nat) (a n : Nat) : Bool := gs.any fun g => overlap (32 * g) 32 a n

/-- R418: a write that covers whole granules clears their poison. -/
def clearPoison (gs : List Nat) (a n : Nat) : List Nat :=
  gs.filter fun g => !(decide (a ≤ 32 * g) && decide (32 * g + 32 ≤ a + n))

/-- R418: a write of cells that cover whole granules clears their poison. -/
def clearCells (gs : List Nat) (cells : List Host.Cell) : List Nat :=
  gs.filter fun g => !(List.range 32).all fun k => cells.any fun c => c.1 == 32 * g + k

/-- R418: a granule becomes poisoned. -/
def markGranule (gs : List Nat) (g : Nat) : List Nat := if gs.contains g then gs else g :: gs

/-- The physical ranges an access touches. -/
def Access.ranges (a : Access) : List (Nat × Nat) := if a.segs.isEmpty then [(a.addr, a.len)] else a.segs

/-! ### Physical memory and its views (R322, R362, R364, R365) -/

/-- The byte that cells, written in order, leave at an address; `z` if none of them is there. -/
def cellAt (cs : List Host.Cell) (a : Nat) (z : Byte) : Byte := cs.foldl (fun v c => if c.1 = a then c.2 else v) z

/-- The last of these writes that covers a byte, or `z`. -/
def lastCell (ws : List CWrite) (a : Nat) (z : Byte) : Byte := ws.foldl (fun v w => cellAt w.cells a v) z

/-- R361, R366: an observer: its die, cluster and block. -/
structure Viewer where
  die : Nat
  cl : Nat
  b : Nat
  deriving DecidableEq, Repr

/-- R361, R364, R366: whether an observer sees a write: its die's view holds it, or it lies within the write's narrow scope. -/
def CWrite.seenBy (w : CWrite) (v : Viewer) : Bool :=
  w.applied.contains v.die || (w.scope == 1 && w.near == v.b) || (w.scope == 2 && w.near == v.cl)

/-- R361: whether a write has performed at a scope. -/
def CWrite.performed (w : CWrite) (scope : Nat) : Bool :=
  match scope with
  | 1 => true
  | 2 => w.applied != [] || w.scope == 2
  | 3 => w.applied != []
  | _ => [0, 1, 2, 3].all w.applied.contains

/-- R361, R364, R366: a byte as an observer reads it. -/
def nearCell (m : Memory) (v : Viewer) (a : Nat) : Byte := lastCell (m.log.filter fun w => w.seenBy v) a (rdCell m.base a)

/-- R364: a byte in the view of a die. -/
def viewCell (m : Memory) (d a : Nat) : Byte :=
  lastCell (m.log.filter fun w => w.applied.contains d) a (rdCell m.base a)

/-- R362: the coherence-latest value of a byte. -/
def homeCell (m : Memory) (a : Nat) : Byte := lastCell m.log a (rdCell m.base a)

/-- Bytes in the view of a die. -/
def viewBytes (m : Memory) (d a n : Nat) : List Byte := (List.range n).map fun k => viewCell m d (a + k)

/-- Bytes as their homes hold them. -/
def homeBytes (m : Memory) (a n : Nat) : List Byte := (List.range n).map fun k => homeCell m (a + k)

/-- Write a set of bytes, each once. -/
def putCells (m : List Host.Cell) (cs : List Host.Cell) : List Host.Cell := cs.foldl (fun m c => wrCell m c.1 c.2) m

/-- Move to `base` the oldest writes that every die has applied. -/
def foldLog (m : List Host.Cell) : List CWrite → List Host.Cell × List CWrite
  | [] => (m, [])
  | w :: ws => if [0, 1, 2, 3].all w.applied.contains then foldLog (putCells m w.cells) ws else (m, w :: ws)

/-- The memory with its oldest finished writes in `base`. -/
def settleLog (m : Memory) : Memory :=
  let r := foldLog m.base m.log
  { m with base := r.1, log := r.2 }

/-- R365: a clock with die `d`'s counter of writer `w` raised. -/
def tickClock (cs : List (List Nat)) (d w : Nat) : List (List Nat) := cs.modify d fun c => c.modify w (· + 1)

/-- R364, R365: a write enters the view of its writer's die, with that die's clock, last in coherence order. -/
def enterWrite (m : Memory) (id who d : Nat) (cells : List Host.Cell) (eng : Bool := false) : Memory :=
  settleLog { m with
    log := m.log ++ [{ id := id, who := who, die := d, clock := m.clocks.getD d [], cells := cells, applied := [d], eng := eng }]
    clocks := tickClock m.clocks d d }

/-- R361, R366: a write of a narrow scope reaches the observers of that scope, last in coherence order. -/
def enterNear (m : Memory) (id who d scope near : Nat) (cells : List Host.Cell) : Memory :=
  { m with log := m.log ++ [{ id := id, who := who, die := d, clock := [], cells := cells, applied := [], scope := scope, near := near }] }

/-- R343, R366: the parts of a write of scope `.die` enter the view of its die together; other dies apply them one by one. -/
def enterParts (m : Memory) (id who d : Nat) (ps : List (List Host.Cell)) : Memory :=
  { m with
    log := m.log ++ ps.map fun cells =>
      { id := id, who := who, die := d, clock := m.clocks.getD d [], cells := cells, applied := [d] }
    clocks := ps.foldl (fun c _ => tickClock c d d) m.clocks }

/-- Whether two writes touch a common byte. -/
def cellsMeet (xs ys : List Host.Cell) : Bool := xs.any fun c => (tget ys c.1).isSome

/-- R362, R365: whether die `d` holds every write of the log that touches these bytes. -/
def upToDate (m : Memory) (d : Nat) (cells : List Host.Cell) : Bool :=
  m.log.all fun w => w.applied.contains d || !cellsMeet cells w.cells

/-- R365: whether one clock counts no more than another. -/
def clockLe (c e : List Nat) : Bool := (List.range 4).all fun k => decide (c.getD k 0 ≤ e.getD k 0)

/-- R365: the later of two clocks, counter by counter. -/
def clockJoin (c e : List Nat) : List Nat := (List.range 4).map fun k => max (c.getD k 0) (e.getD k 0)

/-- R365, R366: whether die `d` may apply write `id`: it holds all that the write's clock counts and every
coherence-earlier write to the same bytes. A write of a narrow scope enters the view of its own die first. -/
def mayApply (m : Memory) (d id : Nat) : Bool :=
  match m.log.find? (fun w => w.id == id && !w.applied.contains d) with
  | none => false
  | some w =>
    (w.applied != [] || d == w.die) && clockLe w.clock (m.clocks.getD d [])
      && (m.log.takeWhile fun v => !(v.id == id && !v.applied.contains d)).all
          fun v => v.applied.contains d || !cellsMeet v.cells w.cells

/-- The first write of this name that die `d` has not applied, marked as applied. One that enters its die's view takes the clock
`clk` of that view. -/
def markApplied (d id : Nat) (clk : List Nat) : List CWrite → List CWrite
  | [] => []
  | w :: ws =>
    if w.id = id ∧ !w.applied.contains d then
      { w with applied := w.applied ++ [d], clock := if w.applied = [] then clk else w.clock } :: ws
    else w :: markApplied d id clk ws

/-- R365: die `d` applies write `id`. -/
def applyWrite (m : Memory) (d id : Nat) : Memory :=
  let w := ((m.log.find? fun w => w.id == id && !w.applied.contains d).map CWrite.die).getD d
  settleLog { m with log := markApplied d id (m.clocks.getD d []) m.log, clocks := tickClock m.clocks d w }

/-- Every die applies every write: one of the outcomes R365 allows. The model uses it before a write of the front
end, the host or a firmware ring (log 9). -/
def flushLog (m : Memory) : Memory :=
  let missing (d : Nat) : List CWrite := m.log.filter fun w => !w.applied.contains d
  { m with
    base := m.log.foldl (fun b w => putCells b w.cells) m.base
    log := []
    clocks := (List.range 4).map fun d =>
      (missing d).foldl (fun c w => c.modify w.die (· + 1)) (m.clocks.getD d []) }

/-- A write that enters every view at once (front end, host, firmware rings). -/
def physWrite (s : State) (pa : Nat) (bs : List Byte) : State :=
  let m := flushLog s.mem
  { s with mem := { m with base := wrCells m.base pa bs, poison := clearPoison m.poison pa bs.length } }

/-- A read by the front end or the host: the coherence-latest bytes. -/
def physRead (s : State) (pa n : Nat) : List Byte := homeBytes s.mem pa n

/-- A little-endian value of physical memory. -/
def physNat (s : State) (pa n : Nat) : Nat := ofBytes (physRead s pa n)

/-! ### The error log (R421, R491) -/

/-- R421: append an entry, or count it as dropped. -/
def logErr (s : State) (type unit loc addr detail : Nat) : State :=
  let l := s.front.l
  if l.errHead + 1 = l.errTail then
    { s with front := { s.front with l := { l with
        errOvf := true
        errDrop := if l.errDrop = 0xFFFF then l.errDrop else l.errDrop + 1 } } }
  else
    let e := toBytes 2 type ++ toBytes 2 unit ++ toBytes 4 loc ++ toBytes 8 (sref s) ++ toBytes 8 addr
      ++ toBytes 4 (l.errSeq.toNat + 1) ++ toBytes 4 detail
    let s1 := physWrite s (l.errBase.toNat + 32 * l.errHead.toNat) e
    let s2 := { s1 with front := { s1.front with l := { l with errHead := l.errHead + 1, errSeq := l.errSeq + 1 } } }
    if l.errHead = l.errTail then raiseMsix s2 0 else s2

/-- R124, R419: lines leave a core's instruction cache; a poisoned one that was never executed is logged as LATENT. -/
def dropLines (s : State) (c : Nat) (p : ILine → Bool) : State :=
  let old := (coreOf s c).icache.filter fun l => p l && l.poison && !l.ran
  applyAll (modCore s c fun k => { k with icache := k.icache.filter fun l => !p l }) old fun s l =>
    logErr s 3 4 (location s c) (128 * l.line) 0

/-! ### Registers of a group (R157 to R168) -/

/-- R163: a register of a lane. A dead line reads 0. -/
def rdReg (g : Group) (r lane : Nat) : Nat :=
  match tget g.lines r with
  | none => 0
  | some l => (l.vals.getD lane 0).toNat

/-- The lanes of a group that have not exited (R160). -/
def liveLanes (g : Group) : List Nat :=
  (List.range 32).filter fun k => match g.slices[k / 4]? with
    | none => false
    | some x => x.live.getLsbD (k % 4)

/-- R168: the form that a full write gives a line. -/
def formOf (live : List Nat) (vals : List Word) : Form :=
  let vs := live.map fun k => (vals.getD k 0).toNat
  if vs.all (· == vs.headD 0) then .u
  else if vs.all (· < 65536) then .z16
  else if vs.all (fun v => v < 32768 || v ≥ 0xFFFF8000) then .s16
  else .f

/-- The value that the last of these writes gives register `r` of `lane`. -/
def lastWrite (ws : List (Nat × Nat × Nat)) (r lane : Nat) : Option Nat :=
  match ws with
  | [] => none
  | (r', k, v) :: rest =>
    match lastWrite rest r lane with
    | some u => some u
    | none => if r' = r ∧ k = lane then some v else none

/-- R163, R168: a line after writes to it; `t` is the time of the touch. -/
def writtenLine (g : Group) (ws : List (Nat × Nat × Nat)) (r t : Nat) : Line :=
  let vals := (List.range 32).map fun k => BitVec.ofNat 32 ((lastWrite ws r k).getD (rdReg g r k))
  let live := liveLanes g
  let full := live.all fun k => (lastWrite ws r k).isSome
  let old := tget g.lines r
  { vals := vals
    form := if full then formOf live vals else .f
    poison := if full then false else (old.map Line.poison).getD false
    used := t }

/-- R168: whether the writes expand the line: a partial write to a resident line that is not in form F. -/
def expands (g : Group) (ws : List (Nat × Nat × Nat)) (r : Nat) : Bool :=
  match tget g.lines r with
  | none => false
  | some l => l.form != .f && !(liveLanes g).all fun k => (lastWrite ws r k).isSome

/-- The registers that writes name, each once. -/
def writtenRegs (ws : List (Nat × Nat × Nat)) : List Nat := (ws.map (·.1)).eraseDups

/-- R163, R168: a group after writes to its registers. -/
def writeRegs (g : Group) (ws : List (Nat × Nat × Nat)) (t : Nat) : Group :=
  { g with lines := (writtenRegs ws).foldl (fun ls r => tset ls r (writtenLine g ws r t)) g.lines }

/-- R131: the registers a long instruction writes. -/
def LongX.regs (x : LongX) : List Nat := span x.reg x.nregs

/-- R166: a result whose destination has been killed is never written. -/
def dropResult (g : Group) (r : Nat) : Group :=
  { g with longs := g.longs.map fun x => if !x.done && x.regs.contains r then { x with dead := r :: x.dead } else x }

/-- R166, R167: a kill. The row of a held line keeps its value for the holder (R170). -/
def killReg (g : Group) (r : Nat) : Group :=
  match tget g.lines r with
  | none => dropResult g r
  | some l =>
    { dropResult g r with
      lines := tdel g.lines r
      busy := tdel g.busy r
      holds := g.holds.map fun h => if h.1 = r ∧ h.2.2 = [] then (h.1, h.2.1, l.vals) else h }

/-- R166: kill every register of a list. -/
def killRegs (g : Group) (rs : List Nat) : Group := rs.foldl killReg g

/-- R166: a blocked pop whose destination some registers of group `gi` are no longer: they have been killed. -/
def deadWaiter (gi : Nat) (rs : List Nat) (w : Waiter) : Waiter :=
  if w.party = gi then { w with dead := w.dead ++ rs.filter fun r => r == w.dst || r == w.dst + 1 } else w

/-- R166: kills of registers of a group reach the blocked pops that would write them. -/
def killWaiters (k : Block) (gi : Nat) (rs : List Nat) : Block :=
  { k with x := { k.x with queues := k.x.queues.map fun q => { q with poppers := q.poppers.map (deadWaiter gi rs) } } }

/-- R171: the lines of a group, read at time `t`. -/
def touchLines (g : Group) (rs : List Nat) (t : Nat) : Group :=
  { g with lines := g.lines.map fun l => if rs.contains l.1 then (l.1, { l.2 with used := t }) else l }

/-- R158: whether a group may name a register. -/
def nameable (g : Group) (r : Nat) : Bool := r < g.base + g.quota

/-! ### Who issues (R8, R16, R42, R283) -/

/-- The party number of the matrix sequencer (R304) and of the copy sequencer. -/
def mseqParty : Nat := 32
/-- R304. -/
def cseqParty : Nat := 33

/-- Everything an instruction's meaning reads: its block, the issuing group or sequencer, the lanes of the issuing
sub-gang that have not left the active mask, and active(G) of R8. -/
structure Ctx where
  s : State
  bid : Nat
  b : Block
  l : LaunchRec
  party : Nat
  g : Group
  sq : Option Seq
  sl : List Nat
  all : List Nat
  lanes : List Nat
  pc : DWord
  instr : Instr

/-- R281, R283: a register of a lane, or of the sequencer's file. -/
def Ctx.rd (c : Ctx) (r lane : Nat) : Nat :=
  match c.sq with
  | none => rdReg c.g r lane
  | some q => (q.regs.getD r 0).toNat

/-- R4, R50: an even and odd pair. -/
def Ctx.rd2 (c : Ctx) (r lane : Nat) : Nat := c.rd r lane + 2 ^ 32 * c.rd (r + 1) lane

/-- A register, or a pair for a 64-bit type. -/
def Ctx.rdTy (c : Ctx) (ty : Ty) (r lane : Nat) : Nat := if ty64 ty then c.rd2 r lane else c.rd r lane

/-- R137: the lanes in a slice's active mask. -/
def actLanes (g : Group) (k : Nat) : List Nat :=
  match g.slices[k]? with
  | none => []
  | some x => (List.range 4).filterMap fun j => if x.act.getLsbD j then some (4 * k + j) else none

/-- R42: whether a guard passes. -/
def guardPass (bit0 neg : Bool) : Bool := bit0 != neg

/-- R8: whether a lane takes part. -/
def passes (rd : Nat → Nat → Nat) (gd : Option Guard) (lane : Nat) : Bool :=
  match gd with
  | none => true
  | some x => guardPass (bit (rd x.reg.toNat lane) 0) x.neg

/-- R19, R20: a group of a block, by its logical number, 0 to 31. -/
def groupAt (k : Block) (g : Nat) : Option Group := if g < 32 then tget k.groups g else none

/-- The context in which the party in `State.focus` issues an instruction. -/
def ctxOf (s : State) (i : Instr) : Option Ctx :=
  match s.focus with
  | none => none
  | some (.group b g m) =>
    match tget s.blocks b with
    | none => none
    | some k =>
      match groupAt k g with
      | none => none
      | some gr =>
        let sl := setBits 8 m.toNat
        match sl with
        | [] => none
        | h :: _ =>
          match gr.slices[h]? with
          | none => none
          | some x =>
            let all := (sl.map (actLanes gr)).flatten
            some {
              s := s, bid := b, b := k, l := recOf s k, party := g, g := gr, sq := none, sl := sl, all := all
              lanes := all.filter (passes (rdReg gr) (guardOf i)), pc := x.pc, instr := i }
  | some (.mseq b) =>
    match tget s.blocks b with
    | none => none
    | some k => some {
        s := s, bid := b, b := k, l := recOf s k, party := mseqParty, g := {}, sq := some k.mseq, sl := []
        all := [0], lanes := [0], pc := k.mseq.pc, instr := i }
  | some (.cseq b) =>
    match tget s.blocks b with
    | none => none
    | some k => some {
        s := s, bid := b, b := k, l := recOf s k, party := cseqParty, g := {}, sq := some k.cseq, sl := []
        all := [0], lanes := [0], pc := k.cseq.pc, instr := i }

end Sys2Proof.Machine
end

