-- ==== Sys2Proof/Machine/Operands.lean ====
section
/-!
DEFINITION. The operand forms (R50 to R52, R57) as values of a context: registers, pairs, modified sources,
immediates, literals and addresses.
-/
namespace Sys2Proof.Machine

/-- R50 to R52: operand A of an extended instruction: a pair, or a word after half select and swizzle. -/
def Ctx.opA (c : Ctx) (o : ExtOps) (lane : Nat) : Nat :=
  if ty64 o.ty then c.rd2 o.a.r.toNat lane else modify o.a (tyWidth o.ty) (c.rd o.a.r.toNat lane)

/-- R57: IMM14 as operand B: sign-extended for a signed type, to the width of the type. -/
def immOpnd (o : ExtOps) : Nat :=
  if tySigned o.ty then wrap (tyWidth o.ty) (immS o) else immU o

/-- R50 to R52, R57: operand B: an immediate, the literal, a pair, or a word after its modifiers. -/
def Ctx.opB (c : Ctx) (o : ExtOps) (lane : Nat) : Nat :=
  match o.lit with
  | some v => if ty64 o.ty then v.toNat else v.toNat % 2 ^ 32
  | none =>
    if (match opSpec c.instr with
        | some sp => immB sp o
        | none => false) then immOpnd o
    else if ty64 o.ty then c.rd2 o.b.r.toNat lane
    else modify o.b (tyWidth o.ty) (c.rd o.b.r.toNat lane)

/-- Operand B where the entry makes it a register, or a literal (b+): no immediate form. -/
def Ctx.opBReg (c : Ctx) (o : ExtOps) (lane : Nat) : Nat :=
  match o.lit with
  | some v => if ty64 o.ty then v.toNat else v.toNat % 2 ^ 32
  | none =>
    if ty64 o.ty then c.rd2 o.b.r.toNat lane else modify o.b (tyWidth o.ty) (c.rd o.b.r.toNat lane)

/-- R50 to R52: operand C. -/
def Ctx.opC (c : Ctx) (o : ExtOps) (lane : Nat) : Nat :=
  if ty64 o.ty then c.rd2 o.c.r.toNat lane else modify o.c (tyWidth o.ty) (c.rd o.c.r.toNat lane)

/-- R320: the offset of a global address: IMM14 sign-extended, or the literal. -/
def offsetOf (o : ExtOps) : Int :=
  match o.lit with
  | some v => (v.toNat : Int)
  | none => immS o

/-- R320: the global address of a lane. -/
def Ctx.globalEa (c : Ctx) (o : ExtOps) (lane : Nat) : Nat :=
  wrap 64 ((c.rd2 o.a.r.toNat lane : Int) + offsetOf o)

/-- R391: the global address of an atomic, whose offset is IMM14[9:0]. -/
def Ctx.atomEa (c : Ctx) (o : ExtOps) (lane : Nat) : Nat :=
  (c.rd2 o.a.r.toNat lane + bits (immU o) 0 10) % 2 ^ 64

/-- R249: the scratchpad address of a lane. -/
def Ctx.scratchEa (c : Ctx) (o : ExtOps) (lane : Nat) : Nat :=
  wrap 32 ((c.rd o.a.r.toNat lane : Int) + immS o)

/-- R277: the scratchpad address of an atomic. -/
def Ctx.atomsEa (c : Ctx) (o : ExtOps) (lane : Nat) : Nat :=
  (c.rd o.a.r.toNat lane + bits (immU o) 0 10) % 2 ^ 32

/-- R47, R102: the rounding mode of an instruction, as an RM code 0 to 4. -/
def Ctx.mode (c : Ctx) (rm : Rm) : Nat :=
  match rm with
  | .rdyn => match c.sq with
    | none => c.g.drm.toNat
    | some q => q.drm.toNat
  | m => rmCode m

/-- R83: a function of elements applied to each element of a word. -/
def map1 (w : Nat) (f : Nat → Nat) (x : Nat) : Nat :=
  if w ≥ 32 then f x else ofElems w ((elems w (32 / w) x).map f)

/-- R83: a function of two elements applied element by element. -/
def map2 (w : Nat) (f : Nat → Nat → Nat) (x y : Nat) : Nat :=
  if w ≥ 32 then f x y
  else ofElems w ((List.range (32 / w)).map fun i => f (bits x (w * i) w) (bits y (w * i) w))

/-- R83: a function of three elements applied element by element. -/
def map3 (w : Nat) (f : Nat → Nat → Nat → Nat) (x y z : Nat) : Nat :=
  if w ≥ 32 then f x y z
  else ofElems w ((List.range (32 / w)).map fun i =>
    f (bits x (w * i) w) (bits y (w * i) w) (bits z (w * i) w))

/-- The writes of a 32-bit result, or of a pair for a 64-bit type, in every active lane. -/
def Ctx.put (c : Ctx) (wide : Bool) (d : Nat) (v : Nat → Nat) : List (Nat × Nat × Nat) :=
  if wide then
    (c.lanes.map fun k => (d, k, v k % 2 ^ 32)) ++ c.lanes.map fun k => (d + 1, k, v k / 2 ^ 32 % 2 ^ 32)
  else c.lanes.map fun k => (d, k, v k % 2 ^ 32)

/-- Whether a value is the same in every active lane (NUNI). -/
def uniform (xs : List Nat) : Bool :=
  match xs with
  | [] => true
  | x :: r => r.all (· == x)

/-- The logical lane index of R20. -/
def logicalLane (party lane : Nat) : Nat := 256 * (party / 8) + 32 * (party % 8) + lane

end Sys2Proof.Machine
end

