-- ==== Sys2Proof/Machine/Issue.lean ====
section
/-!
DEFINITION. The frame of every instruction's meaning: what holds it back (R125, R130 to R133, R164, R170), the
causes every instruction can raise (R62, R131, R158, R281 to R283), raising a cause (R396, R404) and what issuing
changes besides the instruction's own effect (R53, R115, R130, R137, R168, R431).
-/
namespace Sys2Proof.Machine

/-- R403: the priority of a cause, 1 the highest. -/
def causeRank : Cause → Nat
  | .fetch => 1 | .ill => 2 | .lkv => 3 | .dstk => 4 | .regx => 5 | .nuni => 6 | .tlim => 7 | .misa => 8
  | .tspan => 9 | .perm => 10 | .xlat => 11 | .own => 12 | .ecc => 13 | .barm => 14 | .bovf => 15 | .qerr => 16
  | .sysc => 17

/-- R403: the code of a cause. -/
def causeCode : Cause → Nat
  | .fetch => 0x0D | .ill => 0x01 | .lkv => 0x02 | .dstk => 0x15 | .regx => 0x03 | .nuni => 0x04 | .tlim => 0x13
  | .misa => 0x05 | .tspan => 0x09 | .perm => 0x06 | .xlat => 0x07 | .own => 0x08 | .ecc => 0x0E | .barm => 0x0A
  | .bovf => 0x0B | .qerr => 0x0C | .sysc => 0x0F

/-- A condition that a lane meets: lane, cause and address. -/
abbrev LaneCause := Nat × Cause × Nat

/-- The effect of an instruction that raises no cause: writes of registers (register, lane, word), flags, the long
instruction it opens, how it moves its slices, where a sequencer goes on, and its effect on the rest of the
machine. `extra` lengthens the latency. -/
structure Effect where
  writes : List (Nat × Nat × Nat) := []
  flags : Nat := 0
  long : Option LongX := none
  slice : Option (Nat → Slice → Slice) := none
  seqPc : Option DWord := none
  kills : List Nat := []
  noSkid : Bool := false
  post : State → State := id

/-- What an instruction comes to: causes, a wait that leaves everything as it is, or its effect. -/
inductive Res where
  | causes (cs : List LaneCause) (post : State → State := id)
  | wait
  | ok (e : Effect)

/-- The instruction words of the frame (R400). -/
def wordsOf (i : Instr) : List Word :=
  match encode i with
  | none => []
  | some w => (List.range (lenWords i)).map fun k => BitVec.ofNat 32 (bits w (32 * k) 32)

/-- An effect that only writes registers. -/
def writesOnly (ws : List (Nat × Nat × Nat)) : Res := .ok { writes := ws }

/-- Whether an instruction's result is a pair. -/
def wideTy (o : ExtOps) : Bool := ty64 o.ty

/-- R46: the bytes of an instruction in memory. -/
def lenBytes (i : Instr) : Nat := 4 * lenWords i

/-- R404: the highest cause that a lane meets. -/
def worstOf (cs : List LaneCause) (lane : Nat) : Option (Cause × Nat) :=
  cs.foldl (fun best x =>
    if x.1 = lane then
      match best with
      | none => some (x.2.1, x.2.2)
      | some (b, a) => if causeRank x.2.1 < causeRank b then some (x.2.1, x.2.2) else some (b, a)
    else best) none

/-- R404: the highest cause of a list, with its address in the lowest lane that raises it. -/
def topCause (ws : List (Nat × Cause × Nat)) : Option (Cause × Nat) :=
  ws.foldl (fun best x =>
    match best with
    | none => some (x.2.1, x.2.2)
    | some (b, a) => if causeRank x.2.1 < causeRank b then some (x.2.1, x.2.2) else some (b, a)) none

/-- The mask of the lanes of a list of causes. -/
def laneMask (ws : List (Nat × Cause × Nat)) : Nat := maskOf (ws.map (·.1)).eraseDups

/-- R241: an `fprog` uses as many operand fields as its slot has operands. -/
def slotSpec (arity : Nat) (sp : OpSpec) : OpSpec :=
  { sp with b := if arity < 2 then .none else sp.b, c := if arity < 3 then .none else sp.c }

/-- R131, R158, R241: the registers that the instruction of a context names. -/
def Ctx.use (c : Ctx) : RegUse :=
  match c.instr with
  | .fprog o =>
    match tget c.s.front.slots (bits (immU o) 0 6), opSpec c.instr with
    | some f, some sp => extRegs c.instr (slotSpec f.arity sp) o
    | _, _ => regUse c.instr
  | i => regUse i

/-- R418: whether a line is poisoned. -/
def poisonedReg (g : Group) (r : Nat) : Bool := ((tget g.lines r).map Line.poison).getD false

/-- R391, R392: the instructions whose target the synchronisation engine reads. -/
def syncReads (i : Instr) : Bool :=
  match i with
  | .atomOp _ | .atomXchg _ | .atomCas _ | .redInt _ | .redFloat _ | .redget _ => true
  | _ => false

/-- R400, R404: the record of the causes that an instruction's lanes meet. -/
def causeRec (c : Ctx) (cs : List LaneCause) (second : Bool) : CauseRec :=
  let ws := (List.range 32).filterMap fun k => (worstOf cs k).map fun x => (k, x.1, x.2)
  let top := (topCause ws).getD (.ill, 0)
  let prim := ws.filter fun x => x.2.1 == top.1
  let low := ws.filter fun x => x.2.1 != top.1
  let seq := c.sq.isSome
  let sysc := top.1 == .sysc
  { code := causeCode top.1
    second := second
    seq := seq
    addr := top.2
    pc := if sysc then c.pc + 4 else c.pc
    words := wordsOf c.instr
    len := lenBytes c.instr
    lower := if seq then 0 else ((topCause low).map fun x => causeCode x.1).getD 0
    pmask := if seq then 0 else laneMask prim
    lmask := if seq then 0 else laneMask low
    scyc := (coreOf c.s c.b.core).scyc % 2 ^ 32
    sreft := sref c.s
    stream := if seq then c.party - 32 else 0xFF
    engine := if top.1 == .ecc && syncReads c.instr && !c.use.reads.any (poisonedReg c.g) then 4 else 0
    svc := match sysc, c.instr with
      | true, .trap n => n.toNat
      | _, _ => 0
    slices := BitVec.ofNat 8 (maskOf c.sl) }

/-- R405: whether a block halts for an asynchronous cause that came in the present cycle: a synchronous cause of the same cycle is
taken before it. -/
def asyncNow (s : State) (k : Block) : Bool :=
  k.h.halt == .halting && k.h.why != some .cause && k.h.why != some .fetch && k.h.sinceScyc == (coreOf s k.core).scyc

/-- R396, R397, R405: record a cause for its group or sequencer; the block halts unless it is halting already. A group that has a
cause stops at a second one. A block of an ended launch has nothing to halt. -/
def recordCause (s : State) (b party : Nat) (r : CauseRec) : State :=
  match tget s.blocks b with
  | none => s
  | some k =>
    let running := k.h.halt != .halting || asyncNow s k
    if k.ended then s else
    let s1 := modBlock s b fun k =>
      if party = mseqParty then { k with mseq := { k.mseq with cause := some r } }
      else if party = cseqParty then { k with cseq := { k.cseq with cause := some r } }
      else { k with groups := tmod k.groups party fun g =>
        if g.cause.isSome then { g with twice := true } else { g with cause := some { r with second := r.second || !running } } }
    if running then dueEvents s1 [.blockHalt b] else s1

/-- R418, R421: log a consumption of poisoned data. The bit position is not given (log 7). -/
def logUe (s : State) (unit loc addr : Nat) : State :=
  logErr { s with tick := s.tick + 1 } 2 unit loc addr (Config.pick s.tick % 2 ^ 32)

/-- R421: the unit of the data that a cause ECC names: a register, the scratchpad, the weight store or global memory. -/
def eccUnit (c : Ctx) : Nat :=
  if c.use.reads.any (poisonedReg c.g) then 1
  else match c.instr with
    | .ldw _ => 7
    | .stt _ => 2
    | i => match opInfo i with
      | some f => if f.space = .ext ∧ (f.op = 0x0B ∨ f.op = 0x0C) then 2 else 3
      | none => 3

/-- R400, R418: record a cause; consumption of poison is logged first, and the frame carries its number. -/
def recordLogged (s : State) (b party unit loc : Nat) (r : CauseRec) : State :=
  if r.code = causeCode .ecc then
    let s1 := logUe s unit loc r.addr
    recordCause s1 b party { r with errSeq := s1.front.l.errSeq.toNat }
  else recordCause s b party r

/-- R61: the lanes of ILL: the slice mask of the issuing sub-gang, expanded to lanes. -/
def Ctx.sliceLanes (c : Ctx) : List Nat :=
  if c.sq.isSome then [0] else (c.sl.map fun k => span (4 * k) 4).flatten

/-- A cause for all these lanes, with one address. -/
def causeAll (x : Cause) (lanes : List Nat) (addr : Nat := 0) : List LaneCause := lanes.map fun k => (k, x, addr)

/-- R53, R131, R158: the registers an instruction names: read, written or killed. -/
def Ctx.named (c : Ctx) : List Nat := c.use.reads ++ c.use.writes ++ c.use.kills

/-- R100: `mfs` and `mts` of SFLAGS, which never raise LKV. -/
def readsFlags (i : Instr) : Bool :=
  match i with
  | .mfs o | .mts o => immU o == 0x020
  | _ => false

/-- R131: the slices whose windows an instruction violates. -/
def lkvSlices (c : Ctx) : List Nat :=
  let rs := if readsFlags c.instr then [] else c.named
  c.sl.filter fun k => c.g.longs.any fun x => decide (0 < x.rem.getD k 0) && x.regs.any rs.contains

/-- R281: a register field of a sequencer stream: it names v0 to v63, without modifiers. -/
def seqSrcOk (u : Use) (s : Src) : Bool :=
  match u with
  | .feeder => true
  | _ => s.r.toNat < 64 && !s.last && !s.h && s.w == 0

/-- R281: the register fields of an instruction of a sequencer stream. The feeder fields of the register forms of
`mma` name registers of a group, C with them. -/
def seqFieldsOk (i : Instr) : Bool :=
  match i with
  | .mmaReg _ | .mmazReg _ => true
  | i =>
    match i.base?, i.ext?, opSpec i with
    | some o, _, _ => o.d.toNat < 64 && o.a.toNat < 64 && !o.la
    | _, some o, some sp =>
      (match sp.d with
        | .acc | .scopeD | .none => true
        | _ => o.d.toNat < 64)
        && (immB sp o || (seqSrcOk sp.a o.a && seqSrcOk sp.b o.b))
        && seqSrcOk sp.a o.a
        && (if sp.scopes.isEmpty then seqSrcOk sp.c o.c else true)
        && (match i with
            | .cpy _ => bits (immU o) 0 8 + 4 < 64
            | .mdrain _ => bits (immU o) 0 6 + 1 < 64
            | _ => true)
    | _, _, _ =>
      match i with
      | .moviBase _ d _ | .moviBaseLiteral _ d _ | .moviI64 _ d _ => d.toNat < 64
      | _ => true

/-- R282: the scalar set. -/
def seqScalar (i : Instr) : Bool :=
  match i with
  | .nop _ | .movBase _ | .moviBase .. | .moviBaseLiteral .. | .moviI64 .. | .addBase _ | .subBase _ | .mulBase _
  | .andBase _ | .orBase _ | .xorBase _ | .andnBase _ | .shlBase _ | .shrBase _ | .sarBase _ | .bra .. | .braLiteral ..
  | .sleep _ | .join _ => true
  | .mov o | .movi o | .add o | .sub o | .and o | .or o | .xor o | .andn o | .shl o | .shr o | .sar o | .cmp o =>
    tysI.contains o.ty
  | .mul o => tysI32.contains o.ty
  | .mfs o => [4, 5, 6, 7, 0x14].contains (immU o)
  | _ => false

/-- R282: the instructions of the copy stream beside the scalar set and the matrix barriers. -/
def seqCopy (i : Instr) : Bool :=
  match i with
  | .cpy _ | .publish _ | .qinit _ | .qallow _ | .qpush _ | .qpop _ | .qtry _ | .bar _ | .barv _ | .barw _ => true
  | _ => false

/-- R282: matrix barriers, which both streams accept. -/
def isMbar (i : Instr) : Bool :=
  match i with
  | .mbarv _ | .mbarw _ => true
  | _ => false

/-- R283: GE = 1 is permitted only on `bra`. -/
def seqGuardOk (i : Instr) : Bool :=
  match i with
  | .bra .. | .braLiteral .. => true
  | i => (guardOf i).isNone

/-- R62, R282, R283: whether the party's stream accepts the instruction. -/
def streamOk (c : Ctx) : Bool :=
  let i := c.instr
  if c.party = mseqParty then (seqScalar i || matrixOnly i || isMbar i) && seqFieldsOk i && seqGuardOk i
  else if c.party = cseqParty then (seqScalar i || seqCopy i || isMbar i) && seqFieldsOk i && seqGuardOk i
  else !matrixOnly i

/-- R61, R62, R131, R158, R418: the causes that do not depend on operand values. ILL stands alone. DEDUCED (log 126): the lanes of
the slices that LKV names are their active lanes. -/
def genericCauses (c : Ctx) : List LaneCause :=
  if !streamOk c || !c.instr.wellFormed || c.g.badCtl then causeAll .ill c.sliceLanes
  else if c.sq.isSome then []
  else
    ((lkvSlices c).map fun k => causeAll .lkv (actLanes c.g k)).flatten
      ++ (if c.named.all (nameable c.g) then [] else causeAll .regx c.all)
      ++ (if c.use.reads.any (poisonedReg c.g) then causeAll .ecc c.lanes else [])

/-- R54, R130: whether the opcode map marks the instruction lk. -/
def isLong (i : Instr) : Bool :=
  match opSpec i with
  | some sp => sp.lk
  | none => false

/-- R125 items 3 and 5, R130, R284, R303: whether the party waits for nothing and no window of its slices holds it back,
whatever its next instruction is. -/
def gangFree (c : Ctx) : Bool :=
  match c.sq with
  | some q => q.wait == .none && (c.party != mseqParty || c.b.x.mops.all fun m => m.stalled.isNone)
  | none =>
    (c.sl.all fun k => match c.g.slices[k]? with
        | some x => x.wait == .none
        | none => false)
      && c.g.longs.all (fun x => x.done || c.sl.all fun k => !x.slices.getLsbD k || decide (0 < x.rem.getD k 0))

/-- R131, R133: the registers of the open windows of the issuing slices. Naming one raises LKV, so its pending lanes are not
waited for. -/
def windowRegs (c : Ctx) : List Nat :=
  if readsFlags c.instr then []
  else ((c.g.longs.filter fun x => c.sl.any fun k => decide (0 < x.rem.getD k 0)).map LongX.regs).flatten

/-- R125 item 2, R164: whether a register of a group can be read and written now. -/
def regReady (g : Group) (r : Nat) : Bool :=
  tcount g.busy r == 0 && tcount g.pend r == 0
    && (match tget g.lines r with
        | some l => l.resident
        | none => true)

/-- R132: whether the scoreboard of a group takes one more long instruction: fewer than 16 are short of fast completion, and
the oldest of those that last filled it has completed. -/
def boardOpen (g : Group) : Bool :=
  let out := g.longs.filter fun x => !x.done
  decide (out.length < 16) && out.all fun x => x.id != g.full

/-- R127: whether only a co-issued instruction of the same cycle stands before an instruction's use of a register. -/
def coIssued (c : Ctx) (r : Nat) : Bool :=
  tcount c.g.pend r == 0 && c.g.just.any fun j => j.1 == r && c.sl.all fun k => !j.2.getLsbD k

/-- R125 items 2, 3 and 5, R127, R130, R132, R133, R164, R170, R284, R303: whether data and windows let the instruction issue. A write to
a register whose line was killed while it is held waits for the release too (DESIGN CHOICE, log 106). -/
def dataReady (c : Ctx) : Bool :=
  gangFree c
    && match c.sq with
      | some q => c.named.all fun r => !q.busy.contains r
      | none =>
        c.named.all (fun r => (windowRegs c).contains r || regReady c.g r || coIssued c r)
          && c.use.writes.all (fun r => !c.g.holds.any fun h => h.1 == r)
          && (!isLong c.instr || boardOpen c.g)

/-- The physical team of a group. -/
def teamOf (b : Block) (party : Nat) : Nat := b.teams.getD (party / 8) 0

/-- R130, R396: a slice after it has issued an instruction of `n` bytes. -/
def advance (n : Nat) (skid : Bool) (x : Slice) : Slice :=
  { x with pc := x.pc + BitVec.ofNat 64 n, waited := 0, skid := if skid then x.skid + 1 else x.skid }

/-- R16, R142: slices of `sl` at different addresses part; each part is named by its lowest slice. -/
def regroup (sl : List Nat) (xs : List Slice) : List Slice :=
  xs.mapIdx fun k x =>
    if sl.contains k then
      { x with gang := (sl.find? fun j => match xs[j]? with
          | some y => y.pc == x.pc
          | none => false).getD k }
    else x

/-- R130: the windows after the slices `sl` have issued one instruction. -/
def stepWindows (sl : List Nat) (xs : List LongX) : List LongX :=
  (xs.map fun x => { x with rem := x.rem.mapIdx fun k n => if sl.contains k then n - 1 else n }).filter fun x =>
    !x.done || x.rem.any (decide <| 0 < ·)

/-- R431: charge an issue to a cluster's draw record. -/
def charge (s : State) (cl amount : Nat) : State :=
  modCluster s cl fun k => { k with draws := match k.draws with
    | [] => [amount]
    | d :: ds => (d + amount) :: ds }

/-- R443: a team's last eight issues. -/
def issueHist (t : Team) (f : OpInfo) : List (Nat × Nat) :=
  ((match f.pace with | .p0 => 0 | .p1 => 1 | .p2 => 2 | .p3 => 3), f.weight) :: t.hist.take 7

/-- R115, R126, R213, R443: the team and core after an issue of an instruction with these figures. A match stretches the 16 cycles
after the present one. -/
def noteIssue (s : State) (core team : Nat) (f : OpInfo) (op : Nat) : State :=
  modCore s core fun k =>
    { k with
      resident := if f.residence = 0 then k.resident else k.resident ++ [(team, f.pace, f.residence)]
      match_ := k.match_
        || ((k.teams[team]?).map fun t => t.sigs.any fun g => g.1 == (Config.signature (issueHist t f)).toNat).getD false
      teams := vmod k.teams team fun t =>
        { t with
          prev := f.pace
          iv := if f.interval ≤ 1 then t.iv else t.iv ++ [(op, f.sub, f.interval)]
          gap := if op = 8 ∨ op = 9 ∨ (op = 10 ∧ f.sub = 2) then 4 else t.gap
          hist := issueHist t f
          sigs := t.sigs.map fun g => if g.1 = (Config.signature (issueHist t f)).toNat then (g.1, sref s) else g } }

/-- R115: the key of an opcode for issue intervals: base opcodes stand above the extended ones. -/
def opKey (f : OpInfo) : Nat := if f.space == .base then 128 + f.op else f.op

/-- R432: the weight of an instruction: 1 for the scalar and barrier instructions of a sequencer. -/
def weightOf (c : Ctx) : Nat :=
  let bar : Bool := match c.instr with
    | .mbarv _ | .mbarw _ | .bar _ | .barv _ | .barw _ => true
    | _ => false
  if c.sq.isSome && (seqScalar c.instr || bar) then 1 else ((opInfo c.instr).map OpInfo.weight).getD 0

/-- R115, R126, R213, R431, R443: what every issue of an instruction leaves behind, whatever comes of it: the charge, the class and
the intervals of its team. -/
def drawn (c : Ctx) (s : State) : State :=
  let s1 := charge s (clusterOfCore c.b.core) (if c.sq.isSome then weightOf c else weightOf c * c.lanes.length)
  match opInfo c.instr, c.sq with
  | some f, none => noteIssue s1 c.b.core (teamOf c.b c.party) f (opKey f)
  | _, _ => s1

/-- R160: a control area with a reserved field set raises ILL once, at the first issue of its group. -/
def firstIssue (c : Ctx) : State :=
  if c.g.badCtl then modGroup c.s c.bid c.party fun g => { g with badCtl := false } else c.s

/-- R8, R404: an instruction that raises causes writes nothing but its charge; the block halts. -/
def raise (c : Ctx) (cs : List LaneCause) : State :=
  let r := causeRec c cs (c.b.h.halt == .halting && !asyncNow c.s c.b)
  recordLogged (drawn c (firstIssue c)) c.bid c.party (eccUnit c) (location c.s c.b.core) r

/-- R168, R187: whether the result of a long instruction for some lanes expands a line of its destination: a partial write
to a line that is not in form F. -/
def partialLong (g : Group) (lanes : List Nat) (x : LongX) : Bool :=
  !((liveLanes g).all lanes.contains)
    && x.regs.any fun r => ((tget g.lines r).map fun l => l.form != .f).getD false

/-- The group after an instruction of it has issued. -/
def issuedGroup (c : Ctx) (e : Effect) : Group :=
  let u := c.use
  let t := (coreOf c.s c.b.core).scyc
  let g1 := killRegs (touchLines c.g u.reads t) (u.kills ++ e.kills)
  let ws := e.writes
  let g2 := writeRegs g1 ws t
  let lat := ((opInfo c.instr).map OpInfo.latency).getD 1
  let skid := (c.b.h.halt == .halting || c.b.h.stepping) && !e.noSkid
  let mv : Nat → Slice → Slice := e.slice.getD fun _ x => x
  let xs := c.g.slices.mapIdx fun k x =>
    if c.sl.contains k then mv k (advance (lenBytes c.instr) skid x) else x
  let lg := match e.long with
    | none => []
    | some x =>
      let n := (c.instr.ext?.map fun o => o.lk.toNat).getD 0
      [{ x with
          rem := (List.range 8).map fun k => if c.sl.contains k then n else 0
          slices := BitVec.ofNat 8 (maskOf c.sl)
          left := x.left + b01 (partialLong g1 c.lanes x)
          issued := sref c.s }]
  let grow := (writtenRegs ws).any (expands g1 ws)
  let open_ := (stepWindows c.sl g2.longs ++ lg).filter fun x => !x.done
  { g2 with
    busy := (writtenRegs ws).foldl (fun b r => tset b r (lat + b01 grow)) g2.busy
    just := g2.just ++ (c.use.writes.map fun r => (r, BitVec.ofNat 8 (maskOf c.sl)))
    flags := g2.flags ||| BitVec.ofNat 6 e.flags
    slices := regroup c.sl xs
    longs := stepWindows c.sl g2.longs ++ lg
    full := if lg.isEmpty || decide (open_.length < 16) then g2.full else (open_.head?.map LongX.id).getD 0 }

/-- The machine after an instruction has issued with an effect. -/
def retire (c : Ctx) (e : Effect) : State :=
  let s0 := match c.sq with
    | none => modBlock c.s c.bid fun k =>
        killWaiters { k with groups := tset k.groups c.party (issuedGroup c e) } c.party (c.use.kills ++ e.kills)
    | some q =>
      let q1 := { q with
        regs := e.writes.foldl (fun rs x => rs.setIfInBounds x.1 (BitVec.ofNat 32 x.2.2)) q.regs
        pc := e.seqPc.getD (q.pc + BitVec.ofNat 64 (lenBytes c.instr))
        hold := q.hold || c.b.h.stepping }
      modBlock c.s c.bid fun k =>
        if c.party = mseqParty then { k with mseq := q1 } else { k with cseq := q1 }
  let s2 := drawn c s0
  let nexp := ((writtenRegs e.writes).filter (expands (killRegs c.g c.use.kills) e.writes)).length
  let s3 := if nexp = 0 then s2 else modTeam s2 c.b.core (teamOf c.b c.party) fun t =>
    { t with ctr := { t.ctr with lexp := t.ctr.lexp + nexp } }
  e.post s3

/-- The frame of every instruction: its own body decides on causes and effect from the context. An instruction that is not
ready raises nothing (R125); ILL needs no operand (R61). -/
def issue (i : Instr) (body : Ctx → Res) (s : State) : Out :=
  match ctxOf s i with
  | none => .fault .noIssuer
  | some c =>
    let gen := genericCauses c
    if !gangFree c then .next s
    else if gen.any fun x => x.2.1 == .ill then .next (raise c gen)
    else if !dataReady c then .next s
    else match body c with
      | .causes cs post => .next (post (raise c (gen ++ cs)))
      | .wait => .next s
      | .ok e => if gen.isEmpty then .next (retire c e) else .next (raise c gen)

end Sys2Proof.Machine
end

