-- ==== Sys2Proof/Machine/Translate.lean ====
section
/-!
DEFINITION. The physical map (R322), translation (R450, R457), homes (R324), publish areas (R341) and accesses of the
device itself through virtual addresses (R159, R461).
-/
namespace Sys2Proof.Machine

/-- R322: what a physical address reaches. -/
inductive PhysKind where
  | hbm | lpddr | weight | regs | remote | host | nothing
  deriving DecidableEq, Repr

/-- R322: the physical map. -/
def physKind (pa : Nat) : PhysKind :=
  if pa < 0x8000000000 then .hbm
  else if 0x10000000000 ≤ pa ∧ pa < 0x20000000000 then .lpddr
  else if 0x40000000000 ≤ pa ∧ pa < 0x40080000000 then .weight
  else if 0x80000000000 ≤ pa ∧ pa < 0x80100000000 then .regs
  else if 0x4000000000000 ≤ pa ∧ pa < 0x8000000000000 then .remote
  else if 0x8000000000000 ≤ pa ∧ pa < 0x10000000000000 then .host
  else .nothing

/-- R322: where the weight store of die `d` begins. -/
def weightBase (d : Nat) : Nat := 0x40000000000 + d * 0x20000000

/-- R324: the home cluster of a physical address. -/
def homeCluster (pa : Nat) : Nat :=
  ((List.range 8).map fun k => bits pa (16 + 3 * k) 3).foldl (· ^^^ ·) 0

/-- R324: the die of a home. -/
def homeDie (pa : Nat) : Nat := homeCluster pa / 2

/-- R457: the fields of a leaf: attributes as R359 numbers them, page size in bits, address. -/
structure Leaf where
  pa : Nat
  size : Nat
  r : Bool
  w : Bool
  ctx : Bool
  sysatom : Bool
  nc : Bool
  entry : Nat
  deriving DecidableEq, Repr

/-- R457, R458: what a translation finds. `absent` carries the address of a malformed entry, if it met one; an ATS
leaf whose host translation is not cached gives `ats`. -/
inductive Walk where
  | ok (l : Leaf)
  | absent (bad : Option Nat)
  | ats (iova : Nat)
  deriving DecidableEq, Repr

/-- R457: the leaf that an entry describes. -/
def leafOf (e size pa : Nat) : Leaf :=
  ⟨pa, size, bit e 2, bit e 3, bit e 4, bit e 5, bit e 6, e⟩

/-- R457: whether a reserved bit of a table entry is set. -/
def entryBad (e : Nat) : Bool := bits e 60 3 != 0 || bits e 9 3 != 0 || bit e 1 || (!bit e 63 && bits e 52 8 != 0)

/-- R457: whether 16 entries form one 64 KiB page. -/
def s64Agree (s : State) (first : Nat) : Bool :=
  let e0 := physNat s first 8
  (List.range 16).all fun k => physNat s (first + 8 * k) 8 == e0 + k * 4096

/-- R457: the host address of an ATS leaf, if its translation is cached. -/
def atsFind (s : State) (pasid iova : Nat) : Option Nat :=
  (s.ats.find? fun t => t.pasid == pasid && t.va == iova / 4096 && decide (1 < t.size)).map TlbEntry.pa

/-- R458: whether the host has answered that it has no translation. -/
def atsFailed (s : State) (pasid iova : Nat) : Bool :=
  s.ats.any fun t => t.pasid == pasid && t.va == iova / 4096 && t.size == 0

/-- A leaf at a level: an address of this device, or of the host by ATS. -/
def leafAt (s : State) (pasid e size va : Nat) : Walk :=
  let frame := bits e 12 48 / 2 ^ (size - 12) * 2 ^ (size - 12) * 4096
  let pa := frame + va % 2 ^ size
  if bit e 63 then
    match atsFind s pasid pa with
    | none => if atsFailed s pasid pa then .absent none else .ats pa
    | some h => .ok (leafOf e size (h * 4096 + va % 4096))
  else .ok (leafOf e size pa)

/-- R457: the walk from a table at `level` (1 to 5), with `fuel` levels left. -/
def walkFrom (s : State) (pasid va : Nat) : Nat → Nat → Nat → Walk
  | 0, _, _ => .absent none
  | fuel + 1, level, table =>
    let ix := bits va (57 - 9 * level) 9
    let at_ := table + 8 * ix
    let e := physNat s at_ 8
    if !bit e 0 then .absent none
    else if entryBad e then .absent (some at_)
    else if level = 5 then
      if !bit e 7 then .absent (some at_)
      else if bit e 8 then
        if s64Agree s (table + 8 * (ix / 16 * 16)) then leafAt s pasid e 16 va else .absent (some at_)
      else leafAt s pasid e 12 va
    else if bit e 7 then
      if level = 3 then leafAt s pasid e 30 va
      else if level = 4 then leafAt s pasid e 21 va
      else .absent (some at_)
    else walkFrom s pasid va fuel (level + 1) (bits e 12 40 * 4096)

/-- R450, R457: translation through the tables. -/
def walk (s : State) (pasid va : Nat) : Walk :=
  let f := s.front.r
  if !f.pasidEn || decide (2 ^ 57 ≤ va) then .absent none
  else
    let at_ := f.pasidPa.toNat * 4096 + 8 * pasid
    let e := physNat s at_ 8
    if bits e 52 12 != 0 || bits e 1 11 != 0 then .absent (some at_)
    else if !bit e 0 then .absent none
    else walkFrom s pasid va 5 1 (bits e 12 40 * 4096)

/-- R451: the cached translation of an address. -/
def tlbFind (s : State) (pasid va : Nat) : Option TlbEntry :=
  s.tlb.find? fun t => t.pasid == pasid && t.va == va / 2 ^ t.size * 2 ^ t.size

/-- R450, R451, R457: translation, through the cached translations first; none while EN is 0. -/
def translate (s : State) (pasid va : Nat) : Walk :=
  if !s.front.r.pasidEn then .absent none
  else match tlbFind s pasid va with
  | some t => .ok (leafOf t.leaf t.page (t.pa + va % 2 ^ t.size))
  | none => walk s pasid va

/-- The page of a translation as a cached entry. -/
def tlbOf (pasid va : Nat) (l : Leaf) : TlbEntry :=
  let sz := if bit l.entry 63 then 12 else l.size
  ⟨pasid, va / 2 ^ sz * 2 ^ sz, sz, l.entry, l.pa - va % 2 ^ sz, l.size⟩

/-- R451, R457, R491: the effects of a translation: the entry is cached; a malformed entry is logged. -/
def noteWalk (s : State) (pasid va loc : Nat) : State :=
  match tlbFind s pasid va with
  | some _ => s
  | none => match walk s pasid va with
    | .ok l => { s with tlb := tlbOf pasid va l :: s.tlb }
    | .absent (some a) => logErr s 8 10 loc a 0
    | _ => s

/-- R450, R457, R491: a malformed entry that a translation meets is logged. -/
def noteBad (s : State) (pasid va loc : Nat) : State :=
  match translate s pasid va with
  | .absent (some a) => logErr s 8 10 loc a 0
  | _ => s

/-- R457: the host address of an ATS leaf that maps an address, whether or not the host has answered for it. -/
def atsLeaf (s : State) (pasid va : Nat) : Option Nat :=
  match walk { s with ats := [] } pasid va with
  | .ats iova => some iova
  | _ => none

/-- R458: forget that the host has no translation for an address: the next access asks again. -/
def forgetAts (s : State) (pasid va : Nat) : State :=
  match atsLeaf s pasid va with
  | none => s
  | some iova => { s with ats := s.ats.filter fun t => !(t.pasid == pasid && t.va == iova / 4096 && t.size == 0) }

/-- R359: a note that the host has no translation for this page, which an `xprobe` alone asked for. -/
def probeNote (s : State) (pasid va : Nat) : Option TlbEntry :=
  (atsLeaf s pasid va).bind fun iova => s.ats.find? fun t => t.pasid == pasid && t.va == iova / 4096 && t.size == 1

/-- R341: the published chunk that holds a virtual address. -/
def chunkOf (s : State) (launch va : Nat) : Option Chunk :=
  s.chunks.find? fun k => k.launch == launch && k.va == va / 65536 * 65536

/-- The physical address of a byte for the device's own reads and writes (R159, R461): translation without the
checks of R321. -/
def devicePa (s : State) (pasid va : Nat) : Option Nat :=
  match translate s pasid va with
  | .ok l => match physKind l.pa with
    | .nothing => none
    | .remote => none
    | .regs => none
    | _ => some l.pa
  | _ => none

/-- R377: the live targets that touch these bytes. -/
def targetsAt (s : State) (pa n : Nat) : List Target :=
  (dieOf s (homeDie pa)).targets.filter fun t => overlap t.addr (tyWidth t.ty / 8) pa n

/-- R297, R377: the value of a live target rounded in a mode, and its flags. -/
def Target.value (t : Target) (ty : Ty) (mode : Nat) : Nat × Nat :=
  XSum.value { s := t.sum, e := -2176, nz := t.nz, fl := t.fl } ty mode false

/-- R377: a byte as a read other than `redget` finds it, `z` where no target is live: a live target's value rounded in RNE. -/
def liveByte (s : State) (pa : Nat) (z : Byte) : Byte :=
  match targetsAt s pa 1 with
  | [] => z
  | t :: _ => BitVec.ofNat 8 ((t.value t.ty 0).1 / 2 ^ (8 * (pa - t.addr)))

/-- R362, R377: a byte as its home delivers it. -/
def homeSeen (s : State) (pa : Nat) : Byte := liveByte s pa (homeCell s.mem pa)

/-- Bytes at a virtual address, as their homes deliver them; none where a page is absent. -/
def vaRead (s : State) (pasid va n : Nat) : Option (List Byte) :=
  (List.range n).mapM fun k => (devicePa s pasid (va + k)).map (homeSeen s)

/-- A little-endian value at a virtual address. -/
def vaNat (s : State) (pasid va n : Nat) : Option Nat := (vaRead s pasid va n).map ofBytes

/-- The cells of bytes at a virtual address; bytes on absent pages are left out. -/
def vaCells (s : State) (pasid va : Nat) (bs : List Byte) : List Host.Cell :=
  (bs.mapIdx fun k v => (devicePa s pasid (va + k)).map fun pa => (pa, v)).filterMap id

/-- R450, R457, R491: the malformed entries that keep bytes of a range from being reached are logged, once for each page. -/
def noteAbsent (s : State) (pasid va n loc : Nat) : State :=
  applyAll s (((List.range n).filter fun k => (devicePa s pasid (va + k)).isNone).map fun k => (va + k) / 4096).eraseDups fun s p =>
    noteBad s pasid (4096 * p) loc

/-- R379: whether an address lies on a page marked SYSATOM. -/
def onSysatom (s : State) (pasid va : Nat) : Bool :=
  match translate s pasid va with
  | .ok l => l.sysatom
  | _ => false

/-- A write of the device itself at a virtual address (R159, R461): it enters every view. -/
def vaWrite (s : State) (pasid va : Nat) (bs : List Byte) : State :=
  let m := flushLog s.mem
  let cs := vaCells s pasid va bs
  { s with mem := { m with base := putCells m.base cs, poison := clearCells m.poison cs } }

/-- R418: whether bytes at a virtual address are poisoned. -/
def vaPoisoned (s : State) (pasid va n : Nat) : Bool :=
  !s.mem.poison.isEmpty && (List.range n).any fun k => ((devicePa s pasid (va + k)).map fun pa => poisoned s.mem.poison pa 1).getD false

/-- R418: poison travels with data that the device writes: the granule at a virtual address becomes poisoned. -/
def vaPoison (s : State) (pasid va : Nat) : State :=
  match devicePa s pasid va with
  | none => s
  | some pa => { s with mem := { s.mem with poison := markGranule s.mem.poison (pa / 32) } }

/-- R463: the context image of a group. -/
def imageVa (l : LaunchRec) (sblock g : Nat) : Nat := l.ctxArea + 34816 * (32 * sblock + g)

/-- R161, R228: whether a block's groups stand in their context images only. -/
def imagesOnly (k : Block) : Bool :=
  k.h.halt == .preempted || k.h.halt == .swapped || k.h.held

/-- The physical pieces, one for each page, of a virtual range that takes in no more than ten pages: address and length. -/
def pagePieces (s : State) (pasid va n : Nat) : List (Nat × Nat) :=
  (List.range 10).filterMap fun p =>
    let lo := max va ((va / 4096 + p) * 4096)
    let hi := min (va + n) ((va / 4096 + p + 1) * 4096)
    if hi ≤ lo then none else (devicePa s pasid lo).map fun q => (q, hi - lo)

/-- R159, R160: the physical pieces of the context images of resident groups, those of a core's own blocks left out. -/
def imagePieces (s : State) (core : Option Nat) : List (Nat × Nat) :=
  (s.blocks.filter fun b => b.2.placed && !imagesOnly b.2 && core != some b.2.core).flatMap fun b =>
    b.2.groups.flatMap fun g => pagePieces s (recOf s b.2).pasid (imageVa (recOf s b.2) b.2.sblock g.1) 34048

/-- Whether a byte lies in one of these pieces. -/
def inPieces (rs : List (Nat × Nat)) (a : Nat) : Bool := rs.any fun r => decide (r.1 ≤ a) && decide (a < r.1 + r.2)

/-- R159, R160: whether a byte lies in the context image of a group that is resident. -/
def inResidentImage (s : State) (pa : Nat) : Bool := inPieces (imagePieces s none) pa

/-- R159, R491: a write of these bytes that an image of a group on another core keeps out is logged, with the location of the
writing core, where a core or one of its engines made it. -/
def noteDiscard (s : State) (core : Option Nat) (as : List Nat) : State :=
  match as.find? (inPieces (imagePieces s core)) with
  | none => s
  | some a => logErr s 7 10 ((core.map (location s)).getD (1024 * s.pkg.toNat)) a 0

/-- R463: the backing region of a block. -/
def backingVa (l : LaunchRec) (sblock : Nat) : Nat := l.backing + 0x400000 * sblock

/-- R34, R33: whether bytes lie inside one declared range. -/
def inRange (rs : List (Nat × Nat)) (lo n : Nat) : Bool := rs.any fun r => decide (r.1 ≤ lo) && decide (lo + n ≤ r.1 + r.2)

end Sys2Proof.Machine
end

