-- ==== Sys2Proof/Machine/Blocks.lean ====
section
/-!
DEFINITION. What ends or gathers: `regang` (R147), the collectives `fork` and `join` (R26, R27, R280, R311), the
completion of a block and of a launch (R27, R148, R377, R461) and the end of a launch by a cause, the host or hang
detection (R229, R406, R462).
-/
namespace Sys2Proof.Machine

/-- Whether a group holds a live lane. -/
def groupLive (g : Group) : Bool := g.slices.any fun x => x.live != 0

/-- The groups of a block that hold a live lane. -/
def liveGroups (b : Block) : List Nat := (b.groups.filter fun x => groupLive x.2).map (·.1)

/-- R280: the lead group. -/
def leadGroup (b : Block) : Option Nat := (liveGroups b).head?

/-- R147: when every slice with a live lane waits at a `regang`, all continue, merged by address. -/
def regangCheck (g : Group) : Group :=
  let at_ (x : Slice) : Bool := x.wait == .regang && x.live != 0
  if g.slices.any at_ && g.slices.all (fun x => x.live == 0 || x.wait == .regang) then
    let sl := (List.range 8).filter fun k => match g.slices[k]? with
      | some x => at_ x
      | none => false
    { g with slices := regroup sl (g.slices.map fun x => if at_ x then { x with wait := .none } else x) }
  else g

/-- Release the slices of a block that wait for `w`. -/
def releaseWait (b : Block) (w : Wait) : Block :=
  { b with groups := b.groups.map fun x => (x.1, { x.2 with
      slices := x.2.slices.map fun y => if y.wait = w then { y with wait := .none } else y }) }

/-- R280: whether no line V0 to V63 of a group awaits a result. -/
def fileReady (g : Group) : Bool :=
  (List.range 64).all fun r => tcount g.pend r == 0 && tcount g.busy r == 0
    && (match tget g.lines r with
        | some l => l.resident
        | none => true)

/-- R280: the sequencer file that `fork` loads. -/
def forkFile (g : Group) : Vector Word 64 :=
  let lane := (liveLanes g).headD 0
  ⟨((List.range 64).map fun r => BitVec.ofNat 32 (rdReg g r lane)).toArray, by simp⟩

/-- R26, R280, R311: release `fork` when every live group has arrived and the lead group's file can be read. -/
def forkCheck (b : Block) : Block :=
  match leadGroup b with
  | none => b
  | some lead =>
    match tget b.groups lead, b.forkArr.find? (·.1 == lead) with
    | some g, some (_, m, k) =>
      if (liveGroups b).all (fun x => b.forkArr.any (·.1 == x)) && fileReady g then
        let start (q : Seq) (e : Nat) (drm : BitVec 3) : Seq :=
          { q with regs := forkFile g, pc := BitVec.ofNat 64 e, running := e != 0, drm := drm }
        releaseWait { b with
          forked := true
          forkArr := []
          mseq := start b.mseq m g.drm
          cseq := start b.cseq k b.cseq.drm } .fork
      else b
    | _, _ => b

/-- R27: release `join` when both sequencers have stopped and every live group has arrived. -/
def joinCheck (b : Block) : Block :=
  if !b.joinArr.isEmpty && !b.mseq.running && !b.cseq.running
      && (liveGroups b).all b.joinArr.contains then
    releaseWait { b with joinArr := [] } .join
  else b

/-- R376, R377: write a live target's value, rounded in `mode`, and free it. -/
def retireTarget (s : State) (d : Nat) (t : Target) (mode : Nat) : State :=
  modDie (physWrite s t.addr (toBytes (tyWidth t.ty / 8) (t.value t.ty mode).1)) d fun k =>
    { k with targets := k.targets.filter (· != t) }

/-- R377: retire every target of a launch in RNE. -/
def retireLaunchTargets (s : State) (l : Nat) : State :=
  applyAll s (List.range 4) fun s d =>
    applyAll s ((dieOf s d).targets.filter fun t => t.launch == l) fun s t => retireTarget s d t 0

/-- R159, R362, R377: bytes that no core writes reach memory and every view: live targets are retired first, and an image of a
resident block keeps its bytes, which is logged. -/
def outsideCells (s : State) (cells : List Host.Cell) : State :=
  let ts := (cells.map fun c => (targetsAt s c.1 1).map fun t => (homeDie t.addr, t)).flatten.eraseDups
  let s1 := applyAll s ts fun s t => retireTarget s t.1 t.2 0
  let put := cells.filter fun c => !inResidentImage s c.1
  let m := flushLog s1.mem
  noteDiscard { s1 with mem := { m with base := putCells m.base put, poison := clearCells m.poison put } } none (cells.map (·.1))

/-- R159: a write of the front end at a physical address. -/
def agentPhys (s : State) (pa : Nat) (bs : List Byte) : State := outsideCells s (bs.mapIdx fun k v => (pa + k, v))

/-- R159, R461: a write of the front end at a virtual address. -/
def agentWrite (s : State) (pasid va : Nat) (bs : List Byte) : State :=
  outsideCells (noteAbsent s pasid va bs.length (1024 * s.pkg.toNat)) (vaCells s pasid va bs)

/-- R461: write a completion record. -/
def writeCompletion (s : State) (pasid va status id : Nat) : State :=
  agentWrite s pasid va (toBytes 2 status ++ toBytes 2 0 ++ toBytes 4 id ++ toBytes 8 (sref s))

/-- R461: take the commands of a launch out of the queues. -/
def endCommand (s : State) (l : Nat) : State :=
  { s with front := { s.front with queues := s.front.queues.map fun q =>
      (q.1, { q.2 with cmds := q.2.cmds.filter fun c => c.launch != some l }) } }

/-- R411: a launch that has ended is held for the debugger no longer; a request under way finds no such launch. -/
def dbgForget (s : State) (l : Nat) : State :=
  let d := s.front.l
  if l = 0 ∨ d.dbgLaunch.toNat ≠ l then s
  else { s with front := { s.front with l := { d with
    dbgLaunch := 0, dbgState := 0, dbgBusy := false, dbgResult := if d.dbgBusy then 1 else d.dbgResult } } }

/-- R377, R411, R461, R462: a launch completes or ends with a status. -/
def completeLaunch (s : State) (l status : Nat) : State :=
  match tget s.launches l with
  | none => s
  | some x =>
    let s1 := retireLaunchTargets (dbgForget s l) l
    let s3 := writeCompletion s1 x.r.pasid x.r.compl status l
    let s4 := endCommand s3 l
    { s4 with
      launches := tdel s4.launches l
      chunks := s4.chunks.filter fun k => k.launch != l
      front := { s4.front with order := s4.front.order.filter (· != l) } }

/-- The work of a block that outlives its lanes: accesses, transfers and matrix instructions. -/
def blockBusy (s : State) (b : Nat) (k : Block) : Bool :=
  (s.accesses.any fun a => a.b == b) || ((coreOf s k.core).xfers.any fun x => x.b == b) || !k.x.mops.isEmpty
    || ((coreOf s k.core).spillQ.any fun x => x.b == b)

/-- R252, R298: the store entries of a block go with it. -/
def freeBlock (s : State) (b : Nat) (k : Block) : State :=
  modCluster { s with blocks := tdel s.blocks b } (clusterOfCore k.core) fun cl =>
    { cl with
      store := cl.store.filter fun x => x.1 / 2048 != b
      region := cl.region.filter fun x => x / 2048 != b
      spoiled := cl.spoiled.filter fun x => x / 2048 != b }

/-- R377, R461, R465: an ended launch whose work in flight is done: the completions of its records that have none, and
its own. -/
def finishLaunch (s : State) (l status : Nat) : State :=
  match tget s.launches l with
  | none => s
  | some x =>
    completeLaunch (if x.r.node then applyAll s x.records fun s r => writeCompletion s x.r.pasid r.2.2 status l else s)
      l status

/-- R27: complete a block in which every lane has exited and no sequencer runs. Its resources return at once; it is reported, and
with the last block the launch completes, when nothing it issued is in flight (log 10). A block of an ended launch goes once
nothing of it is in flight. -/
def tryComplete (s : State) (b : Nat) : State :=
  match tget s.blocks b with
  | none => s
  | some k =>
    if k.ended then
      if blockBusy s b k then s
      else
        let s1 := freeBlock s b k
        match tget s1.launches k.launch with
        | none => s1
        | some l => match l.ending with
          | none => s1
          | some st => if s1.blocks.any fun x => x.2.launch == k.launch then s1 else finishLaunch s1 k.launch st
    else if (liveGroups k).isEmpty && !k.mseq.running && !k.cseq.running && k.h.halt == .running then
      if blockBusy s b k then modBlock s b fun k => { k with complete := true }
      else
      let s1 := freeBlock s b k
      let s2 := modLaunch s1 k.launch fun l => { l with finishedBlocks := l.finishedBlocks + 1 }
      match tget s2.launches k.launch with
      | none => s2
      | some l =>
        if l.r.node then
          let s3 := applyAll s2 (((l.blockRecs.find? (·.1 == k.sblock)).map (·.2)).getD []) fun s r =>
            writeCompletion s l.r.pasid r.2.2 0 k.launch
          let s3 := { s3 with front := { s3.front with queues := s3.front.queues.map fun q =>
            (q.1, { q.2 with cmds := q.2.cmds.filter fun c =>
              !(c.launch == some k.launch && (((l.blockRecs.find? (·.1 == k.sblock)).map (·.2)).getD []).any
                fun r => r.2.2 == c.compl) }) } }
          if l.closed && l.records.isEmpty && decide (l.finishedBlocks = l.blockRecs.length) then completeLaunch s3 k.launch 0
          else s3
        else if l.finishedBlocks = l.r.blocks then completeLaunch s2 k.launch 0
        else s2
    else s

/-- R360: whether an access writes. -/
def AccOp.writes : AccOp → Bool
  | .write _ | .atomic .. | .redInt .. | .redFloat .. | .tileStore .. | .swap .. => true
  | .redget _ _ fin => fin
  | _ => false

/-- R229, R398: a core without the requests of some blocks and without their transfers that wait for a page; those in
`out` have left their core, and their transfers go too. -/
def coreWithout (bs out : List Nat) (k : Core) : Core :=
  { k with
    xfers := k.xfers.filter fun x => !(bs.contains x.b && (x.stalled.isSome || out.contains x.b))
    teams := k.teams.map fun t => { t with xq := t.xq.filter fun q => !bs.contains q.1 } }

/-- R229: a cluster without some records. -/
def clusterWithout (recs : List Nat) (k : Cluster) : Cluster :=
  { k with
    weu := k.weu.filter fun r => !recs.contains r
    passWait := k.passWait.filter fun r => !recs.contains r.1
    passes := k.passes.map fun p => { p with recs := p.recs.filter fun r => !recs.contains r } }

/-- R458: whether a page request belongs to one of these blocks. -/
def reqOf (s : State) (bs : List Nat) (r : PageReq) : Bool :=
  match r.who with
  | .xfer _ x => s.cores.any fun c => c.2.xfers.any fun y => y.id == x && bs.contains y.b
  | .mat b _ => bs.contains b
  | .fetch b => bs.contains b
  | .ats _ _ => false

/-- R458: whether a host page request is for a launch that ends: no other launch has its PASID. -/
def hostReqOf (s : State) (l : Nat) (x : Launch) (r : PageReq) : Bool :=
  match r.who with
  | .ats p _ => p == x.r.pasid && s.launches.all fun y => y.1 == l || y.2.ending.isSome || y.2.r.pasid != p
  | _ => false

/-- A slice that issues nothing more. -/
def endSlice (x : Slice) : Slice := { x with stack := [], wait := .none, skid := 0 }

/-- A group of an ended launch: nothing is awaited. Its lines and live lanes stand for the operands that the matrix
engine has still to read. -/
def endGroup (g : Group) : Group :=
  { g with
    slices := g.slices.map endSlice
    pend := [], busy := [], longs := [], fences := [], aside := none, cause := none, taken := none, finished := true }

/-- R229, R398: a block of an ended launch: it issues nothing more; its transfers and matrix instructions that no page
holds back remain. -/
def endBlock (k : Block) : Block :=
  { k with
    ended := true
    groups := k.groups.map fun g => (g.1, endGroup g.2)
    mseq := {}, cseq := {}, forkArr := [], joinArr := []
    x := { k.x with
      mops := k.x.mops.filter fun m => k.placed && m.stalled.isNone
      nbars := Vector.replicate 32 {}, mbars := Vector.replicate 16 {}, queues := Vector.replicate 16 {}, park := [] }
    h := { k.h with halt := .stopped, why := none, primary := none, held := false, dbgPend := false, tslPend := false
                    stepping := false, handler := none } }

/-- R229, R398: whether an access of an ended launch performs: it writes, and needs nothing of a block that has left its
core. -/
def staysInFlight (out : List Nat) (a : Access) : Bool :=
  a.op.writes && !(out.contains a.b && (a.scr || (match a.op with
    | .tileStore .. => !a.srcRead
    | _ => false)))

/-- R229, R406, R462: a launch ends. Its lanes, waiting accesses and parked records are discarded; the frames stay in
the images. Stores, transfers and matrix instructions in flight are done before the launch is reported ended. -/
def endLaunch (s : State) (l status : Nat) : State :=
  match tget s.launches l with
  | none => s
  | some x =>
    if x.ending.isSome then s
    else
      let mine := s.blocks.filter fun k => k.2.launch == l
      let bs := mine.map (·.1)
      let out := (mine.filter fun k => !k.2.placed).map (·.1)
      let recs := (mine.map fun k => k.2.x.park.map ParkRec.id).flatten
      let left := (x.blockRecs.filter fun r => decide (x.next ≤ r.1) || mine.any fun k => k.2.sblock == r.1).map (·.2)
      let s1 := { s with
        blocks := s.blocks.map fun k => if k.2.launch = l then (k.1, endBlock k.2) else k
        accesses := s.accesses.filter fun a => !bs.contains a.b || staysInFlight out a
        cores := s.cores.map fun (c : Nat × Core) => (c.1, coreWithout bs out c.2)
        front := { s.front with reqs := s.front.reqs.filter fun r => !(reqOf s bs r || hostReqOf s l x r) } }
      let live := s1.accesses.map Access.id
      let s2 := modLaunch (modClusters s1 fun _ k =>
          let k := clusterWithout recs k
          { k with locks := k.locks.filter live.contains }) l fun x =>
        { x with ending := some status, records := x.records ++ left.flatten, swapped := [], closed := true, replicaHeld := false }
      let s3 := dbgForget s2 l
      if mine.isEmpty then finishLaunch s3 l status else applyAll s3 bs tryComplete

/-- R229: a block of an ended launch, after work of it has gone. -/
def leaveEnded (s : State) (b : Nat) : State :=
  if ((tget s.blocks b).map Block.ended).getD false then tryComplete s b else s

/-- R27, R147, R148: what an exit, or a group's end, lets continue. -/
def afterExit (s : State) (b : Nat) : State :=
  tryComplete (modBlock s b fun k => joinCheck (forkCheck k)) b

end Sys2Proof.Machine
end

