-- ==== Sys2Proof/Machine/Exceptions.lean ====
section
/-!
DEFINITION. Taking an exception and returning from one (R396 to R410), saving and restoring a group's control area (R159
to R161), and taking a block off its core (R253, R286, R412 to R416).
-/
namespace Sys2Proof.Machine

/-- R396: a halt reaches a block: its skid begins. -/
def haltBlock (s : State) (b : Nat) (why : HaltWhy) : State :=
  modBlock s b fun k =>
    { k with
      h := { k.h with halt := .halting, why := some why, since := s.time, sinceScyc := (coreOf s k.core).scyc }
      groups := k.groups.map fun x => (x.1, { x.2 with twice := false, slices := x.2.slices.map fun y => { y with skid := 0 } }) }

/-- R400, R401: the bytes of a trap frame. -/
def frameBytes (r : CauseRec) (loc : Nat) (res hst tsl dbg : Bool) (skid : Nat) : List Byte :=
  toBytes 2 r.code
    ++ toBytes 2 (b01 r.seq + 2 * b01 r.async + 4 * b01 r.second + 8 * b01 dbg + 16 * b01 tsl + 32 * b01 hst
        + 64 * b01 res)
    ++ toBytes 4 0 ++ toBytes 8 r.addr ++ toBytes 8 r.pc.toNat
    ++ ((r.words ++ List.replicate (5 - r.words.length) 0).map fun (w : Word) => toBytes 4 w.toNat).flatten
    ++ toBytes 2 r.lower ++ toBytes 2 r.len ++ toBytes 4 r.pmask ++ toBytes 4 r.lmask ++ toBytes 4 skid
    ++ toBytes 4 r.scyc ++ toBytes 8 r.sreft ++ toBytes 1 r.stream ++ toBytes 1 r.engine ++ toBytes 1 r.svc
    ++ toBytes 1 0 ++ toBytes 4 loc ++ toBytes 8 r.errSeq ++ List.replicate 40 0

/-- R399: the next address of a group's lowest slice that holds a live lane. -/
def groupPc (g : Group) : DWord := ((g.slices.find? fun x => x.live != 0).map Slice.pc).getD 0

/-- R400: the largest number of skid instructions of one slice. -/
def groupSkid (g : Group) : Nat := (g.slices.map Slice.skid).foldl max 0

/-- R399, R405: the record of an asynchronous cause. -/
def asyncRec (k : Block) (g : Group) (code : Nat) : CauseRec :=
  { code := code, async := true, pc := groupPc g, scyc := k.h.sinceScyc % 2 ^ 32, sreft := k.h.since / 13 }

/-- R397, R399: the cause that a group's frame holds: for the lead group of a block whose sequencer raised one, unless it is primary,
the sequencer's. -/
def frameCause (k : Block) (gi : Nat) (g : Group) : CauseRec :=
  let code := match k.h.why with
    | some .dbg => 0x10
    | some .tslice => 0x11
    | _ => 0x12
  let seqCause := (k.mseq.cause.orElse fun _ => k.cseq.cause)
  let own := g.cause.getD (asyncRec k g code)
  match seqCause with
  | some r =>
    if (leadGroup k).getD 0 = gi ∧ k.h.primary ≠ some gi then { r with second := k.h.primary.isSome } else own
  | none => own

/-- R397: the primary group: the lowest with a synchronous cause that is not SECOND. -/
def primaryGroup (k : Block) : Option Nat :=
  ((k.groups.filter fun x => match x.2.cause with
      | some r => !r.second && r.code != 0x10
      | none => false).map (·.1)).head?

/-- R399, R400: write a group's frame into its save slot. -/
def writeFrame (s : State) (b gi : Nat) (res hst : Bool) : State :=
  match tget s.blocks b with
  | none => s
  | some k =>
    match tget k.groups gi with
    | none => s
    | some g =>
      let l := recOf s k
      vaWrite s l.pasid (imageVa l k.sblock gi + 32768)
        (frameBytes (frameCause k gi g) (location s k.core) res hst k.h.tslPend k.h.dbgPend (groupSkid g))

/-- The frame in a group's save slot. -/
def slotFrame (s : State) (k : Block) (gi : Nat) : List Byte :=
  let l := recOf s k
  (vaRead s l.pasid (imageVa l k.sblock gi + 32768) 128).getD []

/-- R399, R405: before a later halt writes its frame into the slot of a group in handler state, the handler's own frame is kept; it
stands in the slot again when the block goes on (DESIGN CHOICE, log 100). -/
def coverFrame (s : State) (b gi : Nat) : State :=
  match tget s.blocks b with
  | none => s
  | some k => modGroup s b gi fun g => if g.aside.isSome && g.under.isEmpty then { g with under := slotFrame s k gi } else g

/-- R405: the handler's own frame stands in its slot again. -/
def uncoverFrame (s : State) (b gi : Nat) : State :=
  match (tget s.blocks b).bind fun k => (tget k.groups gi).map fun g => (k, g) with
  | none => s
  | some (k, g) =>
    if g.under.isEmpty then s
    else
      let l := recOf s k
      modGroup (vaWrite s l.pasid (imageVa l k.sblock gi + 32768) g.under) b gi fun g => { g with under := [] }

/-- R40: an address as a program counter holds it: bits [1:0] are 0 (log 111). -/
def wordPc (a : DWord) : DWord := a &&& ~~~(3 : DWord)

/-- R407: a slice in handler state: it holds all its live lanes, at the handler entry, with an empty stack. -/
def handlerSlice (entry : DWord) (first : Nat) (x : Slice) : Slice :=
  if x.live = 0 then x
  else { x with pc := wordPc entry, act := x.live, stack := [], gang := first, wait := .none, waited := 0, skid := 0 }

/-- R135, R407: take an exception: the group sets aside its slices and starts at the handler entry; STRAPF names the
frame. Every window is closed. Registers, quota and pending marks stay. -/
def enterHandler (g : Group) (entry : DWord) (frame : Nat) : Group :=
  let first := (((List.range 8).filter fun k => match g.slices[k]? with
    | some x => x.live != 0
    | none => false).headD 0)
  { g with
    aside := some (g.slices.map fun x => ⟨x.pc, x.act, x.stack, x.gang, x.wait⟩)
    slices := g.slices.map (handlerSlice entry first)
    longs := g.longs.filter fun x => !x.done
    taken := g.cause
    cause := none
    twice := false
    frame := frame }

/-- R137, R410: a mask without the lanes that have exited. -/
def keepLive (m live : BitVec 4) : BitVec 4 := m &&& live

/-- R137: a stack entry without the lanes that have exited. -/
def SEntry.keep (live : BitVec 4) : SEntry → SEntry
  | .rejoin m => .rejoin (m &&& live)
  | .alt a m => .alt a (m &&& live)

/-- The lanes of a stack entry. -/
def SEntry.mask : SEntry → BitVec 4
  | .rejoin m => m
  | .alt _ m => m

/-- R139: pop entries until one has a lane; `none` if there is none. -/
def popEntry : List SEntry → Option (SEntry × List SEntry)
  | [] => none
  | e :: es => if e.mask = 0 then popEntry es else some (e, es)

/-- R139, R140: a slice after a pop. With no entry left, `keep` stands. -/
def popSlice (x : Slice) : Slice :=
  match popEntry x.stack with
  | none => { x with stack := [] }
  | some (.rejoin m, es) => { x with act := m, stack := es }
  | some (.alt a m, es) => { x with pc := a, act := m, stack := es }

/-- R16, R160: the sub-gangs after a resumption or a return: slices of one former sub-gang stay together unless their addresses were made to
differ (log 87). -/
def splitGangs (xs : List Slice) : List Slice :=
  xs.mapIdx fun k x => { x with gang := (xs.findIdx? fun y => y.gang == x.gang && y.pc == x.pc).getD k }

/-- R135, R409, R410: return from an exception, with no window open: every slice takes back what it set aside; the slices named go on
at the resume PC. A slice whose active lanes have all exited goes on with the next entry of its stack; slices at different
addresses part (R16), and those at `regang` go on if they wait for nobody else (R147). -/
def leaveHandler (g : Group) (resume : DWord) (at_ : BitVec 8) : Group :=
  match g.aside with
  | none => g
  | some as =>
    let xs := g.slices.mapIdx fun k x =>
      match as[k]? with
      | none => x
      | some a =>
        let y := { x with
          pc := if at_.getLsbD k then wordPc resume else a.pc
          act := keepLive a.act x.live
          stack := a.stack.map (SEntry.keep x.live)
          gang := a.gang
          wait := a.wait
          waited := 0
          skid := 0 }
        if y.act = 0 then popSlice y else y
    regangCheck { g with slices := splitGangs xs, longs := g.longs.filter (fun x => !x.done), aside := none, frame := 0, taken := none }

/-- R409: the slices of `m` that wait for `w` go on: those that a running handler has set aside, which waited first, or else those of
the group. -/
def endWait (g : Group) (m : BitVec 8) (w : Wait) : Group :=
  let set := (g.aside.getD []).mapIdx fun j a => m.getLsbD j && a.wait == w
  if set.any id then
    { g with aside := g.aside.map fun as => as.mapIdx fun j a => if m.getLsbD j && a.wait == w then { a with wait := .none } else a }
  else { g with slices := g.slices.mapIdx fun j x => if m.getLsbD j && x.wait == w then { x with wait := .none } else x }

/-- R397: what stays of a recorded cause when a block goes on. A cause of an instruction's issue or fetch is raised again
when the instruction is replayed; a cause of an engine access has nothing to replay, and stays. R418: engine 4 is met at an instruction's own issue. -/
def keepCause (c : Option CauseRec) : Option CauseRec :=
  match c with
  | none => none
  | some r => if r.engine = 0 ∨ r.engine = 4 ∨ r.engine = 5 then none else some { r with second := false }

/-- Whether a party of a block has a recorded cause. -/
def hasCause (k : Block) : Bool := k.mseq.cause.isSome || k.cseq.cause.isSome || k.groups.any fun x => x.2.cause.isSome

/-- R409, R413, R416: the stopped parties of a block go on. A halt that has begun meanwhile goes on too. -/
def goOn (k : Block) : Block :=
  { k with
    h := if k.h.halt = .halting then { k.h with primary := none, handler := none }
         else { k.h with halt := .running, why := none, primary := none, handler := none, dbgPend := false,
                         held := false }
    mseq := { k.mseq with cause := keepCause k.mseq.cause, hold := false }
    cseq := { k.cseq with cause := keepCause k.cseq.cause, hold := false }
    groups := k.groups.map fun x => (x.1, { x.2 with
      cause := keepCause x.2.cause
      twice := false
      slices := x.2.slices.map fun y => { y with skid := 0, waited := 0 } }) }

/-- R409, R416: a block goes on. A cause that stays halts it. -/
def resumeBlock (s : State) (b : Nat) : State :=
  let s1 := modBlock s b goOn
  if ((tget s1.blocks b).map hasCause).getD false then dueEvents s1 [.blockHalt b] else s1

/-- R405: take a held time-slice expiry. -/
def takeHeldSlice (s : State) (b : Nat) : State :=
  match tget s.blocks b with
  | none => s
  | some k =>
    if k.h.tslPend then
      haltBlock (modBlock s b fun k => { k with h := { k.h with tslPend := false } }) b .tslice
    else s

/-- R397, R399: the group whose frame carries the cause of a halt: the primary group, or the lead group for a cause of
a sequencer. -/
def causeGroup (k : Block) : Option Nat := k.h.primary.orElse fun _ => leadGroup k

/-- R397: the cause of a halt, as its frame holds it. -/
def haltCause (k : Block) : Option CauseRec :=
  match causeGroup k with
  | some gi => (tget k.groups gi).map (frameCause k gi)
  | none => k.mseq.cause.orElse fun _ => k.cseq.cause

/-- R406: whether a halt ends the launch: no handler entry, or no group that could run one, or a cause raised in
handler state. -/
def haltEnds (s : State) (k : Block) : Bool :=
  (recOf s k).handler == 0
    || (match (causeGroup k).bind fun gi => tget k.groups gi with
        | some g => g.aside.isSome
        | none => true)

/-- R406, R407: what follows once the frames of a synchronous cause are written: the handler starts, or the launch
ends with the cause. -/
def afterFrames (s : State) (b : Nat) : State :=
  match tget s.blocks b with
  | none => s
  | some k =>
    let l := recOf s k
    match haltCause k with
    | none => s
    | some r =>
      match causeGroup k, haltEnds s k with
      | some gi, false => modBlock s b fun k => { k with
          h := { k.h with halt := .stopped, handler := some gi }
          groups := tmod k.groups gi fun g =>
            enterHandler { g with cause := some r } l.handler (imageVa l k.sblock gi + 32768) }
      | _, _ => endLaunch s k.launch (0x0200 + r.code)

/-- R160: the control area of a group. -/
def controlBytes (g : Group) : List Byte :=
  let sl := (List.range 8).map fun k => g.slices.getD k {}
  let entry : SEntry → Nat
    | .rejoin m => m.toNat * 2 ^ 60
    | .alt a m => m.toNat * 2 ^ 60 + 2 ^ 59 + bits a.toNat 2 55
  let stack (x : Slice) : List Byte :=
    let es := x.stack.reverse.map entry
    ((es ++ List.replicate (8 - es.length) 0).map (toBytes 8)).flatten
  let win (k : Nat) : Nat :=
    match g.longs[k]? with
    | none => 0
    | some x => x.reg + 256 * b01 (x.nregs == 2) + 512
        + 2 ^ 32 * ofElems 4 ((List.range 8).map fun j => x.rem.getD j 0)
  (sl.map fun x => toBytes 8 x.pc.toNat).flatten
    ++ (sl.map fun x => toBytes 4 (x.act.toNat + 16 * x.live.toNat + 256 * x.stack.length
        + 4096 * b01 (x.wait == .regang))).flatten
    ++ (sl.map stack).flatten
    ++ ((List.range 256).map fun r => toBytes 1 (tcount g.pend r)).flatten
    ++ ((List.range 16).map fun k => toBytes 8 (win k)).flatten
    ++ ((List.range 32).map fun j => toBytes 1 (maskOf ((List.range 8).filter fun k =>
        (tget g.lines (8 * j + k)).isSome))).flatten

/-- R159: the state words of the save slot, from +128. -/
def saveBytes (g : Group) : List Byte :=
  toBytes 4 g.flags.toNat ++ toBytes 4 g.drm.toNat ++ toBytes 4 g.quota ++ List.replicate 116 0

/-- R161: write a group's save slot and control area. -/
def saveGroup (s : State) (b gi : Nat) : State :=
  match tget s.blocks b with
  | none => s
  | some k =>
    match tget k.groups gi with
    | none => s
    | some g =>
      let l := recOf s k
      let va := imageVa l k.sblock gi
      if g.finished then s else vaWrite (vaWrite s l.pasid (va + 32768 + 128) (saveBytes g)) l.pasid (va + 33024) (controlBytes g)

/-- R160: a slice read back from the control area. `cs` are its bytes. -/
def loadSlice (cs : List Byte) (k : Nat) (x : Slice) : Slice :=
  let at_ (o n : Nat) : Nat := ofBytes ((cs.drop o).take n)
  let w := at_ (64 + 4 * k) 4
  let es := (List.range (min 8 (bits w 8 4))).map fun j =>
    let e := at_ (96 + 64 * k + 8 * j) 8
    if bit e 59 then SEntry.alt (BitVec.ofNat 64 (bits e 0 55 * 4)) (BitVec.ofNat 4 (bits e 60 4))
    else SEntry.rejoin (BitVec.ofNat 4 (bits e 60 4))
  { x with
    pc := wordPc (BitVec.ofNat 64 (at_ (8 * k) 8))
    act := BitVec.ofNat 4 (bits w 0 4)
    live := BitVec.ofNat 4 (bits w 4 4)
    stack := es.reverse
    waited := 0
    wait := if bit w 12 then .regang else if x.wait = .regang then .none else x.wait }

/-- R160: whether a reserved field of the control area is set. A depth above 8 counts as one (log 88). -/
def controlBad (cs : List Byte) : Bool :=
  let at_ (o n : Nat) : Nat := ofBytes ((cs.drop o).take n)
  (List.range 8).any (fun k =>
    bits (at_ (64 + 4 * k) 4) 13 19 != 0 || bits (at_ (64 + 4 * k) 4) 8 4 > 8
      || (List.range 8).any fun j => bits (at_ (96 + 64 * k + 8 * j) 8) 55 4 != 0)
  || (List.range 16).any fun k => bits (at_ (864 + 8 * k) 8) 10 22 != 0

/-- R100, R101: OR flags into the context image of a group. -/
def imageFlags (s : State) (k : Block) (gi f : Nat) : State :=
  let l := recOf s k
  let va := imageVa l k.sblock gi + 32896
  vaWrite s l.pasid va (toBytes 4 ((vaNat s l.pasid va 4).getD 0 ||| f))

/-- R160, R172: a group read back from its save slot (state words at `sv`) and control area. Lines that the bitmap
adds are live and not resident. DESIGN CHOICE (log 127): a DRM from 5 to 7 is loaded as it is. -/
def loadGroup (g : Group) (sv cs : List Byte) : Group :=
  let at_ (o n : Nat) : Nat := ofBytes ((cs.drop o).take n)
  let liveBit (r : Nat) : Bool := bit (at_ (992 + r / 8) 1) (r % 8)
  let xs := g.slices.mapIdx fun k x => loadSlice cs k x
  let closed := (List.range 16).filterMap fun k =>
    let e := at_ (864 + 8 * k) 8
    if bit e 9 then
      some ({ id := 0, reg := bits e 0 8, nregs := if bit e 8 then 2 else 1,
              rem := (List.range 8).map fun j => bits e (32 + 4 * j) 4, done := true } : LongX)
    else none
  { g with
    flags := BitVec.ofNat 6 (ofBytes (sv.take 4))
    drm := BitVec.ofNat 3 (ofBytes ((sv.drop 4).take 4))
    quota := ofBytes ((sv.drop 8).take 4) % 512
    slices := splitGangs xs
    pend := (List.range 256).filterMap fun r => let n := at_ (608 + r) 1; if n = 0 then none else some (r, n)
    longs := closed
    lines := (List.range 256).filterMap fun r =>
      if liveBit r then some (r, (tget g.lines r).getD { resident := false, dirty := false }) else none
    badCtl := controlBad cs }

/-- R161, R172: read a group's save slot and control area before its first issue. -/
def restoreGroup (s : State) (b gi : Nat) : State :=
  match tget s.blocks b with
  | none => s
  | some k =>
    let l := recOf s k
    let va := imageVa l k.sblock gi
    match vaRead s l.pasid (va + 32768 + 128) 12, vaRead s l.pasid (va + 33024) 1024 with
    | some sv, some cs => modGroup s b gi fun g => if g.finished then g else loadGroup g sv cs
    | _, _ => s

/-- The bytes of a resident line (R159). -/
def lineBytes (x : Line) : List Byte := ((List.range 32).map fun k => toBytes 4 (x.vals.getD k 0).toNat).flatten

/-- R171, R172, R418: write a line back, if it is dirty, and give up its row. The poison of a line written back goes to the image. -/
def evictLine (s : State) (b gi r : Nat) : State :=
  match tget s.blocks b with
  | none => s
  | some k =>
    match (tget k.groups gi).bind fun g => tget g.lines r with
    | none => s
    | some x =>
      if !x.resident then s
      else
        let l := recOf s k
        let va := imageVa l k.sblock gi + 128 * r
        let s1 := if x.dirty then
            modTeam (vaWrite s l.pasid va (lineBytes x)) k.core (teamOf k gi)
              fun t => { t with ctr := { t.ctr with lwb := t.ctr.lwb + 1 } }
          else s
        let s1 := if x.dirty && x.poison then applyAll s1 (List.range 4) fun s j => vaPoison s l.pasid (va + 32 * j) else s1
        modGroup s1 b gi fun g => { g with lines := tset g.lines r { x with vals := [], resident := false, dirty := false, poison := false } }

/-- R162, R171: the resident lines of a physical team: block, group and register. -/
def teamRows (s : State) (c t : Nat) : Nat :=
  ((s.blocks.filter fun x => x.2.core == c).map fun x =>
    (x.2.groups.map fun g =>
      if teamOf x.2 g.1 = t then (g.2.lines.filter fun l => l.2.resident).length else 0).sum).sum

/-- R171: the order of victims: least recently used, then lowest group, then lowest register. -/
def rowLt (a b : Nat × Nat × Nat × Nat) : Bool :=
  a.1 < b.1 || (a.1 == b.1 && (a.2.2.1 < b.2.2.1 || (a.2.2.1 == b.2.2.1 && a.2.2.2 < b.2.2.2)))

/-- R170, R171: the evictable lines of pre-empted blocks that nothing holds: time, block, group and register. -/
def rowVictims (s : State) (c t : Nat) : List (Nat × Nat × Nat × Nat) :=
  ((s.blocks.filter fun x => x.2.core == c && x.2.h.halt == .preempted).map fun x =>
    (x.2.groups.map fun g =>
      if teamOf x.2 g.1 = t then (g.2.lines.filter fun l => l.2.resident && !g.2.holds.any fun h => h.1 == l.1).map
        fun l => (l.2.used, x.1, g.1, l.1)
      else []).flatten).flatten

/-- R171: the victim. Times are core cycles; of lines that agree in time, group and register the block listed first gives its own
up (log 86). -/
def rowVictim (s : State) (c t : Nat) : Option (Nat × Nat × Nat × Nat) :=
  match rowVictims s c t with
  | [] => none
  | x :: xs => some (xs.foldl (fun a b => if rowLt b a then b else a) x)

/-- R171: make room for `n` more rows of a team, as far as there are victims. -/
def makeRoom (c t : Nat) : Nat → State → State
  | 0, s => s
  | n + 1, s =>
    let s1 := makeRoom c t n s
    if teamRows s1 c t + n < 1024 then s1
    else match rowVictim s1 c t with
      | none => s1
      | some v => evictLine s1 v.2.1 v.2.2.1 v.2.2.2

/-- R171: whether a team can have `n` more rows. -/
def roomFor (s : State) (c t n : Nat) : Bool := decide (teamRows s c t + n ≤ 1024 + (rowVictims s c t).length)

/-- R163, R171: the rows that writes to these registers of a group take: those of its dead lines. -/
def rowsFor (g : Group) (rs : List Nat) : Nat := (rs.eraseDups.filter fun r => (tget g.lines r).isNone).length

/-- R169: count expansions in the team of a group. -/
def countExpansions (s : State) (k : Block) (gi n : Nat) : State :=
  if n = 0 then s else modTeam s k.core (teamOf k gi) fun t => { t with ctr := { t.ctr with lexp := t.ctr.lexp + n } }

/-- R172, R412: write back every dirty line of a group and give up its rows. -/
def evictGroup (s : State) (b gi : Nat) : State :=
  match (tget s.blocks b).bind fun k => tget k.groups gi with
  | none => s
  | some g => applyAll s (g.lines.map (·.1)) fun s r => evictLine s b gi r

/-- The bytes of a page of a block's space. -/
def pageBytes (k : Block) (p : Nat) : List Byte := rdCells k.scr (4096 * p) 4096

/-- A block's space without a page. -/
def dropPage (k : Block) (p : Nat) : Block :=
  { k with
    scrPoison := k.scrPoison.filter fun g => 32 * g / 4096 != p
    scr := k.scr.filter fun c => c.1 / 4096 != p
    pages := tmod k.pages p fun x => { x with resident := false, dirty := false, pinned := false } }

/-- R253, R255, R418: write a page to the backing region, with its poison, if it is dirty or belongs to the park ring, and release its
frame. -/
def evictPage (s : State) (b p : Nat) : State :=
  match tget s.blocks b with
  | none => s
  | some k =>
    match tget k.pages p with
    | none => s
    | some x =>
      if !x.resident then s
      else
        let l := recOf s k
        let s1 := if x.dirty || decide (progSize k ≤ 4096 * p) then
            applyAll (vaWrite s l.pasid (backingVa l k.sblock + 4096 * p) (pageBytes k p))
              (k.scrPoison.filter fun g => 32 * g / 4096 == p) fun s g => vaPoison s l.pasid (backingVa l k.sblock + 32 * g)
          else s
        modBlock s1 b fun k => dropPage k p

/-- R253, R256, R412, R414: write a block's lines, images and pages back; nothing of it is resident or pinned afterwards. The
control areas of a block that has been pre-empted stand in its images already. -/
def writeBackBlock (s : State) (b : Nat) : State :=
  match tget s.blocks b with
  | none => s
  | some k =>
    let s1 := applyAll s (k.groups.map (·.1)) fun s g =>
      evictGroup (if k.h.halt = .preempted ∨ k.h.halt = .swapped then s else saveGroup s b g) b g
    let s2 := applyAll s1 (k.pages.map (·.1)) fun s p => evictPage s b p
    modBlock s2 b fun k => { k with pages := k.pages.map fun p => (p.1, { p.2 with pinned := false }) }

end Sys2Proof.Machine
end

