-- ==== Sys2Proof/Machine/Backing.lean ====
section
/-!
DEFINITION. The sequencer, codebook, barrier and queue state of a block in its backing region (R286, R412 to R414, R463): how it is
written there and read back. The manual gives the region's start only; the layout is the model's (log 11): little-endian words of
eight bytes, a list preceded by its length.
-/
namespace Sys2Proof.Machine

/-- A value that may be absent, as a word. -/
def optWord (o : Option Nat) : Nat :=
  match o with
  | none => 0
  | some v => v + 1

/-- A word as a value that may be absent. -/
def wordOpt (w : Nat) : Option Nat := if w = 0 then none else some (w - 1)

/-- A list of words, preceded by its length. -/
def listWords (l : List Nat) : List Nat := l.length :: l

/-- A list of words read back, with the rest. -/
def takeList : List Nat → List Nat × List Nat
  | [] => ([], [])
  | n :: ws => (ws.take n, ws.drop n)

/-- A table of counts as words: its length, then keys and values. -/
def tabWords (t : Tab Nat) : List Nat := t.length :: t.flatMap fun x => [x.1, x.2]

/-- Keys and values read back, with the rest. -/
def takePairs : Nat → List Nat → Tab Nat × List Nat
  | n + 1, a :: b :: ws =>
    let r := takePairs n ws
    ((a, b) :: r.1, r.2)
  | _, ws => ([], ws)

/-- A table of counts read back, with the rest. -/
def takeTab : List Nat → Tab Nat × List Nat
  | [] => ([], [])
  | n :: ws => takePairs n ws

/-- `n` parts read back one after the other, with the rest. -/
def takeMany {α : Type} (f : List Nat → α × List Nat) : Nat → List Nat → List α × List Nat
  | 0, ws => ([], ws)
  | n + 1, ws =>
    let r := f ws
    let q := takeMany f n r.2
    (r.1 :: q.1, q.2)

/-- R280, R283: a sequencer's file, position and mode. -/
def seqWords (q : Seq) : List Nat := [q.pc.toNat, b01 q.running, q.drm.toNat] ++ q.regs.toList.map BitVec.toNat

/-- A sequencer read back; what it waits for is the model's record. -/
def takeSeq (q : Seq) (ws : List Nat) : Seq × List Nat :=
  ({ q with
      pc := BitVec.ofNat 64 (ws.getD 0 0), running := ws.getD 1 0 == 1, drm := BitVec.ofNat 3 (ws.getD 2 0)
      regs := Vector.ofFn fun i => BitVec.ofNat 32 (ws.getD (3 + i.val) 0) }, ws.drop 67)

/-- R304: a matrix barrier. -/
def mbarWords (m : MBar) : List Nat := [m.arrived, optWord m.e, m.c] ++ tabWords m.waits

/-- A matrix barrier read back. -/
def takeMBar (ws : List Nat) : MBar × List Nat :=
  let t := takeTab (ws.drop 3)
  ({ arrived := ws.getD 0 0, e := wordOpt (ws.getD 1 0), c := ws.getD 2 0, waits := t.1 }, t.2)

/-- R383: a named barrier. -/
def nbarWords (m : NBar) : List Nat := [m.total, optWord m.e, m.c] ++ tabWords m.waits

/-- A named barrier read back. -/
def takeNBar (ws : List Nat) : NBar × List Nat :=
  let t := takeTab (ws.drop 3)
  ({ total := ws.getD 0 0, e := wordOpt (ws.getD 1 0), c := ws.getD 2 0, waits := t.1 }, t.2)

/-- R271: a blocked push or pop. -/
def waiterWords (w : Waiter) : List Nat :=
  [w.party, w.slices.toNat, w.lanes, w.dst, w.handle.toNat, b01 w.got, w.since % 2 ^ 64, w.since / 2 ^ 64] ++ listWords w.dead

/-- A blocked push or pop read back. -/
def takeWaiter (ws : List Nat) : Waiter × List Nat :=
  let d := takeList (ws.drop 8)
  ({ party := ws.getD 0 0, slices := BitVec.ofNat 8 (ws.getD 1 0), lanes := ws.getD 2 0, dst := ws.getD 3 0
     handle := BitVec.ofNat 64 (ws.getD 4 0), got := ws.getD 5 0 == 1, since := ws.getD 6 0 + 2 ^ 64 * ws.getD 7 0
     dead := d.1 }, d.2)

/-- The blocked parties of a queue. -/
def waitersWords (l : List Waiter) : List Nat := l.length :: l.flatMap waiterWords

/-- The blocked parties read back. -/
def takeWaiters : List Nat → List Waiter × List Nat
  | [] => ([], [])
  | n :: ws => takeMany takeWaiter n ws

/-- R268: a queue. -/
def queueWords (q : Queue) : List Nat :=
  [b01 q.init, q.base, q.cap, q.head, q.count] ++ tabWords q.allow ++ waitersWords q.pushers ++ waitersWords q.poppers

/-- A queue read back. -/
def takeQueue (ws : List Nat) : Queue × List Nat :=
  let a := takeTab (ws.drop 5)
  let p := takeWaiters a.2
  let q := takeWaiters p.2
  ({ init := ws.getD 0 0 == 1, base := ws.getD 1 0, cap := ws.getD 2 0, head := ws.getD 3 0, count := ws.getD 4 0
     allow := a.1, pushers := p.1, poppers := q.1 }, q.2)

/-- The sequencer, codebook, barrier and queue state of a block. -/
def partsWords (k : Block) : List Nat :=
  seqWords k.mseq ++ seqWords k.cseq ++ [k.x.bank]
    ++ ((k.x.lutA.toList ++ k.x.lutB.toList).flatMap fun t => listWords (t.map BitVec.toNat))
    ++ (k.x.mbars.toList.flatMap mbarWords) ++ (k.x.nbars.toList.flatMap nbarWords) ++ k.x.queues.toList.flatMap queueWords

/-- A block with this state read back. -/
def withParts (k : Block) (ws : List Nat) : Block :=
  let m := takeSeq k.mseq ws
  let c := takeSeq k.cseq m.2
  let luts := takeMany takeList 4 (c.2.drop 1)
  let ms := takeMany takeMBar 16 luts.2
  let ns := takeMany takeNBar 32 ms.2
  let qs := takeMany takeQueue 16 ns.2
  let lut (i : Nat) : List Word := (luts.1.getD i []).map (BitVec.ofNat 32)
  { k with
    mseq := m.1
    cseq := c.1
    x := { k.x with
      bank := c.2.getD 0 0
      lutA := Vector.ofFn fun i => lut i.val
      lutB := Vector.ofFn fun i => lut (2 + i.val)
      mbars := Vector.ofFn fun i => ms.1.getD i.val {}
      nbars := Vector.ofFn fun i => ns.1.getD i.val {}
      queues := Vector.ofFn fun i => qs.1.getD i.val {} } }

/-- Where this state stands in a block's backing region: after the accumulators, which begin at +1 MiB. -/
def partsVa (l : LaunchRec) (sblock : Nat) : Nat := backingVa l sblock + 0x240000

/-- R286, R412, R414: write the sequencer, codebook, barrier and queue state of a block to its backing region. -/
def saveParts (s : State) (b : Nat) : State :=
  match tget s.blocks b with
  | none => s
  | some k =>
    let l := recOf s k
    vaWrite s l.pasid (partsVa l k.sblock) ((listWords (partsWords k)).flatMap (toBytes 8))

/-- R286, R413, R414: read that state back. -/
def loadParts (s : State) (b : Nat) : State :=
  match tget s.blocks b with
  | none => s
  | some k =>
    let l := recOf s k
    let va := partsVa l k.sblock
    let n := (vaNat s l.pasid va 8).getD 0
    match vaRead s l.pasid (va + 8) (8 * n) with
    | none => s
    | some bs => modBlock s b fun k => withParts k ((List.range n).map fun i => ofBytes ((bs.drop (8 * i)).take 8))

end Sys2Proof.Machine
end

