-- ==== Sys2Proof/Machine/Moves.lean ====
section
/-!
DEFINITION. Register moves, the extended quota and kills (R165, R174 to R184).
-/
namespace Sys2Proof.Machine

/-- R176: base `mov`. -/
def execMovBase (o : BaseOps) (s : State) : Out :=
  issue (.movBase o) (fun c => writesOnly (c.put false o.d.toNat fun k => c.rd o.a.toNat k)) s

/-- R58, R176: base `movi`: nine bits, sign-extended. -/
def execMoviBase (g : Option Guard) (d : BitVec 8) (i : BitVec 9) (s : State) : Out :=
  issue (.moviBase g d i) (fun c => writesOnly (c.put false d.toNat fun _ => wrap 32 (signed 9 i.toNat))) s

/-- R58, R176: base `movi` with literal: its low word. -/
def execMoviBaseLiteral (g : Option Guard) (d : BitVec 8) (v : BitVec 64) (s : State) : Out :=
  issue (.moviBaseLiteral g d v) (fun c => writesOnly (c.put false d.toNat fun _ => v.toNat)) s

/-- R58, R176: `movi.i64`: the whole literal to a pair. -/
def execMoviI64 (g : Option Guard) (d : BitVec 8) (v : BitVec 64) (s : State) : Out :=
  issue (.moviI64 g d v) (fun c => writesOnly (c.put true d.toNat fun _ => v.toNat)) s

/-- R176: `mov`. -/
def execMov (o : ExtOps) (s : State) : Out :=
  issue (.mov o) (fun c => writesOnly (c.put (wideTy o) o.d.toNat (c.opA o))) s

/-- R176: the constant of the extended `movi`. -/
def moviValue (o : ExtOps) : Nat :=
  let w := tyWidth o.ty
  match o.lit with
  | some v => if w = 64 then v.toNat else v.toNat % 2 ^ 32
  | none =>
    let v := match o.ty with
      | .n32 | .n64 | .n16 | .n8 => immU o
      | _ => wrap w (immS o)
    if w ≥ 32 then v else ofElems w (List.replicate (32 / w) (v % 2 ^ w))

/-- R176: `movi`. -/
def execMovi (o : ExtOps) (s : State) : Out :=
  issue (.movi o) (fun c => writesOnly (c.put (wideTy o) o.d.toNat fun _ => moviValue o)) s

/-- R177: the selection: bit 0 of each element of C. -/
def selValue (w : Nat) (m a b : Nat) : Nat :=
  if w ≥ 32 then (if bit m 0 then a else b)
  else map3 w (fun x y z => if bit z 0 then x else y) a b m

/-- R177: `sel`. -/
def execSel (o : ExtOps) (s : State) : Out :=
  issue (.sel o) (fun c => writesOnly (c.put (wideTy o) o.d.toNat fun k =>
    selValue (tyWidth o.ty) (c.rd o.c.r.toNat k) (c.opA o k) (c.opBReg o k))) s

/-- R162: the groups of a logical team. -/
def teamGroups (b : Block) (lt : Nat) : List Nat := (b.groups.map (·.1)).filter fun g => g / 8 == lt

/-- R162: the size of a logical team's extended pool. -/
def poolSize (b : Block) (lt : Nat) : Nat :=
  1024 - ((teamGroups b lt).filterMap fun g => (tget b.groups g).map Group.base).sum

/-- R165, R178: the lines of the pool that are free: neither in a quota nor held after their release. -/
def poolFree (b : Block) (lt : Nat) : Nat :=
  poolSize b lt - ((teamGroups b lt).map fun g => match tget b.groups g with
    | none => 0
    | some x => x.quota + x.owed.length).sum

/-- R178: `xacq`. -/
def execXacq (o : ExtOps) (s : State) : Out :=
  issue (.xacq o) (fun c =>
    let n := immU o
    let lt := c.party / 8
    if n > c.g.ext - c.g.quota - c.g.asked ∨ n > poolSize c.b lt then .causes (causeAll .regx c.all)
    else if n = 0 then .ok {}
    else .ok {
      slice := some fun _ x => { x with wait := .xacq }
      post := fun s =>
        modTeam (modGroup s c.bid c.party fun g => { g with asked := g.asked + n }) c.b.core (teamOf c.b c.party)
          fun t => { t with xq := t.xq ++ [(c.bid, c.party, n, maskOf c.sl)] } }) s

/-- R170, R178: those that hold a line, killed meanwhile or not, and are not owed it already. -/
def holders (g : Group) (r : Nat) : List Nat :=
  ((g.holds.filter fun h => h.1 == r).map (·.2.1)).filter fun m => !g.owed.any fun o => o.1 == r && o.2.contains m

/-- R164, R167: whether a held line has still to be filled before it can keep its value through a kill. -/
def awaitsHold (g : Group) (r : Nat) : Bool :=
  (g.holds.any fun h => h.1 == r && h.2.2 == []) && ((tget g.lines r).map fun l => !l.resident).getD false

/-- R165, R167, R178: `xrel`. A line that is held rejoins the pool when those that hold it have read it. -/
def xrelBody (o : ExtOps) (c : Ctx) : Res :=
    let n := immU o
    let rs := span (c.g.base + c.g.quota - n) n
    let vs := c.sl.filter fun k => c.g.longs.any fun x => decide (0 < x.rem.getD k 0) && x.regs.any rs.contains
    if n > c.g.quota then .causes (causeAll .regx c.all)
    else if rs.any fun r => !(windowRegs c).contains r && (tcount c.g.pend r != 0 || awaitsHold c.g r) then .wait
    else if vs ≠ [] then .causes ((vs.map fun k => causeAll .lkv (actLanes c.g k)).flatten)
    else .ok {
      kills := rs
      post := fun s => modGroup s c.bid c.party fun g => { g with
        quota := g.quota - n
        owed := g.owed ++ (rs.map fun r => (r, holders c.g r)).filter fun l => !l.2.isEmpty } }

/-- R178: `xrel`. -/
def execXrel (o : ExtOps) (s : State) : Out := issue (.xrel o) (xrelBody o) s

/-- R179: `kill`. -/
def execKill (d : BitVec 8) (s : State) : Out := issue (.kill d) (fun _ => .ok {}) s

/-- R174: a cross-lane read of operand A: 0 when the lane has exited. -/
def Ctx.crossA (c : Ctx) (o : ExtOps) (lane : Nat) : Nat :=
  if (liveLanes c.g).contains lane then c.opA o lane else 0

/-- R180: the source lane of a shuffle, or none where an edge reads 0. -/
def shflLane (mode seg : Nat) (edge : Bool) (lane k : Nat) : Option Nat :=
  let n := 2 ^ seg
  let m := lane % n
  let base := lane - m
  match mode with
  | 0 => some (base + k % n)
  | 1 =>
    let t : Int := (m : Int) + signed 32 k
    if edge ∧ (t < 0 ∨ t ≥ (n : Int)) then none else some (base + (t % (n : Int)).toNat)
  | 2 => some (base + (n - 1 - m))
  | _ => some (base + (m ^^^ (k % n)))

/-- R180: `shfl`. DEDUCED (log 112): B is the register that its field names, an odd one too. -/
def execShfl (o : ExtOps) (s : State) : Out :=
  issue (.shfl o) (fun c =>
    let m := immU o
    writesOnly (c.put (wideTy o) o.d.toNat fun k =>
      match shflLane (bits m 0 2) (bits m 2 3) (bit m 5) k (modify o.b (tyWidth o.ty) (c.rd o.b.r.toNat k)) with
      | none => 0
      | some j => c.crossA o j)) s

/-- R181: `bcast`. -/
def execBcast (o : ExtOps) (s : State) : Out :=
  issue (.bcast o) (fun c => writesOnly (c.put (wideTy o) o.d.toNat fun _ => c.crossA o (bits (immU o) 0 5))) s

/-- R181: `rdlane`. -/
def execRdlane (o : ExtOps) (s : State) : Out :=
  issue (.rdlane o) (fun c =>
    let ts := c.lanes.map fun k => c.rd o.b.r.toNat k % 32
    if uniform ts then writesOnly (c.put (wideTy o) o.d.toNat fun _ => c.crossA o (ts.headD 0))
    else .causes (causeAll .nuni c.lanes)) s

/-- R181: `wrlane`. -/
def execWrlane (o : ExtOps) (s : State) : Out :=
  issue (.wrlane o) (fun c =>
    let ts := c.lanes.map fun k => c.rd o.b.r.toNat k % 32
    let vs := c.lanes.map fun k => c.rdTy o.ty o.a.r.toNat k
    if uniform ts && uniform vs then
      let t := ts.headD 32
      writesOnly ({ c with lanes := c.lanes.filter (· == t) }.put (wideTy o) o.d.toNat fun k => c.opA o k)
    else .causes (causeAll .nuni c.lanes)) s

/-- R182: the value of a vote for a lane. -/
def voteValue (mode : Nat) (lanes : List Nat) (a : Nat → Nat) (lane : Nat) : Nat :=
  let p := lanes.filter fun k => bit (a k) 0
  match mode with
  | 0 => maskOf p
  | 1 => p.length
  | 2 => p.headD 32
  | 3 => (p.filter (· < lane)).length
  | 4 => b01 (p.length == lanes.length)
  | 5 => b01 (!p.isEmpty)
  | _ => b01 (uniform (lanes.map a))

/-- R182: `vote`. -/
def execVote (o : ExtOps) (s : State) : Out :=
  issue (.vote o) (fun c => writesOnly (c.put false o.d.toNat
    (voteValue (bits (immU o) 0 3) c.lanes fun k => c.rd o.a.r.toNat k))) s

/-- R183: the four result bytes of `perm`. -/
def permValue (ims : Bool) (idx a b sel : Nat) : Nat :=
  let x := a + 2 ^ 32 * b
  ofElems 8 ((List.range 4).map fun j =>
    if ims then bits x (8 * bits idx (3 * j) 3) 8
    else
      let z := bits sel (8 * j) 8
      if bit z 7 then 0 else bits x (8 * bits z 0 3) 8)

/-- R183: `perm`. -/
def execPerm (o : ExtOps) (s : State) : Out :=
  issue (.perm o) (fun c => writesOnly (c.put false o.d.toNat fun k =>
    permValue (bit (immU o) 13) (bits (immU o) 0 12) (c.rd o.a.r.toNat k) (c.rd o.b.r.toNat k)
      (c.rd o.c.r.toNat k))) s

/-- R184: `pack`: the low halves of A and B. -/
def packValue (a b : Nat) : Nat := bits a 0 16 + 65536 * bits b 0 16

/-- R184: `unpack`: half `h` of the elements, widened. -/
def unpackValue (ty : Ty) (h a : Nat) : Nat :=
  let w := tyWidth ty
  let n := 32 / w
  ofElems w ((List.range n).map fun j =>
    let e := bits a (w * (h * (n / 2) + j / 2)) w
    if tyInt ty then
      if j % 2 = 0 then e else if tySigned ty ∧ bit e (w - 1) then 2 ^ w - 1 else 0
    else if j % 2 = 0 then 0 else e)

/-- R184: `pack`. -/
def execPack (o : ExtOps) (s : State) : Out :=
  issue (.pack o) (fun c => writesOnly (c.put false o.d.toNat fun k => packValue (c.opA o k) (c.opBReg o k))) s

/-- R184: `unpack`. -/
def execUnpack (o : ExtOps) (s : State) : Out :=
  issue (.unpack o) (fun c => writesOnly (c.put false o.d.toNat fun k =>
    unpackValue o.ty (bits (immU o) 0 1) (c.opA o k))) s

/-- R184: `swz`. -/
def execSwz (o : ExtOps) (s : State) : Out :=
  issue (.swz o) (fun c => writesOnly (c.put false o.d.toNat fun k =>
    swizzle (bits (immU o) 0 3) (tyWidth o.ty) (c.opA o k))) s

end Sys2Proof.Machine
end

