-- ==== Sys2Proof/Machine/Objects.lean ====
section
/-!
DEFINITION. The tables of a code object (R470, R476), the translator of portable objects (R66, R472), and loading (R470, R477). DESIGN CHOICE (log
121): the translator keeps the order of the records and leaves LK 0.
-/
namespace Sys2Proof.Machine

/-- A field of an object. -/
def objField (o : List Byte) (at_ n : Nat) : Nat := ofBytes ((o.drop at_).take n)

/-- R470: the digest in an object's header. -/
def objDigest (o : List Byte) : List Byte := (o.drop 48).take 32

/-- The bytes of a name. -/
def nameBytes (n : String) : List Byte := n.toList.map fun c => BitVec.ofNat 8 c.toNat

/-- R476: where import record `k` of an object stands in it. -/
def importAt (o : List Byte) (k : Nat) : Nat := objField o 44 4 + 32 * k

/-- R476: the symbol of import record `k`: the name at the offset in +16. -/
def importName (o : List Byte) (k : Nat) : List Byte := Config.nameAt o (objField o (importAt o k + 16) 4)

/-- R476: the number of the linkage entry of a symbol. -/
def linkageOf (o : List Byte) (sym : List Byte) : Option Nat :=
  (List.range (objField o 24 4)).find? fun j => Config.linkageName o j == sym

/-- R476: the offset of an object's resolver stub. -/
def resolverStub (o : List Byte) : Option Nat := Config.symbolAt o (nameBytes "link.resolve")

/-- R476: a relocation record: the offset of a literal's low word, the number of the import record, and what must be 0. -/
structure Reloc where
  off : Nat
  imp : Nat
  zero : Nat
  deriving DecidableEq, Repr

/-- R476: the relocation records of an object: 16 bytes each, in the section `.reloc`. -/
def relocs (o : List Byte) : List Reloc :=
  if objField o 32 4 = 0 ∨ objField o 40 4 = 0 then []
  else match Config.sectionNamed o (nameBytes ".reloc") with
    | none => []
    | some r => (List.range (r.2 / 16)).map fun k =>
        ⟨objField o (r.1 + 16 * k) 8, objField o (r.1 + 16 * k + 8) 4, objField o (r.1 + 16 * k + 12) 4⟩

/-- R470, R476: whether a relocation or import record names something beyond the object, or holds what must be 0. -/
def linksBad (o : List Byte) : Bool :=
  ((relocs o).any fun r => decide (o.length < r.off + 8) || decide (objField o 40 4 ≤ r.imp) || r.zero != 0)
    || (List.range (objField o 40 4)).any fun k =>
      decide (o.length ≤ objField o (importAt o k + 16) 4) || objField o (importAt o k + 20) 12 != 0

/-- An object with bytes of it replaced. -/
def patch (o : List Byte) (off : Nat) (bs : List Byte) : List Byte := o.take off ++ bs ++ o.drop (off + bs.length)

/-! ### Portable records (R472) -/

/-- R472: the mnemonics of which a portable object holds the base form. -/
def portableBase (i : Instr) : Bool :=
  match i with
  | .bra .. | .braLiteral .. | .brx .. | .call .. | .calli _ | .ret .. | .jn | .regang | .exit _ | .yield | .nop _
  | .kill _ | .trap _ | .tret | .brkpt => true
  | _ => false

/-- R472: the instruction of a 20-byte record, or none where the launch is refused. -/
def portable (bs : List Byte) : Option Instr :=
  let w := ofBytes bs
  let n := 32 * lenOf w
  if bs.length ≠ 20 ∨ w / 2 ^ n ≠ 0 then none
  else match decodeBits w with
    | .error _ => none
    | .ok i => match i.ext? with
      | some o => if o.lk = 0 then some i else none
      | none => if portableBase i then some i else none

/-- R472: the records of an object, in the order of its code sections: offset and instruction. -/
def records (o : List Byte) : List (Nat × Option Instr) :=
  (Config.codeSections o).flatMap fun r => (List.range ((r.2 + 19) / 20)).map fun k =>
    (r.1 + 20 * k, portable ((o.drop (r.1 + 20 * k)).take (min 20 (r.2 - 20 * k))))

/-! ### The shortest form (R66) -/

/-- R66: whether nothing that only an extended form can say stands in an instruction. -/
def plainExt (o : ExtOps) : Bool :=
  o.rm == .rn && !o.sat && o.lk == 0 && o.imm == 0 && o.lit.isNone && !o.a.h && !o.b.h && o.a.w == 0 && o.b.w == 0
    && o.c == ⟨0, false, false, 0⟩

/-- R53, R66: the base form with one source. -/
def shortOne (o : ExtOps) (s : Src) : BaseOps := ⟨o.g, o.d, s.r, s.last && s.r != o.d⟩

/-- R66: the base form of a two-source instruction, where its first source is its destination. -/
def shortTwo (i : Instr) (o : ExtOps) (tys : List Ty) (c : BaseOps → Instr) : Instr :=
  if plainExt o && tys.contains o.ty && o.a.r == o.d then c (shortOne o o.b) else i

/-- R66: the base form of a one-source instruction. -/
def shortUnary (i : Instr) (o : ExtOps) (tys : List Ty) (c : BaseOps → Instr) : Instr :=
  if plainExt o && tys.contains o.ty then c (shortOne o o.a) else i

/-- R66, R176: the base form of `movi`, by the value that it writes. -/
def shortMovi (o : ExtOps) : Instr :=
  let v := moviValue o
  if wideTy o then .moviI64 o.g o.d (BitVec.ofNat 64 v)
  else if v < 256 ∨ 2 ^ 32 - 256 ≤ v then .moviBase o.g o.d (BitVec.ofNat 9 v)
  else .moviBaseLiteral o.g o.d (BitVec.ofNat 64 v)

/-- R66: the shortest form that represents an instruction exactly. -/
def shorten (i : Instr) : Instr :=
  let int : List Ty := [.i32, .n32]
  match i with
  | .mov o => shortUnary i o [.i32, .n32, .f32, .f16, .bf16, .e4m3, .e5m2, .e2m1, .cb4, .i8, .n8, .i16, .n16] .movBase
  | .movi o => shortMovi o
  | .add o => shortTwo i o int .addBase
  | .sub o => shortTwo i o int .subBase
  | .mul o => shortTwo i o int .mulBase
  | .and o => shortTwo i o int .andBase
  | .or o => shortTwo i o int .orBase
  | .xor o => shortTwo i o int .xorBase
  | .andn o => shortTwo i o int .andnBase
  | .not o => shortUnary i o int .notBase
  | .shl o => shortTwo i o int .shlBase
  | .shr o => shortTwo i o int .shrBase
  | .sar o => shortTwo i o int .sarBase
  | .min o => if o.ty = .i32 then shortTwo i o [.i32] .minI32Base else shortTwo i o [.n32] .minN32Base
  | .max o => if o.ty = .i32 then shortTwo i o [.i32] .maxI32Base else shortTwo i o [.n32] .maxN32Base
  | .neg o => shortUnary i o int .negBase
  | .abs o => shortUnary i o int .absBase
  | .popc o => shortUnary i o int .popcBase
  | .clz o => shortUnary i o int .clzBase
  | .fadd o => shortTwo i o [.f32] .faddBase
  | .fsub o => shortTwo i o [.f32] .fsubBase
  | .fmul o => shortTwo i o [.f32] .fmulBase
  | .fneg o => shortUnary i o [.f32] .fnegBase
  | i => i

/-! ### Layout and targets -/

/-- R472: whether the `bra` that is record `n` reaches its target, `d` records on, in its base form: the target is a record of the
same run, and no form of the records between them takes it out of reach. -/
def reaches (rs : List (Nat × Option Instr)) (n off : Nat) (d : BitVec 17) : Bool :=
  let dest := (n : Int) + d.toInt
  decide (d.toInt.natAbs ≤ 13107) && decide (0 ≤ dest) && (rs[dest.toNat]?).map (fun r => (r.1 : Int)) == some (off + 20 * d.toInt)

/-- R66, R472: the form that record `n` takes in native code; a target is set later. -/
def formAt (rs : List (Nat × Option Instr)) (n off : Nat) (i : Instr) : Instr :=
  match i with
  | .bra g d => if reaches rs n off d then i else .braLiteral g 0
  | i => shorten i

/-- R472: where records of these forms stand: offset in the object and native address. -/
def layoutFrom : Nat → List (Nat × Option Instr) → List (Nat × Nat)
  | _, [] => []
  | at_, (off, i) :: rs => (off, at_) :: layoutFrom (at_ + 4 * (i.map lenWords).getD 0) rs

/-- R472: the forms of an object's records. -/
def forms (o : List Byte) : List (Nat × Option Instr) :=
  let rs := records o
  rs.mapIdx fun n r => (r.1, r.2.map (formAt rs n r.1))

/-- R472: where the records of an object stand in the native code: offset in the object and native address. -/
def layout (o : List Byte) : List (Nat × Nat) := layoutFrom (Config.translatedAt (objDigest o)) (forms o)

/-- R472: the address of an offset in an object loaded at `va`: that of the native code, if a portable record stands there. -/
def nativeVa (o : List Byte) (va off : Nat) : Nat :=
  if objField o 6 1 = 1 then (((layout o).find? fun r => r.1 == off).map (·.2)).getD (va + off) else va + off

/-- R472: the native form `j` of record `i`, at a native address, with its targets in native code: a `bra` offset counts records.
DEDUCED (log 121): a 64-bit literal that is the address of a record becomes that of its native code. -/
def retarget (o : List Byte) (va off at_ : Nat) (i j : Instr) : Instr :=
  let lit (v : BitVec 64) : BitVec 64 := if v.toNat < va then v else BitVec.ofNat 64 (nativeVa o va (v.toNat - va))
  match i, j with
  | .bra g d, .bra .. => .bra g (BitVec.ofInt 17 (((nativeVa o va ((off : Int) + 20 * d.toInt).toNat : Int) - at_) / 4))
  | .bra g d, _ => .braLiteral g (BitVec.ofNat 64 (nativeVa o va ((off : Int) + 20 * d.toInt).toNat))
  | _, .braLiteral g v => .braLiteral g (lit v)
  | _, .call g d v => .call g d (lit v)
  | _, .moviI64 g d v => .moviI64 g d (lit v)
  | _, j => j

/-- R472: the native code of a portable object at `va`: the address and bytes of each instruction. -/
def translation (o : List Byte) (va : Nat) : List (Nat × List Byte) :=
  ((records o).zip ((forms o).zip (layout o))).filterMap fun r =>
    match r.1.2, r.2.1.2 with
    | some i, some j => (encodeBytes (retarget o va r.1.1 r.2.2.2 i j)).map fun bs => (r.2.2.2, bs)
    | _, _ => none

/-! ### Loading (R470, R477) -/

/-- R477: whether the object at an address stays loaded. -/
def isLoaded (s : State) (pasid va : Nat) (digest : List Byte) : Bool :=
  s.front.loaded.any fun l => l.1 == pasid && l.2.1 == va && l.2.2.1 == digest

/-- R477: the address of the symbol of an import record, in the most recently loaded object that exports it, or 0. -/
def importAddr (s : State) (pasid : Nat) (o : List Byte) (k : Nat) : Nat :=
  let sym := importName o k
  (s.front.loaded.findSome? fun l =>
    if l.1 = pasid ∧ Config.exports l.2.2.2 sym then (Config.symbolAt l.2.2.2 sym).map (nativeVa l.2.2.2 l.2.1) else none).getD 0

/-- R471, R477: the bytes that the loader writes in an object that it loads at `va`: offset and bytes. -/
def linkWrites (s : State) (pasid va : Nat) (o : List Byte) : List (Nat × List Byte) :=
  let link (j : Nat) : Nat := objField o 28 4 + 8 * j
  ((List.range (objField o 40 4)).map fun k =>
    [(importAt o k, toBytes 8 (((linkageOf o (importName o k)).map fun j => va + link j).getD 0)),
     (importAt o k + 8, toBytes 8 (importAddr s pasid o k))]).flatten
  ++ ((List.range (objField o 24 4)).map fun j =>
    (link j, toBytes 8 (nativeVa o va (((Config.symbolAt o (Config.linkageName o j)).orElse fun _ => resolverStub o).getD 0))))
  ++ ((relocs o).map fun r => (r.off, toBytes 8 (importAddr s pasid o r.imp)))

/-- R471, R472, R477: the bytes that the loader writes for an object at `va`: in the object, and the native code of a portable one
as it is linked. -/
def loadWrites (s : State) (pasid va : Nat) (o : List Byte) : List (Nat × List Byte) :=
  let ws := linkWrites s pasid va o
  (ws.map fun w => (va + w.1, w.2))
  ++ (if objField o 6 1 = 1 then translation (ws.foldl (fun o w => patch o w.1 w.2) o) va else [])

/-- R470, R477: load an object, unless it stays loaded. -/
def loadObject (s : State) (pasid va : Nat) (o : List Byte) : State :=
  let dg := objDigest o
  if isLoaded s pasid va dg then s
  else
    let s1 := applyAll s (loadWrites s pasid va o) fun s w => agentWrite s pasid w.1 w.2
    let old := s1.front.loaded.filter fun l => !(l.1 == pasid && l.2.1 == va)
    { s1 with front := { s1.front with loaded := (pasid, va, dg, o) :: old } }

/-- R470, R472: where the code of a PASID's loaded objects stands: address and bytes. -/
def codeRanges (s : State) (pasid : Nat) : List (Nat × Nat) :=
  (s.front.loaded.filter fun l => l.1 == pasid).flatMap fun l =>
    (l.2.1, l.2.2.2.length) :: (if objField l.2.2.2 6 1 = 1 then (translation l.2.2.2 l.2.1).map fun w => (w.1, w.2.length) else [])

/-- R470: the code of a PASID as it stands at a launch: what a kernel stores there is not seen by instruction fetch until the
next. -/
def snapCode (s : State) (pasid : Nat) : State :=
  let new := (codeRanges s pasid).filterMap fun r => (vaRead s pasid r.1 r.2).map fun bs => (pasid, r.1, bs)
  { s with front := { s.front with code := new ++ s.front.code.filter fun c => c.1 != pasid } }

/-- R470: a byte as a core fetches it: that of the code at the last launch, or of memory as its die sees it. -/
def codeByte (s : State) (die pasid va pa : Nat) : Byte :=
  match s.front.code.find? fun c => c.1 == pasid && decide (c.2.1 ≤ va) && decide (va < c.2.1 + c.2.2.length) with
  | some c => c.2.2.getD (va - c.2.1) 0
  | none => viewCell s.mem die pa

end Sys2Proof.Machine
end

