-- ==== Sys2Proof/Machine/Control.lean ====
section
/-!
DEFINITION. Control flow (R137 to R149), traps (R426 to R429), waiting for time (R150) and phase hints (R434).
-/
namespace Sys2Proof.Machine

/-- R149: `nop`. -/
def execNop (g : Option Guard) (s : State) : Out := issue (.nop g) (fun _ => .ok {}) s

/-- R138, R141: a slice after a guarded branch; none if its stack overflows. `x` already stands after the branch; `t`
are the lanes that take it. -/
def braSlice (fwd : Bool) (target : DWord) (t : BitVec 4) (x : Slice) : Option Slice :=
  let act := x.act
  let n := act &&& ~~~t
  if x.act = 0 then some x
  else if fwd then
    if t = 0 then if x.stack.length < 8 then some { x with stack := .rejoin act :: x.stack } else none
    else if n = 0 then
      if x.stack.length < 8 then some { x with pc := target, stack := .rejoin act :: x.stack } else none
    else if x.stack.length < 7 then some { x with act := n, stack := .alt target t :: .rejoin act :: x.stack }
    else none
  else if t = 0 then some x
  else if n = 0 then some { x with pc := target }
  else if x.stack.isEmpty then some { x with pc := target, act := t, stack := [.rejoin act] }
  else some { x with pc := target, act := t }

/-- R138: the lanes of a slice that take a branch, as bits of the slice. -/
def takenMask (c : Ctx) (k : Nat) : BitVec 4 :=
  BitVec.ofNat 4 (maskOf ((List.range 4).filter fun j => c.lanes.contains (4 * k + j)))

/-- R143: `bra` with GE = 0: every slice goes to the target. -/
def braAll (target : DWord) : Effect := { slice := some fun _ x => { x with pc := target } }

/-- R138, R141, R143: the effect of a branch to `target`. `fwd` is true when it lies above the branch. A misaligned literal raises
MISA for every slice that has a taking lane, one that splits at a forward branch too (DESIGN CHOICE, log 105). -/
def braBody (gd : Option Guard) (target : DWord) (c : Ctx) : Res :=
  let fwd := decide (c.pc.toNat < target.toNat)
  let bad := bits target.toNat 0 2 != 0
  match c.sq with
  | some _ =>
    if !gd.isNone && !passes c.rd gd 0 then .ok {}
    else if bad then .causes (causeAll .misa [0] target.toNat)
    else .ok { seqPc := some target }
  | none =>
    let takes := c.sl.filter fun k => gd.isNone || takenMask c k != 0
    let ended := c.sl.filter fun k => match c.g.slices[k]? with
      | none => false
      | some x => !gd.isNone && (braSlice fwd target (takenMask c k) x).isNone
    let misa := if bad then (takes.map fun k => causeAll .misa (actLanes c.g k) target.toNat).flatten else []
    let dstk := (ended.map fun k => causeAll .dstk (actLanes c.g k)).flatten
    if misa ≠ [] ∨ dstk ≠ [] then .causes (misa ++ dstk)
    else if gd.isNone then .ok (braAll target)
    else .ok { slice := some fun k x => (braSlice fwd target (takenMask c k) x).getD x }

/-- R58, R143: base `bra`: a word offset from the branch. -/
def execBra (g : Option Guard) (off : BitVec 17) (s : State) : Out :=
  issue (.bra g off) (fun c => braBody g (c.pc + 4 * off.signExtend 64) c) s

/-- R58, R143: `bra` with a literal target. -/
def execBraLiteral (g : Option Guard) (v : BitVec 64) (s : State) : Out := issue (.braLiteral g v) (braBody g v) s

/-- R144: what the branch of one slice meets: causes, or the address it goes to (none: it falls through). -/
def jumpSlice (c : Ctx) (addr : Nat → Nat) (k : Nat) : Except (List LaneCause) (Option DWord) :=
  let act := actLanes c.g k
  let on := act.filter c.lanes.contains
  if on.isEmpty then .ok none
  else
    let as := on.map addr
    let nuni := if on.length != act.length || !uniform as then causeAll .nuni act else []
    let misa := (on.filter fun j => bits (addr j) 0 2 != 0).map fun j => (j, Cause.misa, addr j)
    if nuni.isEmpty && misa.isEmpty then .ok (some (BitVec.ofNat 64 (as.headD 0))) else .error (nuni ++ misa)

/-- R144, R145: a branch through addresses; `link` is the pair that receives the return address. -/
def jumpBody (addr : Nat → Nat) (link : Option Nat) (c : Ctx) : Res :=
  let rs := c.sl.map fun k => (k, jumpSlice c addr k)
  let cs := (rs.map fun x => match x.2 with
    | .error e => e
    | .ok _ => []).flatten
  if cs ≠ [] then .causes cs
  else
    let goes := rs.filterMap fun x => match x.2 with
      | .ok (some t) => some (x.1, t)
      | _ => none
    let ret := (c.pc + BitVec.ofNat 64 (lenBytes c.instr)).toNat
    let lanes := (goes.map fun x => actLanes c.g x.1).flatten
    .ok {
      writes := match link with
        | none => []
        | some d => { c with lanes := lanes }.put true d fun _ => ret
      slice := some fun k x => match goes.find? fun y => y.1 == k with
        | some y => { x with pc := y.2 }
        | none => x }

/-- R144: `brx`. -/
def execBrx (g : Option Guard) (a : BitVec 8) (la : Bool) (s : State) : Out :=
  issue (.brx g a la) (fun c => jumpBody (c.rd2 a.toNat) none c) s

/-- R144: `ret`. -/
def execRet (g : Option Guard) (a : BitVec 8) (la : Bool) (s : State) : Out :=
  issue (.ret g a la) (fun c => jumpBody (c.rd2 a.toNat) none c) s

/-- R145: `call`. -/
def execCall (g : Option Guard) (d : BitVec 8) (v : BitVec 64) (s : State) : Out :=
  issue (.call g d v) (fun c => jumpBody (fun _ => v.toNat) (some d.toNat) c) s

/-- R145: `calli`. -/
def execCalli (o : BaseOps) (s : State) : Out :=
  issue (.calli o) (fun c => jumpBody (c.rd2 o.a.toNat) (some o.d.toNat) c) s

/-- R139, R146: `jn`. -/
def execJn (s : State) : Out := issue .jn (fun _ => .ok { slice := some fun _ x => popSlice x }) s

/-- R147: `regang`. -/
def execRegang (s : State) : Out :=
  issue .regang (fun c => .ok {
    slice := some fun _ x => { x with wait := .regang }
    post := fun s => modGroup s c.bid c.party regangCheck }) s

/-- R137, R140: a slice whose lanes `off` have exited. -/
def exitSlice (off : BitVec 4) (x : Slice) : Slice :=
  let y := { x with
    act := x.act &&& ~~~off, live := x.live &&& ~~~off, stack := x.stack.map (SEntry.keep (x.live &&& ~~~off)) }
  if y.act = 0 then popSlice y else y

/-- R217 to R221: the records of a group that are still to be settled. -/
def groupRecs (b : Block) (gi : Nat) : List ParkRec := b.x.park.filter fun r => 8 * r.team + r.group == gi

/-- R148: whether a lane of these slices is pending. -/
def pendingIn (c : Ctx) : Bool :=
  (groupRecs c.b c.party).any fun r => r.lanes.any fun k => c.sl.contains (k / 4)

/-- R148, R173, R165: a group without a live lane gives up its rows and its quota. -/
def finishGroup (g : Group) : Group :=
  if groupLive g then g
  else { g with finished := true, lines := [], quota := 0, asked := 0, busy := [], aside := none, frame := 0 }

/-- R148, R410: `exit`. -/
def exitBody (gd : Option Guard) (c : Ctx) : Res :=
    if pendingIn c || c.g.longs.any fun x => !x.done then .wait
    else .ok {
      slice := some fun k x => exitSlice (takenMask c k) x
      post := fun s =>
        let inHandler := c.g.aside.isSome
        let s1 := modGroup s c.bid c.party fun g => finishGroup (regangCheck g)
        let gone := match (tget s1.blocks c.bid).bind fun k => tget k.groups c.party with
          | some g => !groupLive g
          | none => false
        let s2 := if inHandler && gone then takeHeldSlice (resumeBlock s1 c.bid) c.bid else s1
        afterExit s2 c.bid }

/-- R148, R410: `exit`. -/
def execExit (gd : Option Guard) (s : State) : Out := issue (.exit gd) (exitBody gd) s

/-- R129, R149: `yield`. -/
def execYield (s : State) : Out :=
  issue .yield (fun c => .ok {
    post := fun s => modTeam s c.b.core (teamOf c.b c.party) fun t =>
      { t with yielded := t.yielded ++ [(c.bid, c.party, c.sl.headD 0)] } }) s

/-- R150: `sleep`. -/
def execSleep (o : ExtOps) (s : State) : Out :=
  issue (.sleep o) (fun c =>
    let till := sref c.s + 16 * immU o
    if immU o = 0 then .ok {}
    else .ok {
      slice := some fun _ x => { x with wait := .sleep till }
      post := fun s =>
        if c.sq.isNone then s
        else modBlock s c.bid fun k =>
          if c.party = mseqParty then { k with mseq := { k.mseq with wait := .sleep till } }
          else { k with cseq := { k.cseq with wait := .sleep till } } }) s

/-- R437, R446: begin the exit of an island from near-threshold mode; an entry ramp that has not ended reverses, which is logged. -/
def islandExit (s : State) (core team : Nat) : State :=
  let mv := (dieOf s (dieOfCore core)).volt.toNat
  match ((coreOf s core).teams.getD team {}).island with
  | .nt => modTeam s core team fun t => { t with island := .exiting (sref s + (10 * (mv - 450))) 450 }
  | .entering till frm =>
    let now := sref s
    let at_ := 450 + (till - now) / 10
    if till ≤ now then modTeam s core team fun t => { t with island := .exiting (now + 10 * (mv - 450)) 450 } else
    let s1 := modTeam s core team fun t => { t with island := .exiting (now + 10 * (mv - min mv at_)) (min frm at_) }
    logErr s1 10 10 (location s (192 * dieOfCore core)) 0 3
  | _ => s

/-- R434, R437: `phint`. -/
def execPhint (o : ExtOps) (s : State) : Out :=
  issue (.phint o) (fun c =>
    let h : Hint := match immU o with
      | 0 => .compute
      | 1 => .memory
      | _ => .wait
    if c.lanes.isEmpty then .ok {}
    else .ok {
      post := fun s =>
        let s1 := modGroup s c.bid c.party fun g => { g with hint := h }
        if h = .compute then islandExit s1 c.b.core (teamOf c.b c.party) else s1 }) s

/-- R427: `trap`. -/
def execTrap (n : BitVec 8) (s : State) : Out :=
  issue (.trap n) (fun c => if c.lanes.isEmpty then .ok {} else .causes (causeAll .sysc c.lanes)) s

/-- R386, R428: whether the issuing gang holds every slice with a live lane. -/
def wholeGang (c : Ctx) : Bool :=
  (List.range 8).all fun k => match c.g.slices[k]? with
    | none => true
    | some x => x.live == 0 || c.sl.contains k

/-- R409, R428: the resume PC of a frame. -/
def resumePc (c : Ctx) : Nat := (vaNat c.s c.l.pasid (c.g.frame + 16) 8).getD 0

/-- R264, R428: whether a store of the group to the resume PC of its frame has still to perform. -/
def resumeWaits (c : Ctx) : Bool :=
  c.s.accesses.any fun a => !a.scr && a.op.writes && a.b == c.bid && a.party == c.party
    && a.ranges.any fun r => (List.range 8).any fun j =>
      ((devicePa c.s c.l.pasid (c.g.frame + 16 + j)).map fun p => decide (r.1 ≤ p) && decide (p < r.1 + r.2)).getD false

/-- R409, R428: `tret`: the return from an exception. It reads the resume PC after the group's own stores to it. -/
def tretBody (c : Ctx) : Res :=
    if c.g.aside.isNone then .causes (causeAll .ill c.sliceLanes)
    else if !wholeGang c then .causes (causeAll .nuni c.all)
    else if (c.g.longs.any fun x => !x.done) || resumeWaits c then .wait
    else
      let r := c.g.taken.getD { code := 0 }
      let pc := resumePc c
      .ok {
        post := fun s =>
          if r.seq then endLaunch s c.b.launch (0x0200 + r.code)
          else if bits pc 0 2 ≠ 0 then endLaunch s c.b.launch (0x0200 + causeCode .misa)
          else
            let which : BitVec 8 := if r.code = causeCode .sysc then 0xFF else r.slices
            let s1 := modGroup s c.bid c.party fun g => leaveHandler g (BitVec.ofNat 64 pc) which
            takeHeldSlice (resumeBlock s1 c.bid) c.bid }

/-- R409, R428: `tret`: the return from an exception. -/
def execTret (s : State) : Out := issue .tret (tretBody) s

/-- R412: a debugger halt of every placed block of a launch. -/
def debugHalt (s : State) (l : Nat) : State :=
  let bs := (s.blocks.filter fun x => x.2.launch == l && x.2.placed && !x.2.ended && !x.2.complete).map (·.1)
  let s1 := applyAll s bs fun s b =>
    match tget s.blocks b with
    | none => s
    | some k =>
      if k.h.halt = .running || (k.h.halt == .stopped && k.h.handler.isSome && k.h.why == some .cause) then haltBlock s b .dbg
      else if k.h.halt = .halting then modBlock s b fun k => { k with h := { k.h with dbgPend := true } }
      else
        let l := recOf s k
        applyAll (modBlock s b fun k => { k with h := { k.h with dbgPend := true } }) (liveGroups k) fun s gi =>
          let va := imageVa l k.sblock gi + 32770
          vaWrite s l.pasid va (toBytes 2 ((vaNat s l.pasid va 2).getD 0 ||| 8))
  { s1 with front := { s1.front with l := { s1.front.l with dbgState := 1, dbgLaunch := BitVec.ofNat 32 l } } }

/-- R397, R429: `brkpt`: its sub-gang stops at once. While another launch is held it waits (log 12). -/
def brkptBody (c : Ctx) : Res :=
    if !c.l.debug then .ok {}
    else if c.s.front.l.dbgLaunch ≠ 0 ∧ c.s.front.l.dbgLaunch.toNat ≠ c.b.launch then .wait
    else .ok {
      post := fun s =>
        let r : CauseRec := { code := 0x10, pc := c.pc + 4, words := wordsOf .brkpt, len := 4, slices := BitVec.ofNat 8 (maskOf c.sl),
                              scyc := (coreOf s c.b.core).scyc % 2 ^ 32, sreft := sref s }
        let s1 := modGroup s c.bid c.party fun g => if g.cause.isSome then { g with twice := true } else { g with cause := some r }
        debugHalt s1 c.b.launch }

/-- R429: `brkpt`. While another launch is held it waits (log 12). -/
def execBrkpt (s : State) : Out := issue .brkpt (brkptBody) s

end Sys2Proof.Machine
end

