-- ==== Sys2Proof/Machine/Accesses.lean ====
section
/-!
DEFINITION. Accesses: the checks at issue (R250, R320 to R322, R408), the order in which they may perform (R264 to R266,
R302, R330, R331, R362 to R367, R371), and what performing does (R275 to R277, R352 to R354, R374 to R377, R391 to
R393).
-/
namespace Sys2Proof.Machine

/-- The name of a party among all blocks. -/
def whoOf (b party : Nat) : Nat := 64 * b + party

/-- R266, R258: where byte `o` of row `i` stands: base, pitch, rotation code, row bytes. -/
def rowAddr (base pitch rc rb i o : Nat) : Nat :=
  if rc = 0 then base + i * pitch + o
  else
    let n := rb / 16
    base + i * pitch + 16 * ((o / 16) ^^^ ((i * rc) % n)) + o % 16

/-- R331: the 128-byte lines that an access touches, as ranges. -/
def Access.lines (a : Access) : List (Nat × Nat) :=
  a.ranges.map fun r => (r.1 / 128 * 128, (r.1 + r.2 + 127) / 128 * 128 - r.1 / 128 * 128)

/-- Whether two lists of ranges meet. -/
def segsMeet (a b : List (Nat × Nat)) : Bool := a.any fun x => b.any fun y => overlap x.1 x.2 y.1 y.2

/-- Whether two accesses touch a common byte of one space. -/
def meet (a b : Access) : Bool :=
  a.scr == b.scr && (!a.scr || a.tgt == b.tgt)
    && segsMeet a.ranges b.ranges

/-- R331: whether an access touches a line of another. -/
def lineMeet (a b : Access) : Bool := a.scr == b.scr && segsMeet a.lines b.ranges

/-- R360, R369: whether an access reads, as a fence counts it. -/
def AccOp.reads : AccOp → Bool
  | .read | .atomic .. | .redInt .. | .redFloat .. | .tileLoad .. | .redget .. => true
  | _ => false

/-- R363, R392: whether an access is ordered as a read before later accesses of its party: a `red`, which returns nothing, is
ordered as a write. -/
def AccOp.readsFirst : AccOp → Bool
  | .redInt .. | .redFloat .. => false
  | o => o.reads

/-- Whether an access moves a tile. -/
def AccOp.tile : AccOp → Bool
  | .tileLoad .. | .tileStore .. => true
  | _ => false

/-- R331: whether a locked tile holds these bytes. -/
def lockedBytes (s : State) (segs : List (Nat × Nat)) : Bool :=
  s.accesses.any fun t => t.op.tile && t.locked && segsMeet t.lines segs

/-- Give accesses of one instruction their names and their place in program order. -/
def pushAccesses (s : State) (as : List Access) : State :=
  let xs := as.mapIdx fun k a => { a with id := s.nextId + k, seq := s.seqNo }
  { s with accesses := s.accesses ++ xs, nextId := s.nextId + as.length, seqNo := s.seqNo + 1 }

/-! ### Scratchpad checks (R248 to R250) -/

/-- The block of a launch with this SBLOCK that is placed on a cluster. -/
def windowBlock (s : State) (launch sb cl : Nat) : Option (Nat × Block) :=
  s.blocks.find? fun x => x.2.launch == launch && x.2.sblock == sb && x.2.placed && !x.2.ended && !x.2.complete && x.2.h.halt != .swapped
    && clusterOfCore x.2.core == cl

/-- R249, R250, R275: the target of a scratchpad address, or its cause: block name and offset. Every block of a launch has the
same program area, so an offset outside it raises PERM whether or not its block is resident (R273, R404). -/
def scratchTarget (c : Ctx) (ea n : Nat) : Except Cause (Nat × Nat) :=
  if bit ea 31 then
    let sb := bits ea 20 11
    let off := bits ea 0 20
    if sb ≥ ((tget c.s.launches c.b.launch).map blocksDue).getD c.l.blocks then .error .perm
    else match windowBlock c.s c.b.launch sb (clusterOfCore c.b.core) with
      | none => .error (if off + n ≤ progSize c.b then .xlat else .perm)
      | some (b, k) => if off + n ≤ progSize k then .ok (b, off) else .error .perm
  else if ea + n ≤ progSize c.b then .ok (c.bid, ea)
  else .error .perm

/-- R249, R250, R275: the causes of a lane's scratchpad access. -/
def scratchCauses (c : Ctx) (load : Bool) (lane ea n : Nat) : List LaneCause :=
  (if ea % n ≠ 0 then [(lane, Cause.misa, ea)] else [])
    ++ (match scratchTarget c ea n with
        | .error x => [(lane, x, ea)]
        | .ok (b, off) =>
          if load && (((tget c.s.blocks b).map fun k => poisoned k.scrPoison off n).getD false) then
            [(lane, Cause.ecc, ea)] else [])

/-! ### Global checks (R320 to R322, R408) -/

/-- R321: what an access asks of a mapping, and what it may reach. -/
structure Need where
  r : Bool := false
  w : Bool := false
  atomic : Bool := false
  floatRed : Bool := false
  hostOk : Bool := true
  slot : Bool := false
  own : Bool := false
  misa : Bool := true

/-- R408: whether a handler's access names its own save slot as it may. -/
def slotOk (c : Ctx) (nd : Need) (ea n : Nat) : Bool :=
  nd.slot && c.g.aside.isSome && c.g.frame != 0 && decide (c.g.frame ≤ ea) && decide (ea + n ≤ c.g.frame + 128)
    && (!nd.w || (decide (c.g.frame + 16 ≤ ea) && decide (ea + n ≤ c.g.frame + 24)))

/-- R321, R322, R379, R380, R408: the causes of an access through a leaf. -/
def leafCauses (c : Ctx) (nd : Need) (lane ea n : Nat) (l : Leaf) : List LaneCause :=
  let k := physKind l.pa
  let slot := slotOk c nd ea n
  let bad := (!slot && (l.ctx || (nd.r && !l.r) || (nd.w && !l.w)))
    || k == .weight || k == .regs || k == .remote || k == .nothing
    || (nd.floatRed && l.sysatom) || (k == .host && nd.atomic && !nd.hostOk)
  (if bad then [(lane, Cause.perm, ea)] else [])
    ++ (if nd.r && poisoned c.s.mem.poison l.pa n then [(lane, Cause.ecc, ea)] else [])

/-- R320 to R322, R33: the causes of a lane's global access; none while its translation waits for the host. -/
def globalCauses (c : Ctx) (nd : Need) (lane ea n : Nat) : List LaneCause :=
  (if nd.misa ∧ ea % n ≠ 0 then [(lane, Cause.misa, ea)] else [])
    ++ (if ea ≥ 2 ^ 57 then [(lane, Cause.xlat, ea)]
        else match translate c.s c.l.pasid ea with
          | .absent _ => [(lane, Cause.xlat, ea)]
          | .ats _ => []
          | .ok l => leafCauses c nd lane ea n l)
    ++ (if nd.own && c.l.det && !inRange c.l.owns ea n then [(lane, Cause.own, ea)] else [])

/-- R447: whether an address waits for an ATS completion. -/
def atsWaits (c : Ctx) (ea : Nat) : Bool :=
  if ea ≥ 2 ^ 57 then false
  else match translate c.s c.l.pasid ea with
    | .ats _ => true
    | _ => false

/-- The physical address of a checked access. -/
def paOf (c : Ctx) (ea : Nat) : Nat :=
  match translate c.s c.l.pasid ea with
  | .ok l => l.pa
  | _ => 0

/-- R322, R491: log what the accesses of these lanes met: malformed entries, and addresses that hold nothing. -/
def noteLanes (c : Ctx) (eas : List Nat) (s : State) : State :=
  applyAll s eas fun s ea =>
    if ea ≥ 2 ^ 57 then s
    else
      let s1 := forgetAts (noteWalk s c.l.pasid ea (location s c.b.core)) c.l.pasid ea
      match translate s1 c.l.pasid ea with
      | .ok l => if physKind l.pa = .nothing then logErr s1 8 10 (location s c.b.core) l.pa 0 else s1
      | _ => s1

/-- Put an access in its place by address. -/
def insertAddr (a : Access) : List Access → List Access
  | [] => [a]
  | b :: bs => if a.addr < b.addr then a :: b :: bs else b :: insertAddr a bs

/-- R327: the accesses of one slice, merged when they cover one 16-byte unit. -/
def mergeSlice (as : List Access) : List Access :=
  let by_ := as.foldl (fun l a => insertAddr a l) []
  match by_ with
  | [] => []
  | a :: _ =>
    let n := a.len
    let k := by_.length
    if n * k = 16 ∧ 1 < k ∧ a.addr % 16 = 0 ∧ (by_.mapIdx fun i x => x.addr == a.addr + n * i).all id then
      [{ a with
          len := 16
          lanes := (by_.map Access.lanes).flatten
          op := match a.op with
            | .write _ => .write ((by_.map fun x => match x.op with
                | .write d => d
                | _ => []).flatten)
            | o => o }]
    else as

/-- R327: merge the accesses of an instruction, slice by slice. -/
def mergeLanes (as : List Access) : List Access :=
  ((List.range 8).map fun k => mergeSlice (as.filter fun a => (a.lanes.headD 0) / 4 == k)).flatten

/-! ### When an access may perform -/

/-- Whether the bytes of an access of a space meet an entry of its range scoreboard (R266). -/
def rangeHolds (k : Block) (a : Access) : Bool :=
  k.x.ranges.any fun r => r.owner != a.id && r.owner < a.id
    && (!r.out || a.op.writes) && overlap a.addr a.len r.lo (r.hi + 1 - r.lo)

/-- R302: whether a write of the name `id` meets operands, of a matrix instruction issued before it, that the engine has not
read. -/
def footHolds (k : Block) (id a n : Nat) : Bool :=
  k.x.mops.any fun m => !m.read && decide (m.id < id) && m.foot.any fun f => overlap a n f.1 f.2

/-- R266: whether an access or operand read named before `id` has not performed and meets these bytes of a block's space. A copy
issued after it writes them later, so that it sees no part of the copy (DEDUCED, log 93). -/
def earlierHolds (s : State) (b : Nat) (k : Block) (id a n : Nat) : Bool :=
  (s.accesses.any fun x => x.scr && x.tgt == b && decide (x.id < id) && overlap x.addr x.len a n)
    || k.x.mops.any fun m => !m.read && decide (m.id < id) && m.foot.any fun f => overlap a n f.1 f.2

/-- R254: whether every page of a range is resident. -/
def pagesIn (k : Block) (a n : Nat) : Bool :=
  (span (a / 4096) ((a + n - 1) / 4096 + 1 - a / 4096)).all fun p => ((tget k.pages p).map Page.resident).getD false

/-- R277: an atomic: the lanes of one instruction are served in lane order. -/
def isAtomic : AccOp → Bool
  | .atomic .. => true
  | _ => false

/-- Whether two accesses reach the same space. -/
def sameTarget (x a : Access) : Bool := x.scr && a.scr && x.tgt == a.tgt

/-- R264, R265, R267: whether access `x`, earlier in its party's list, holds back scratchpad access `a`: of the same space always,
of one instruction where both write a common byte or are served in lane order, and of another space where both only
read. DEDUCED (log 94): R267 forbids stale data to two such reads where the writer alone has a fence. -/
def scratchAfter (x a : Access) : Bool :=
  if x.seq = a.seq then sameTarget x a && x.op.writes && a.op.writes && (isAtomic a.op || meet x a)
  else sameTarget x a || x.acq || (x.scr && !x.op.writes && !a.op.writes)

/-- R264 to R266, R302, R371: whether a scratchpad access may perform, apart from the order of atomics. -/
def scratchAble (s : State) (a : Access) : Bool :=
  match tget s.blocks a.tgt with
  | none => true
  | some k =>
    pagesIn k a.addr a.len && !rangeHolds k a && !(a.op.writes && footHolds k a.id a.addr a.len)
      && (s.accesses.takeWhile fun x => x.id != a.id).all fun x =>
          x.b != a.b || x.party != a.party || !scratchAfter x a

/-- R277: the place of an atomic in its unit's service order: in a deterministic launch the block's own requests before those of
windows, these by SBLOCK, then by logical lane; else by physical team, then lane. -/
def atomKey (s : State) (a : Access) : Nat × Nat × Nat × Nat :=
  let k := tget s.blocks a.b
  let lane := logicalLane a.party (a.lanes.headD 0)
  if a.det then (b01 (a.b != a.tgt), if a.b = a.tgt then 0 else (k.map Block.sblock).getD 0, lane, a.id)
  else (0, (k.map fun k => teamOf k a.party).getD 0, lane % 256, a.id)

/-- Whether one service key comes before another. -/
def keyLt (x y : Nat × Nat × Nat × Nat) : Bool :=
  x.1 < y.1 || (x.1 == y.1 && (x.2.1 < y.2.1 || (x.2.1 == y.2.1 && (x.2.2.1 < y.2.2.1
    || (x.2.2.1 == y.2.2.1 && x.2.2.2 < y.2.2.2)))))

/-- R277: whether an atomic is served before another of the same unit: it arrived in an earlier matrix cycle, or in the same one with
the earlier key. DEDUCED (log 95): one arrives in the matrix cycle of its issue, a window request 48 ns later (R251). -/
def servedBefore (s : State) (x a : Access) : Bool :=
  isAtomic x.op && isAtomic a.op && x.scr && a.scr && x.id != a.id
    && (tget s.blocks x.tgt).map Block.core == (tget s.blocks a.tgt).map Block.core
    && (decide (x.arrive < a.arrive) || (x.arrive == a.arrive && keyLt (atomKey s x) (atomKey s a)))

/-- R264 to R266, R277, R302, R371: whether a scratchpad access may perform. -/
def scratchMay (s : State) (a : Access) : Bool :=
  scratchAble s a && !(s.accesses.any fun x => servedBefore s x a && scratchAble s x)

/-- R354: reads of the weight store are ordered with nothing. -/
def isWeight (a : Access) : Bool := !a.scr && physKind a.addr == .weight

/-- R363, R371: whether access `x`, earlier in its party's list, holds back access `a`. -/
def holdsBack (x a : Access) : Bool :=
  if isWeight x || isWeight a || x.landed then false
  else if x.seq = a.seq then x.op.writes && a.op.writes && meet x a
  else if x.scr then a.rel
  else x.acq || a.rel || x.op.readsFirst || a.op.writes || meet x a

/-- R346: the bank group of a weight offset. -/
def bankGroup (off : Nat) : Nat := off / 128 % 64

/-- R346, R156: whether bank group `g` of a die is in a refresh window. -/
def inRefresh (s : State) (d g : Nat) : Bool :=
  let start := (dieOf s d).swref.toNat + 1000 * g
  let now := sref s
  start ≤ now && decide ((now - start) % 64000 < 1500)

/-- R330, R331: whether a locked tile holds the access back. -/
def tileHolds (s : State) (a : Access) : Bool :=
  s.accesses.any fun t => t.id != a.id && t.op.tile && t.locked && lineMeet t a

/-- R332: whether an earlier `.blk` tile of the block has not performed. -/
def earlierTile (s : State) (a : Access) : Bool :=
  (s.accesses.takeWhile fun x => x.id != a.id).any fun x => x.b == a.b && x.op.tile && x.scope == 1

/-- The cells of a write. -/
def cellsOf (rs : List (Nat × Nat)) (data : List Byte) : List Host.Cell :=
  ((rs.map fun r => span r.1 r.2).flatten).zip data

/-- The observer that an access is. -/
def Access.viewer (a : Access) : Viewer := ⟨a.die, clusterOfCore a.core, a.b⟩

/-- R365: whether die `d` holds what came before the reductions of the live targets on these bytes. -/
def targetsKnown (s : State) (d : Nat) (rs : List (Nat × Nat)) : Bool :=
  rs.all fun r => (targetsAt s r.1 r.2).all fun t => clockLe t.clock (s.mem.clocks.getD d [])

/-- R362, R365, R373: whether die `d` may read these bytes: it holds what came before the reductions of a live target there, whose
value every die reads at its home, and every write that a synchronisation engine made of them. -/
def mayRead (s : State) (d : Nat) (rs : List (Nat × Nat)) : Bool :=
  targetsKnown s d rs && rs.all fun r =>
    s.mem.log.all fun w => !w.eng || w.applied.contains d || !(w.cells.any fun c => overlap c.1 1 r.1 r.2)

/-- The bytes of these ranges, as cells of no value. -/
def blankCells (rs : List (Nat × Nat)) : List Host.Cell := cellsOf rs (List.replicate ((rs.map (·.2)).sum) 0)

/-- R332, R360: the 4-byte words of a `.blk` tile that have not moved: number and address. -/
def Access.wordsLeft (a : Access) : List (Nat × Nat) :=
  (((a.ranges.map fun r => (List.range (r.2 / 4)).map fun k => r.1 + 4 * k).flatten).mapIdx fun k p => (k, p)).filter
    fun w => !(a.parts.any fun y => y.1 == w.1)

/-- R332: whether an access is a tile that no home serialises. -/
def Access.partial (a : Access) : Bool := a.op.tile && a.scope == 1

/-- The bytes that an access has still to move. -/
def Access.rest (a : Access) : List (Nat × Nat) :=
  if a.partial then a.wordsLeft.map fun w => (w.2, 4) else a.ranges

/-- R361 to R367, R346, R374: whether a global access may perform, or reach its engine. -/
def globalMay (s : State) (a : Access) : Bool :=
  let d := a.die
  ((s.accesses.takeWhile fun x => x.id != a.id).all fun x =>
      x.b != a.b || x.party != a.party || !holdsBack x a)
    && (!a.rel || s.mem.log.all fun w => w.who != whoOf a.b a.party || w.performed a.scope)
    && (if physKind a.addr = .weight then
          (!inRefresh s d (bankGroup (a.addr - weightBase d))) else true)
    && (if a.op.tile then (if a.scope = 1 then !earlierTile s a else a.locked) else !tileHolds s a)
    && (!(a.op.writes) || upToDate s.mem d (blankCells a.rest))
    && (match a.op with
        | .redFloat .. => true
        | _ => (!a.op.reads || mayRead s d a.rest) && (!a.op.writes || targetsKnown s d a.rest))
    && (match a.op with
        | .flush => (List.range 4).all fun e => upToDate s.mem e (blankCells a.ranges)
        | .tileStore .. => a.srcRead
        | .tileLoad rows rb base pitch _ =>
          (match tget s.blocks a.tgt with
            | none => true
            | some k => ((List.range rows).all fun i => pagesIn k (base + i * pitch) rb)
                && (let n := (rows - 1) * pitch + rb
                    !(k.x.ranges.any fun r => decide (r.owner < a.id) && overlap base n r.lo (r.hi + 1 - r.lo))
                      && !earlierHolds s a.tgt k a.id base n))
        | _ => true)

/-- R361: whether an access may perform now. -/
def mayPerform (s : State) (a : Access) : Bool := if a.scr then scratchMay s a else globalMay s a

/-- R361, R369: whether the write or read of this name has performed at a scope. -/
def performedAt (s : State) (id scope : Nat) : Bool :=
  (s.accesses.all fun a => a.id != id || a.landed)
    && (s.cores.all fun c => c.2.xfers.all fun x => x.id != id)
    && s.mem.log.all fun w => w.id != id || w.performed scope

/-! ### What performing does -/

/-- Join the words of a lane with those delivered before. -/
def joinWords : List Word → List Word → List Word
  | [], ys => ys
  | xs, [] => xs
  | x :: xs, y :: ys => (x ||| y) :: joinWords xs ys

/-- Add a lane's words to a result. -/
def addLane (r : List (Nat × List Word)) (lane : Nat) (ws : List Word) : List (Nat × List Word) :=
  match r with
  | [] => [(lane, ws)]
  | (k, v) :: t => if k = lane then (k, joinWords v ws) :: t else (k, v) :: addLane t lane ws

/-- The words that a lane receives from the bytes it read. -/
def lanesWords (signed : Bool) (shift : Nat) (bs : List Byte) : List Word :=
  let n := bs.length
  let v := ofBytes bs
  if n = 8 then [BitVec.ofNat 32 v, BitVec.ofNat 32 (v / 2 ^ 32)]
  else if signed ∧ n < 4 then [BitVec.ofNat 32 (wrap 32 (Machine.signed (8 * n) v))]
  else [BitVec.ofNat 32 (v * 2 ^ shift)]

/-- Deliver an access's bytes to the long instruction that waits for them. -/
def deliver (s : State) (a : Access) (bs : List Byte) (flags : Nat) : State :=
  match a.long with
  | none => s
  | some id =>
    let n := bs.length / (max 1 a.lanes.length)
    modGroup s a.b a.party fun g =>
      { g with longs := g.longs.map fun x =>
          if x.id = id ∧ !x.done then
            { x with
              res := (a.lanes.mapIdx fun k lane => (lane, k)).foldl (fun r y =>
                addLane r y.1 (lanesWords a.signed (16 * a.elemIx) ((bs.drop (n * y.2)).take n))) x.res,
              flags := x.flags ||| BitVec.ofNat 6 flags }
          else x }

/-- R277, R391: the new value of an atomic of code `code`; 8 is exchange, 9 compare and swap. -/
def atomicNew (code : Nat) (ty : Ty) (old opnd new : Nat) : Nat :=
  let w := tyWidth ty
  let less (a b : Nat) : Bool := if tySigned ty then decide (signed w a < signed w b) else decide (a < b)
  match code with
  | 0 => (old + opnd) % 2 ^ w
  | 1 => if less opnd old then opnd else old
  | 2 => if less old opnd then opnd else old
  | 3 => old &&& opnd
  | 4 => old ||| opnd
  | 5 => old ^^^ opnd
  | 6 => if old ≥ opnd then 0 else old + 1
  | 7 => if old = 0 ∨ old > opnd then opnd else old - 1
  | 8 => opnd
  | _ => if old = opnd then new else old

/-- Remove an access. -/
def dropAccess (s : State) (id : Nat) : State := { s with accesses := s.accesses.filter fun a => a.id != id }

/-- R254, R255: mark the pages of a range as touched, and as written. -/
def touchPages (k : Block) (a n t : Nat) (wr : Bool) : Block :=
  { k with pages := (span (a / 4096) ((a + n - 1) / 4096 + 1 - a / 4096)).foldl (fun ps p =>
      tmod ps p fun x => { x with used := t, dirty := x.dirty || wr, written := x.written || wr }) k.pages }

/-- Write bytes of a block's space. -/
def scrWrite (k : Block) (a t : Nat) (bs : List Byte) : Block :=
  touchPages { k with scr := wrCells k.scr a bs, scrPoison := clearPoison k.scrPoison a bs.length } a bs.length t true

/-- R264, R275 to R277: a scratchpad access performs. -/
def performScratch (s : State) (a : Access) : State :=
  match tget s.blocks a.tgt with
  | none =>
    deliver { s with tick := s.tick + 1 } a ((List.range a.len).map fun k => Config.openByte s.tick k) 0
  | some k =>
    let old := rdCells k.scr a.addr a.len
    match a.op with
    | .write d => modBlock s a.tgt fun k => scrWrite k a.addr (cycleOf s k) d
    | .atomic code ty opnd new =>
      let v := atomicNew code ty (ofBytes old) opnd new
      deliver (modBlock s a.tgt fun k => scrWrite k a.addr (cycleOf s k) (toBytes a.len v)) a old 0
    | _ => deliver (modBlock s a.tgt fun k => touchPages k a.addr a.len (cycleOf s k) false) a old 0

/-- R361, R377: a byte as an observer reads it: a live target reads as its value rounded in RNE. -/
def seenCell (s : State) (v : Viewer) (pa : Nat) : Byte := liveByte s pa (nearCell s.mem v pa)

/-- R364, R377: bytes as an observer reads them. -/
def seenBytes (s : State) (v : Viewer) (rs : List (Nat × Nat)) : List Byte :=
  ((rs.map fun r => span r.1 r.2).flatten).map (seenCell s v)

/-- R373, R376: a write of a synchronisation engine. -/
def enterEngine (m : Memory) (a : Access) (cells : List Host.Cell) : Memory :=
  enterWrite m a.id (whoOf a.b a.party) a.die cells true

/-- R377: write the RNE value of the targets that a write touches, and free them. DESIGN CHOICE (log 130): an integer `red` does
so too, before it operates. -/
def retireAt (s : State) (a : Access) : State :=
  applyAll s ((a.ranges.map fun r => targetsAt s r.1 r.2).flatten).eraseDups fun s t =>
    let s1 := modDie s (homeDie t.addr) fun k => { k with targets := k.targets.filter (· != t) }
    let n := tyWidth t.ty / 8
    { s1 with mem := enterEngine s1.mem a (cellsOf [(t.addr, n)] (toBytes n (t.value t.ty 0).1)) }

/-- R364, R366, R373: a write of an access enters the views: one that an engine performs, or of a wide scope, that of its die;
another first that of its observers, block or cluster. -/
def enterScoped (m : Memory) (a : Access) (who : Nat) (cells : List Host.Cell) : Memory :=
  match a.op with
  | .atomic .. | .redInt .. => enterWrite m a.id who a.die cells (!a.sysatom)
  | _ =>
    if a.scope = 1 then enterNear m a.id who a.die 1 a.b cells
    else if a.scope = 2 then enterNear m a.id who a.die 2 (clusterOfCore a.core) cells
    else enterWrite m a.id who a.die cells

/-- R159: the cells of a core's write that no image of a group on another core keeps out. -/
def landing (s : State) (core : Nat) (cells : List Host.Cell) : List Host.Cell :=
  let rs := imagePieces s (some core)
  if rs.isEmpty then cells else cells.filter fun c => !inPieces rs c.1

/-- A global write of an access, under a name of the log; it clears the poison of the granules that it fills (R418). -/
def writeAs (s : State) (a : Access) (who : Nat) (bs : List Byte) : State :=
  let s1 := retireAt s a
  let cells := cellsOf a.ranges bs
  let put := landing s1 a.core cells
  let m := enterScoped s1.mem a who put
  noteDiscard { s1 with mem := { m with poison := clearCells m.poison put } } (some a.core) (cells.map (·.1))

/-- A global write enters the views of its observers. -/
def writeGlobal (s : State) (a : Access) (bs : List Byte) : State := writeAs s a (whoOf a.b a.party) bs

/-- R358: the instruction caches drop their copies of a line of memory. What a later fill brings is the object's code (log 134). -/
def flushCode (s : State) (pa : Nat) : State :=
  applyAll s (s.cores.map (·.1)) fun s c => dropLines s c fun l =>
    (devicePa s l.pasid (128 * l.line)).map (· / 128) == some (pa / 128)

/-- R373, R381: the synchronisation engine holds the line of an atomic on a device page without SYSATOM. -/
def holdLine (s : State) (pa : Nat) : State :=
  match physKind pa with
  | .hbm | .lpddr => modDie s (homeDie pa) fun k =>
      { k with held := if k.held.contains (pa / 128) then k.held else pa / 128 :: k.held }
  | _ => s

/-- R375, R376: an exact sum at weight 2^-2176. -/
def toStore (x : XSum) : Int := x.s * 2 ^ (x.e + 2176).toNat

/-- R376: the special terms met so far, joined. -/
def joinFlags (f g : XFlags) : XFlags :=
  { nan := f.nan || g.nan, inv := f.inv || g.inv, nvs := f.nvs || g.nvs, pinf := f.pinf || g.pinf,
    ninf := f.ninf || g.ninf, zp := f.zp || g.zp, zn := f.zn || g.zn }

/-- R376: add terms to the target at an address, making it live if it is not: the location's current value is then its first
term. A die reads the target once it holds what die `view`, whose party adds, held (R365). -/
def addTarget (s : State) (launch pa : Nat) (ty : Ty) (term : XSum) (view : Nat) : State :=
  let n := tyWidth ty / 8
  let d := homeDie pa
  let clk := s.mem.clocks.getD view []
  match (dieOf s d).targets.find? fun t => t.addr == pa && tyWidth t.ty == tyWidth ty with
  | some t =>
    let new : Target := { t with
      ty := ty, sum := t.sum + toStore term, nz := t.nz || term.nz, fl := joinFlags t.fl term.fl, clock := clockJoin t.clock clk }
    modDie s d fun k => { k with targets := k.targets.map fun u => if u = t then new else u }
  | none =>
    let s1 := applyAll s (targetsAt s pa n) fun s t => retireTarget s d t 0
    let first := ({} : XSum).add (decodeF ty (ofBytes (homeBytes s1.mem pa n)))
    let sum : Target := { addr := pa, ty := ty, launch := launch, sum := toStore first + toStore term,
                          nz := first.nz || term.nz, fl := joinFlags first.fl term.fl, clock := clk }
    modDie s1 d fun k => { k with targets := k.targets ++ [sum] }

/-- R159, R376: a core's addition to a target; an image of a group on another core takes none. -/
def coreAdds (s : State) (core launch pa : Nat) (ty : Ty) (term : XSum) : State :=
  if inPieces (imagePieces s (some core)) pa then noteDiscard s (some core) [pa]
  else addTarget s launch pa ty term (dieOfCore core)

/-- R393: read a target, or the bytes of a location that is not live. -/
def performRedget (s : State) (a : Access) (ty : Ty) (mode : Nat) (fin : Bool) : State :=
  let d := homeDie a.addr
  match (dieOf s d).targets.find? fun t => t.addr == a.addr && tyWidth t.ty == tyWidth ty with
  | none => deliver s a (seenBytes s a.viewer a.ranges) 0
  | some t =>
    let v := t.value ty mode
    let bs := toBytes a.len v.1
    let s1 := if fin then
        let s2 := modDie s d fun k => { k with targets := k.targets.filter (· != t) }
        { s2 with mem := enterEngine s2.mem a (cellsOf a.ranges bs) }
      else s
    deliver s1 a bs v.2

/-- R353: the rows of a tile load are written to the block's space, and its entry retires. -/
def landTile (s : State) (a : Access) (rows rb base pitch rc : Nat) (bs : List Byte) : State :=
  modBlock s a.tgt fun k =>
    let k1 := (List.range rows).foldl (fun k i =>
      let row := (bs.drop (rb * i)).take rb
      let cells := row.mapIdx fun o v => (rowAddr base pitch rc rb i o, v)
      touchPages { k with scr := putCells k.scr cells, scrPoison := clearCells k.scrPoison cells } (base + i * pitch) rb (cycleOf s k) true) k
    { k1 with x := { k1.x with ranges := k1.x.ranges.filter fun r => r.owner != a.id } }

/-- R343: the front of a chunk, byte by byte; a byte on an absent page is that of the shadow. -/
def chunkFront (s : State) (pasid : Nat) (k : Chunk) : List Byte :=
  (List.range 65536).map fun o => match devicePa s pasid (k.va + o) with
    | some pa => homeSeen s pa
    | none => rdCell k.shadow o

/-- R343, R366: the chunks' writes of one `publish` enter together for the observers of its scope; for others they may come one by
one. -/
def enterSwap (m : Memory) (a : Access) (ps : List (List Host.Cell)) : Memory :=
  let who := whoOf a.b a.party
  let m1 :=
    if a.scope = 1 then ps.foldl (fun m c => enterNear m a.id who a.die 1 a.b c) m
    else if a.scope = 2 then ps.foldl (fun m c => enterNear m a.id who a.die 2 (clusterOfCore a.core) c) m
    else if a.scope = 3 then enterParts m a.id who a.die ps
    else enterWrite m a.id who a.die ps.flatten
  { m1 with log := m1.log.map fun w => if w.id = a.id then { w with vis := a.scope } else w }

/-- R343: the dirty chunks of a launch's buffer are swapped; an image of a group on another core keeps its bytes (R159). -/
def swapChunks (s : State) (a : Access) (va len : Nat) : State :=
  let ks := s.chunks.filter fun k => k.launch == a.launch && k.dirty && decide (va ≤ k.va) && decide (k.va < va + len)
  let pasid := ((tget s.launches a.launch).map fun l => l.r.pasid).getD 0
  let whole := ks.map fun k => vaCells s pasid k.va (rdCells k.shadow 0 65536)
  let parts := whole.map (landing s a.core)
  let s1 := applyAll s parts.flatten fun s c => retireAt s { a with segs := [(c.1, 1)] }
  let olds := ks.map fun k => (k.va, chunkFront s1 pasid k)
  noteDiscard { s1 with
    mem := enterSwap s1.mem a parts
    chunks := s1.chunks.map fun k =>
      match olds.find? fun o => o.1 == k.va && ks.contains k with
      | none => k
      | some o => { k with dirty := false, shadow := wrCells [] 0 o.2 } } (some a.core) (whole.flatten.map (·.1))

/-- R361: a global access performs. -/
def performGlobal (s : State) (a : Access) : State :=
  let old := seenBytes s a.viewer a.ranges
  match a.op with
  | .read => deliver s a old 0
  | .write d => writeGlobal s a d
  | .atomic code ty opnd new =>
    let v := atomicNew code ty (ofBytes old) opnd new
    let s1 := writeGlobal s a (toBytes a.len v)
    deliver (if a.sysatom then s1 else holdLine s1 a.addr) a old 0
  | .redInt code ty opnd =>
    let s1 := writeGlobal s a (toBytes a.len (atomicNew code ty (ofBytes old) opnd 0))
    if a.sysatom then s1 else holdLine s1 a.addr
  | .redFloat ty opnd =>
    holdLine (coreAdds s a.core a.launch a.addr ty (({} : XSum).add (decodeF ty opnd))) a.addr
  | .redget ty mode fin => performRedget s a ty mode fin
  | .tileLoad rows rb base pitch rc => landTile s a rows rb base pitch rc old
  | .tileStore .. => writeGlobal s a a.data
  | .swap va len => swapChunks s a va len
  | .flush => flushCode s a.addr

/-- R330: a tile's lock ends with it. -/
def unlock (s : State) (id : Nat) : State :=
  modClusters s fun _ k => { k with locks := k.locks.filter (· != id) }

/-- Change an access. -/
def modAccess (s : State) (id : Nat) (f : Access → Access) : State :=
  { s with accesses := s.accesses.map fun y => if y.id = id then f y else y }

/-- The bytes of a tile from its words. -/
def tileBytes (a : Access) : List Byte :=
  ((List.range ((a.ranges.map (·.2)).sum / 4)).map fun k =>
    ((a.parts.find? fun y => y.1 == k).map (·.2)).getD []).flatten

/-- R332, R360: a word of a `.blk` tile moves, which one is a free choice; with its last word the tile has performed. -/
def wordPerforms (s : State) (a : Access) : State :=
  let ws := a.wordsLeft
  match ws with
  | [] => s
  | w0 :: _ =>
    let pk := choose s ws.length
    let w := ws.getD pk.1 w0
    let bs := if a.op.writes then (a.data.drop (4 * w.1)).take 4 else seenBytes s a.viewer [(w.2, 4)]
    let s1 := if a.op.writes then writeGlobal pk.2 { a with segs := [(w.2, 4)] } bs else pk.2
    let a1 := { a with parts := a.parts ++ [(w.1, bs)] }
    if ws.length = 1 then
      let s2 := dropAccess s1 a.id
      tryComplete (match a.op with
        | .tileLoad rows rb base pitch rc => landTile s2 a rows rb base pitch rc (tileBytes a1)
        | _ => s2) a.b
    else modAccess s1 a.id fun _ => a1

/-- R330: a tile store that has written its bytes holds its lock until no copy of its lines stands in another view. -/
def tileLands (s : State) (a : Access) : State :=
  if s.mem.log.all fun w => w.id != a.id || w.performed 4 then tryComplete (unlock (dropAccess s a.id) a.id) a.b else s

/-- R361: an access performs. -/
def performNow (s : State) (a : Access) : State :=
  if a.partial then wordPerforms s a
  else if a.op.tile && a.op.writes then
    let s1 := performGlobal s a
    tileLands (modAccess s1 a.id fun y => { y with landed := true }) a
  else
    let s1 := dropAccess s a.id
    tryComplete (if a.scr then performScratch s1 a else unlock (performGlobal s1 a) a.id) a.b

/-- R374: whether an access is served by the synchronisation engine's rounds. -/
def roundServed (a : Access) : Bool :=
  a.det && !a.scr && (match a.op with
    | .atomic .. | .redInt .. | .redFloat .. => true
    | .redget _ _ fin => fin
    | _ => false)

/-- R361, R374: an access of a party performs; in deterministic mode an atomic first joins a round of its engine. -/
def laneAccessPerforms (x : Nat) (s : State) : State :=
  match s.accesses.find? fun a => a.id == x with
  | none => s
  | some a =>
    if a.landed then tileLands s a
    else if !mayPerform s a || a.queued then s
    else if roundServed a then
      modDie (modAccess s x fun y => { y with queued := true, arrive := sref s }) (homeDie a.addr) fun k =>
        { k with round := k.round ++ [x] }
    else performNow s a

/-- R374: the place of a request in its engine's service: its round of 256 ns, then SBLOCK, logical lane and issue order. -/
def roundKey (s : State) (a : Access) : Nat × Nat × Nat × Nat :=
  (a.arrive / 256, ((tget s.blocks a.b).map Block.sblock).getD 0, logicalLane a.party (a.lanes.headD 0), a.id)

/-- R374: put a request in its place. -/
def insertRound (s : State) (a : Access) : List Access → List Access
  | [] => [a]
  | b :: bs => if keyLt (roundKey s a) (roundKey s b) then a :: b :: bs else b :: insertRound s a bs

/-- R374: the requests of a die's engine whose round has ended, in their order. -/
def roundQueue (s : State) (d : Nat) : List Access :=
  (s.accesses.filter fun a => (dieOf s d).round.contains a.id && decide (a.arrive / 256 < sref s / 256)).foldl
    (fun l a => insertRound s a l) []

/-- R374: serve requests in order, as far as each can perform. -/
def serveRound (d : Nat) (s : State) : List Access → State
  | [] => s
  | a :: as =>
    if mayPerform s a then
      serveRound d (performNow (modDie s d fun k => { k with round := k.round.filter (· != a.id) }) a) as
    else s

/-- R374: deterministic rounds that have ended, each at a multiple of 256 ns of SREFT, are served in their fixed order; a request
that cannot yet perform holds back those after it. -/
def execSyncRoundEnd (d : Nat) (s : State) : Out := .next (serveRound d s (roundQueue s d))

/-- R365: a write is applied to another die's view, once its causal predecessors are. -/
def execCausalWriteApply (d x : Nat) (s : State) : Out :=
  if d < 4 ∧ mayApply s.mem d x then .next { s with mem := applyWrite s.mem d x } else .next s

/-- R330: whether a tile at the head of its home's queue may lock: a store alone, loads together. It locks once it
could perform. -/
def lockable (s : State) (a : Access) : Bool :=
  globalMay s { a with locked := true }
    && s.accesses.all fun t => t.id == a.id || !t.locked || !lineMeet t a || (!a.op.writes && !t.op.writes)

/-- R330: the first tile of a home's queue that has no lock takes it. -/
def execTileLockGrant (cl : Nat) (s : State) : Out :=
  let ids := (clusterOf s cl).locks
  match (ids.filterMap fun i => s.accesses.find? fun a => a.id == i).find? fun a => !a.locked with
  | none => .next s
  | some a =>
    if lockable s a then
      .next (modAccess s a.id fun y => { y with locked := true })
    else .next s

/-- R266, R353: the last source byte of an `stt` is read and its entry retires. Of a transfer, see Engines. -/
def tileSourceRead (s : State) (b x : Nat) : State :=
  match s.accesses.find? fun a => a.id == x, tget s.blocks b with
  | some a, some k =>
    match a.op with
    | .tileStore n rb base pitch rc =>
      let held := k.x.ranges.any fun r => !r.out && decide (r.owner < x)
        && overlap base ((n - 1) * pitch + rb) r.lo (r.hi + 1 - r.lo)
      if a.srcRead || held || !((List.range n).all fun i => pagesIn k (base + i * pitch) rb) then s
      else
        let data := ((List.range n).map fun i =>
          (List.range rb).map fun o => rdCell k.scr (rowAddr base pitch rc rb i o)).flatten
        let s1 := modAccess s x fun y => { y with srcRead := true, data := data }
        modBlock s1 b fun k =>
          let k1 := (List.range n).foldl (fun k i => touchPages k (base + i * pitch) rb (cycleOf s k) false) k
          { k1 with x := { k1.x with ranges := k1.x.ranges.filter fun r => r.owner != x } }
    | _ => s
  | _, _ => s

end Sys2Proof.Machine
end

