-- ==== Sys2Proof/Machine/Scratch.lean ====
section
/-!
DEFINITION. The scratchpad instructions (R248 to R264, R273 to R278), pages and pins (R252 to R256) and PAGE_REFILL.
-/
namespace Sys2Proof.Machine

/-! ### Pages (R252 to R255) -/

/-- R252: the blocks placed on a core that have not completed. -/
def blocksOn (s : State) (core : Nat) : List (Nat × Block) :=
  s.blocks.filter fun x => x.2.placed && !x.2.complete && x.2.core == core

/-- R252: the frames in use on a core. -/
def framesUsed (s : State) (core : Nat) : Nat :=
  ((blocksOn s core).map fun x => (x.2.pages.filter fun p => p.2.resident).length).sum

/-- R255: whether one candidate (used, slot, block, page) is the better victim. -/
def victimLt (a b : Nat × Nat × Nat × Nat) : Bool :=
  a.1 < b.1 || (a.1 == b.1 && (a.2.1 < b.2.1 || (a.2.1 == b.2.1 && a.2.2.2 < b.2.2.2)))

/-- R255: the least recently accessed unpinned resident page of a core: block and page. -/
def victimPage (s : State) (core : Nat) : Option (Nat × Nat) :=
  let cs := ((blocksOn s core).map fun x =>
    (x.2.pages.filter fun p => p.2.resident && !p.2.pinned).map fun p => (p.2.used, x.2.slot, x.1, p.1)).flatten
  match cs with
  | [] => none
  | c :: r =>
    let v := r.foldl (fun a b => if victimLt b a then b else a) c
    some (v.2.2.1, v.2.2.2)

/-- R255: a free frame on a core: nothing changes, or a victim leaves. -/
def freeFrame (s : State) (core : Nat) : Option State :=
  if framesUsed s core < 128 then some s
  else (victimPage s core).map fun v => evictPage s v.1 v.2

/-- R254: fill a frame with page `p` of a placed block; none where the backing region is absent. A page never written
is zeros. -/
def fillPage (s : State) (b p : Nat) : Option State :=
  match tget s.blocks b with
  | none => none
  | some k =>
    let x := (tget k.pages p).getD {}
    if x.resident then some s
    else if !k.placed || decide (progSize k + ringSize k ≤ 4096 * p) then none
    else
      match freeFrame s k.core with
      | none => none
      | some s1 =>
        let put (bs : List Byte) (bad : List Nat) : State :=
          modCore (modBlock s1 b fun k => { k with
            scr := wrCells k.scr (4096 * p) bs
            scrPoison := bad ++ k.scrPoison
            pages := tset k.pages p { x with resident := true, dirty := false, used := cycleOf s k } }) k.core
            fun c => { c with ctr := { c.ctr with spfill := c.ctr.spfill + 1 } }
        if x.written then
          let l := recOf s k
          let va := backingVa l k.sblock
          (vaRead s1 l.pasid (va + 4096 * p) 4096).map fun bs =>
            put bs ((span (128 * p) 128).filter fun g => vaPoisoned s1 l.pasid (va + 32 * g) 32)
        else some (put [] [])

/-- The pages that bytes of a space touch. -/
def pagesOf (a n : Nat) : List Nat := span (a / 4096) ((a + n - 1) / 4096 + 1 - a / 4096)

/-- R254: fill every page that these bytes touch. -/
def fillPages (s : State) (b a n : Nat) : Option State :=
  (pagesOf a n).foldl (fun r p => r.bind fun s => fillPage s b p) (some s)

/-- R254, R278: whether something waits for a page: an access, an operand read, a copy, or `sppin`, whose refills go in
increasing page order. -/
def pageWanted (s : State) (b p : Nat) (k : Block) : Bool :=
  (s.accesses.any fun a => a.scr && a.tgt == b && (pagesOf a.addr a.len).contains p)
    || (k.x.mops.any fun m => !m.read && m.foot.any fun f => (pagesOf f.1 f.2).contains p)
    || (k.x.ranges.any fun r => (pagesOf r.lo (r.hi + 1 - r.lo)).contains p)
    || (((tget k.pages p).map fun x => x.pinned && !x.resident).getD false
      && !(k.pages.any fun x => decide (x.1 < p) && x.2.pinned && !x.2.resident))

/-- R254: a page that something waits for is filled. -/
def execPageRefill (b p : Nat) (s : State) : Out :=
  match tget s.blocks b with
  | none => .next s
  | some k => if pageWanted s b p k then .next ((fillPage s b p).getD s) else .next s

/-! ### Accesses of lanes -/

/-- The latency that the opcode map gives an instruction. -/
def latencyOf (i : Instr) : Nat := ((opInfo i).map OpInfo.latency).getD 1

/-- R130: the long instruction that waits for an instruction's accesses. -/
def longFor (c : Ctx) (reg nregs : Nat) : LongX :=
  { id := c.s.nextId, reg := reg, nregs := nregs, op := ((opInfo c.instr).map opKey).getD 0
    sub := ((opInfo c.instr).map OpInfo.sub).getD 0, left := latencyOf c.instr - 1 }

/-- R275: a lane's scratchpad access. -/
def scrAccess (c : Ctx) (lane ea n : Nat) (op : AccOp) (long : Option Nat) (sg : Bool) : Access :=
  let t := match scratchTarget c ea n with
    | .ok t => t
    | .error _ => (c.bid, 0)
  { b := c.bid, party := c.party, die := dieOfCore c.b.core, core := c.b.core, op := op, scr := true, tgt := t.1
    va := ea, addr := t.2, len := n, lanes := [lane], long := long, signed := sg, launch := c.b.launch, det := c.l.det
    arrive := c.s.fabric + (if t.1 = c.bid then 0 else 63) }

/-- R260, R261: the bank cycles that an instruction's requests to the banks of one core lose to conflicts. -/
def bankLoss (as : List Access) : Nat :=
  let chunks := ((as.map fun a => (a.tgt, a.addr / 16))).eraseDups
  let most := (List.range 64).foldl (fun m b => max m (chunks.filter fun x => x.2 % 64 == b).length) 0
  most - 1

/-- R251: the core whose banks serve an access. -/
def bankCore (s : State) (a : Access) : Nat := ((tget s.blocks a.tgt).map Block.core).getD a.core

/-- R251, R261: count them at each target core. -/
def countBanks (as : List Access) (s : State) : State :=
  applyAll s (as.map (bankCore s)).eraseDups fun s c =>
    let n := bankLoss (as.filter fun a => bankCore s a == c)
    if n = 0 then s else modCore s c fun k => { k with ctr := { k.ctr with spbank := k.ctr.spbank + n } }

/-- R249, R275 to R277: an instruction of scratchpad accesses: of `n` bytes at `ea`, doing `op` in each lane. `dst` is
the register and number of registers that receive what is read. -/
def scrBody (c : Ctx) (n : Nat) (ea : Nat → Nat) (op : Nat → AccOp) (load sg : Bool) (dst : Option (Nat × Nat)) :
    Res :=
  let cs := (c.lanes.map fun k => scratchCauses c load k (ea k) n).flatten
  if cs ≠ [] then .causes cs
  else
    let long := dst.map fun _ => c.s.nextId
    let as := c.lanes.map fun k => scrAccess c k (ea k) n (op k) long sg
    .ok {
      long := dst.map fun d => longFor c d.1 d.2
      post := fun s => pushAccesses (countBanks as { s with nextId := s.nextId + b01 dst.isSome }) as }

/-- R275: the bytes that `lds` and `sts` move. -/
def moveBytes (o : ExtOps) : Nat := if ty64 o.ty then 8 else 4

/-- The registers of a destination. -/
def destRegs (o : ExtOps) : Nat × Nat := (o.d.toNat, if ty64 o.ty then 2 else 1)

/-- R275: `lds`. -/
def execLds (o : ExtOps) (s : State) : Out :=
  issue (.lds o) (fun c =>
    scrBody c (moveBytes o) (c.scratchEa o) (fun _ => .read) true false (some (destRegs o))) s

/-- R275: `sts`. -/
def execSts (o : ExtOps) (s : State) : Out :=
  issue (.sts o) (fun c =>
    scrBody c (moveBytes o) (c.scratchEa o) (fun k => .write (toBytes (moveBytes o) (c.opBReg o k))) false false none) s

/-- R276: `ldsg`. -/
def execLdsg (o : ExtOps) (s : State) : Out :=
  issue (.ldsg o) (fun c =>
    scrBody c (tyWidth o.ty / 8) (c.scratchEa o) (fun _ => .read) true (tySigned o.ty) (some (o.d.toNat, 1))) s

/-- R276: `stss`. -/
def execStss (o : ExtOps) (s : State) : Out :=
  issue (.stss o) (fun c =>
    scrBody c (tyWidth o.ty / 8) (c.scratchEa o)
      (fun k => .write (toBytes (tyWidth o.ty / 8) (c.rd o.b.r.toNat k))) false false none) s

/-- R277: `atoms.op`. -/
def execAtomsOp (o : ExtOps) (s : State) : Out :=
  issue (.atomsOp o) (fun c =>
    scrBody c (moveBytes o) (c.atomsEa o)
      (fun k => .atomic (bits (immU o) 10 4) o.ty (c.rdTy o.ty o.b.r.toNat k) 0) true false (some (destRegs o))) s

/-- R277: `atoms.xchg`. -/
def execAtomsXchg (o : ExtOps) (s : State) : Out :=
  issue (.atomsXchg o) (fun c =>
    scrBody c (moveBytes o) (c.atomsEa o)
      (fun k => .atomic 8 o.ty (c.rdTy o.ty o.b.r.toNat k) 0) true false (some (destRegs o))) s

/-- R277: `atoms.cas`. -/
def execAtomsCas (o : ExtOps) (s : State) : Out :=
  issue (.atomsCas o) (fun c =>
    scrBody c (moveBytes o) (c.atomsEa o)
      (fun k => .atomic 9 o.ty (c.rdTy o.ty o.b.r.toNat k) (c.rdTy o.ty o.c.r.toNat k)) true false
      (some (destRegs o))) s

/-- R253, R278: the program-area pages of a block that are pinned. -/
def pinnedPages (k : Block) : List Nat :=
  (k.pages.filter fun p => p.2.pinned && decide (4096 * p.1 < progSize k)).map (·.1)

/-- R278: set or clear pin marks. -/
def setPins (k : Block) (ps : List Nat) (v : Bool) : Block :=
  { k with pages := ps.foldl (fun t p => tset t p { (tget t p).getD {} with pinned := v }) k.pages }

/-- R278: the causes of `sppin` and `spfree`. -/
def pinBody (c : Ctx) (o : ExtOps) (pin : Bool) : Res :=
  let as := c.lanes.map fun k => c.rd o.a.r.toNat k
  let a := as.headD 0
  let ps := span (a / 4096) (immU o)
  let fresh := ps.filter fun p => !(pinnedPages c.b).contains p
  let tlim := if pin ∧ (pinnedPages c.b).length + fresh.length > 16 then causeAll .tlim c.lanes a else []
  let perm := if ps.any fun p => decide (progSize c.b ≤ 4096 * p) then causeAll .perm c.lanes a else []
  if c.lanes.isEmpty then .ok {}
  else if !uniform as then .causes (causeAll .nuni c.lanes)
  else if tlim ≠ [] ∨ perm ≠ [] then .causes (tlim ++ perm)
  else .ok { post := fun s => modBlock s c.bid fun k => setPins k ps pin }

/-- R278: `sppin`. -/
def execSppin (o : ExtOps) (s : State) : Out := issue (.sppin o) (fun c => pinBody c o true) s

/-- R278: `spfree`. -/
def execSpfree (o : ExtOps) (s : State) : Out := issue (.spfree o) (fun c => pinBody c o false) s

end Sys2Proof.Machine
end

