-- ==== Sys2Proof/Machine/Queues.lean ====
section
/-!
DEFINITION. Named queues (R268 to R272, R279) and QUEUE_WAITER_RESUME.
-/
namespace Sys2Proof.Machine

/-- R268: the producer number of a party; the copy sequencer is 32. -/
def producerOf (party : Nat) : Nat := if party = cseqParty then 32 else party

/-- The queue of a number. -/
def queueOf (k : Block) (q : Nat) : Queue := k.x.queues.getD q {}

/-- Change a queue of a block. -/
def modQueue (s : State) (b q : Nat) (f : Queue → Queue) : State :=
  modBlock s b fun k => { k with x := { k.x with queues := vmod k.x.queues q f } }

/-- The value that every active lane holds in a pair (R270). -/
def pairValue (c : Ctx) (r : Nat) : Nat := c.rd2 r (c.lanes.headD 0)

/-- R270: whether a register, or a pair, holds one value in every active lane. -/
def oneValue (c : Ctx) (pair : Bool) (r : Nat) : Bool :=
  uniform (c.lanes.map fun k => if pair then c.rd2 r k else c.rd r k)

/-- R263: whether a pair holds one value in every live lane of the group. -/
def oneLive (c : Ctx) (r : Nat) : Bool := uniform ((c.lanes ++ liveLanes c.g).map (c.rd2 r))

/-- R272: QERR in the issuing lanes. -/
def qerr (c : Ctx) : Res := .causes (causeAll .qerr c.lanes)

/-- The frame of a queue instruction (R270, R272): no active lane, no effect. -/
def queueBody (c : Ctx) (uni : Bool) (misuse : Bool) (r : Unit → Res) : Res :=
  if c.lanes.isEmpty then .ok {}
  else if !uni then .causes (causeAll .nuni c.lanes)
  else if misuse then qerr c
  else r ()

/-- R272: a capacity. -/
def capOk (n : Nat) : Bool := [2, 4, 8, 16, 32, 64, 128, 256, 512, 1024].contains n

/-- R279: `qinit`. -/
def execQinit (o : ExtOps) (s : State) : Out :=
  issue (.qinit o) (fun c =>
    let q := queueOf c.b (immU o)
    let base := c.rd o.a.r.toNat (c.lanes.headD 0)
    let cap := c.rd o.b.r.toNat (c.lanes.headD 0)
    queueBody c (oneValue c false o.a.r.toNat && oneValue c false o.b.r.toNat)
      (q.count != 0 || !q.pushers.isEmpty || !q.poppers.isEmpty || !capOk cap || base % 8 != 0
        || decide (progSize c.b < base + 8 * cap))
      fun _ => .ok { post := fun s => modQueue s c.bid (immU o) fun _ => { init := true, base := base, cap := cap } }) s

/-- R268: the send allowance of a producer. -/
def allowance (q : Queue) (p : Nat) : Nat := tcount q.allow p

/-- R279: `qallow`. -/
def execQallow (o : ExtOps) (s : State) : Out :=
  issue (.qallow o) (fun c =>
    let n := bits (immU o) 0 4
    let q := queueOf c.b n
    let p := bits (immU o) 4 6
    let v := allowance q p + c.rd o.a.r.toNat (c.lanes.headD 0)
    queueBody c (oneValue c false o.a.r.toNat) (!q.init || decide (32 < p) || decide (65535 < v))
      fun _ => .ok {
        post := fun s => dueEvents (modQueue s c.bid n fun q => { q with allow := tsetCount q.allow p v })
          [.queueWaiterResume c.bid n] }) s

/-- R264, R266, R302: whether a ring slot may be accessed now: no copy or operand read holds it back. -/
def slotFree (k : Block) (id a : Nat) (wr : Bool) : Bool :=
  !(k.x.ranges.any fun r => (!r.out || wr) && overlap a 8 r.lo (r.hi + 1 - r.lo)) && !(wr && footHolds k id a 8)

/-- R261, R266: whether a pop with a handle, or a push with room, of a block waits for a copy into or out of its ring slot. -/
def slotWaits (k : Block) : Bool :=
  let meets (a : Nat) (wr : Bool) : Bool := k.x.ranges.any fun r => (!r.out || wr) && overlap a 8 r.lo (r.hi + 1 - r.lo)
  k.x.queues.toList.any fun q =>
    ((q.poppers.any Waiter.got) && meets (q.base + 8 * q.head) false)
      || (!q.pushers.isEmpty && decide (q.count < q.cap) && meets (q.base + 8 * ((q.head + q.count) % q.cap)) true)

/-- R261, R266: whether `qtry` would wait for a copy into its ring slot. -/
def tryWaits (k : Block) (i : Option Instr) : Bool :=
  match i with
  | some (.qtry o) =>
    let q := queueOf k (immU o)
    q.count != 0 && k.x.ranges.any fun r => !r.out && overlap (q.base + 8 * q.head) 8 r.lo (r.hi + 1 - r.lo)
  | _ => false

/-- R271: a waiter joins those that blocked before it; of those that blocked in its cycle the lower producer number stands
first. -/
def enqueueWaiter (w : Waiter) : List Waiter → List Waiter
  | [] => [w]
  | v :: vs => if v.since = w.since ∧ w.party < v.party ∧ !v.got then w :: v :: vs else v :: enqueueWaiter w vs

/-- R271: the first of these waiters: in deterministic mode the one with the lowest producer number, else the one that blocked
first. -/
def firstWaiter (det : Bool) : List Waiter → Option Waiter
  | [] => none
  | w :: ws => match firstWaiter det ws with
    | none => some w
    | some v => if !det || decide (w.party ≤ v.party) then some w else some v

/-- R271: the handles assigned to blocked pops that have not resumed. -/
def assigned (q : Queue) : Nat := (q.poppers.filter Waiter.got).length

/-- R271: assign handles that no pop has to blocked pops, in their order. A pop with a handle stands behind those whose handles are
older, so that each takes its own from the head. The first argument bounds the number assigned. -/
def assignHandles (det : Bool) : Nat → Queue → Queue
  | 0, q => q
  | n + 1, q =>
    if assigned q < q.count then
      match firstWaiter det (q.poppers.filter fun w => !w.got) with
      | none => q
      | some w => assignHandles det n { q with
          poppers := q.poppers.filter Waiter.got ++ { w with got := true } :: (q.poppers.filter fun v => !v.got).erase w }
    else q

/-- R279: push: the ring slot is written. None while the slot cannot be reached. -/
def pushSlot (s : State) (b n : Nat) (det : Bool) (p : Nat) (h : DWord) : Option State :=
  match tget s.blocks b with
  | none => none
  | some k =>
    let q := queueOf k n
    let a := q.base + 8 * ((q.head + q.count) % q.cap)
    if slotFree k s.nextId a true then
      (fillPages s b a 8).map fun s1 =>
        let s2 := modBlock s1 b fun k => scrWrite k a (cycleOf s k) (toBytes 8 h.toNat)
        modQueue s2 b n fun q => assignHandles det (q.poppers.length) { q with
          count := q.count + 1
          allow := tsetCount q.allow p (allowance q p - 1) }
    else none

/-- R279: pop: the ring slot is read. None while it cannot be reached. -/
def popHandle (s : State) (b n : Nat) : Option (DWord × State) :=
  match tget s.blocks b with
  | none => none
  | some k =>
    let q := queueOf k n
    let a := q.base + 8 * q.head
    if slotFree k s.nextId a false then
      (fillPages s b a 8).bind fun s1 =>
        (tget s1.blocks b).map fun k1 =>
          (BitVec.ofNat 64 (ofBytes (rdCells k1.scr a 8)),
            modQueue (modBlock s1 b fun k => touchPages k a 8 (cycleOf s k) false) b n fun q =>
              { q with head := (q.head + 1) % q.cap, count := q.count - 1 })
    else none

/-- R265: whether an earlier scratchpad access of the party has not performed. -/
def scratchPending (s : State) (b party : Nat) : Bool :=
  s.accesses.any fun a => a.b == b && a.party == party && a.scr

/-- R264, R270: whether an earlier access of the party to its own block's space has not performed; the slot access of a pop
follows it in the party's program order. -/
def localPending (s : State) (b party : Nat) : Bool :=
  s.accesses.any fun a => a.b == b && a.party == party && a.scr && a.tgt == b

/-- R270, R271: the waiter that an instruction becomes. -/
def waiterOf (c : Ctx) (h : Nat) (dst : Nat) : Waiter :=
  { party := producerOf c.party, slices := BitVec.ofNat 8 (maskOf c.sl), lanes := maskOf c.lanes, dst := dst
    handle := BitVec.ofNat 64 h, since := (coreOf c.s c.b.core).scyc }

/-- R279: `qpush`. -/
def qpushBody (o : ExtOps) (c : Ctx) : Res :=
    let n := immU o
    let q := queueOf c.b n
    let p := producerOf c.party
    let h := pairValue c o.a.r.toNat
    queueBody c (oneValue c true o.a.r.toNat) (!q.init || decide (0xFFFFFFFF * 2 ^ 32 ≤ h)) fun _ =>
      if scratchPending c.s c.bid c.party then .wait
      else
        let now := if allowance q p = 0 ∨ q.count = q.cap then none
          else pushSlot c.s c.bid n c.l.det p (BitVec.ofNat 64 h)
        match now with
        | some _ => .ok {
            post := fun s =>
              dueEvents ((pushSlot s c.bid n c.l.det p (BitVec.ofNat 64 h)).getD s) [.queueWaiterResume c.bid n] }
        | none => .ok {
            slice := some fun _ x => { x with wait := .queue n }
            post := fun s =>
              let s1 := modQueue s c.bid n fun q => { q with pushers := enqueueWaiter (waiterOf c h 0) q.pushers }
              if c.sq.isNone then s1
              else modBlock s1 c.bid fun k => { k with cseq := { k.cseq with wait := .queue n } } }

/-- R279: `qpush`. -/
def execQpush (o : ExtOps) (s : State) : Out := issue (.qpush o) (qpushBody o) s

/-- R279: the effect of a pop that need not wait. -/
def popNow (c : Ctx) (o : ExtOps) (n : Nat) (h : DWord) : Res :=
  .ok {
    writes := c.put true o.d.toNat fun _ => h.toNat
    post := fun s => dueEvents (((popHandle s c.bid n).map (·.2)).getD s) [.queueWaiterResume c.bid n] }

/-- R279: `qpop`. A sequencer goes on while its pop is blocked (R284). -/
def qpopBody (o : ExtOps) (c : Ctx) : Res :=
    let n := immU o
    let q := queueOf c.b n
    queueBody c true (!q.init) fun _ =>
      if localPending c.s c.bid c.party then .wait
      else
      let now := if q.count = 0 ∨ 0 < assigned q ∨ !q.poppers.isEmpty then none else popHandle c.s c.bid n
      match now with
      | some (h, _) => popNow c o n h
      | none => .ok {
          slice := some fun _ x => { x with wait := .queue n }
          post := fun s =>
            let s1 := modQueue s c.bid n fun q =>
              assignHandles c.l.det (q.poppers.length + 1) { q with
                poppers := enqueueWaiter (waiterOf c 0 o.d.toNat) q.poppers }
            let s2 := dueEvents s1 [.queueWaiterResume c.bid n]
            if c.sq.isNone then s2
            else modBlock s2 c.bid fun k =>
              { k with cseq := { k.cseq with busy := k.cseq.busy ++ [o.d.toNat, o.d.toNat + 1] } } }

/-- R279: `qpop`. -/
def execQpop (o : ExtOps) (s : State) : Out := issue (.qpop o) (qpopBody o) s

/-- R279: `qtry`. -/
def qtryBody (o : ExtOps) (c : Ctx) : Res :=
    let n := immU o
    let q := queueOf c.b n
    queueBody c true (!q.init) fun _ =>
      if localPending c.s c.bid c.party then .wait
      else if q.count = 0 ∨ 0 < assigned q then writesOnly (c.put true o.d.toNat fun _ => 2 ^ 64 - 1)
      else match popHandle c.s c.bid n with
        | none => .wait
        | some (h, _) => popNow c o n h

/-- R279: `qtry`. -/
def execQtry (o : ExtOps) (s : State) : Out := issue (.qtry o) (qtryBody o) s

/-- The slices of a waiter go on. -/
def wakeWaiter (s : State) (b n : Nat) (w : Waiter) : State :=
  if w.party = 32 then modBlock s b fun k =>
    { k with cseq := { k.cseq with wait := if k.cseq.wait = .queue n then .none else k.cseq.wait } }
  else modGroup s b w.party fun g => endWait g w.slices (.queue n)

/-- R166: the registers that a blocked pop of a group still writes. -/
def Waiter.kept (w : Waiter) : List Nat := [w.dst, w.dst + 1].filter fun r => !w.dead.contains r

/-- R166, R270: the register writes of a resumed pop of a group. -/
def popWrites (w : Waiter) (h : DWord) : List (Nat × Nat × Nat) :=
  ((setBits 32 w.lanes).map (fun k => (w.dst, k, h.toNat % 2 ^ 32))
    ++ (setBits 32 w.lanes).map fun k => (w.dst + 1, k, h.toNat / 2 ^ 32)).filter fun x => w.kept.contains x.1

/-- R164, R170: whether the destination of a blocked pop can be written: no live line of it waits for its fill, and nothing holds it. -/
def popReady (k : Block) (w : Waiter) : Bool :=
  w.party == 32 || ((tget k.groups w.party).map fun g =>
    w.kept.all fun r => regReady g r && !g.holds.any fun h => h.1 == r).getD true

/-- R163, R169, R171, R279: a resumed pop's destination receives the handle. -/
def deliverHandle (s : State) (b : Nat) (w : Waiter) (h : DWord) : State :=
  let lo := h.toNat % 2 ^ 32
  let hi := h.toNat / 2 ^ 32
  if w.party = 32 then modBlock s b fun k => { k with cseq := { k.cseq with
      regs := (k.cseq.regs.setIfInBounds w.dst (BitVec.ofNat 32 lo)).setIfInBounds (w.dst + 1) (BitVec.ofNat 32 hi)
      busy := k.cseq.busy.filter fun r => r != w.dst && r != w.dst + 1 } }
  else match (tget s.blocks b).bind fun k => (tget k.groups w.party).map fun g => (k, g) with
    | none => s
    | some (k, g) =>
      let ws := popWrites w h
      let s1 := makeRoom k.core (teamOf k w.party) (rowsFor g w.kept) s
      countExpansions (modGroup s1 b w.party fun g => writeRegs g ws (coreOf s k.core).scyc) k w.party
        ((writtenRegs ws).filter (expands g ws)).length

/-- R271: the blocked push that resumes next. -/
def nextPush (det : Bool) (q : Queue) : Option Waiter :=
  if q.count = q.cap then none
  else firstWaiter det (q.pushers.filter fun w => allowance q w.party != 0)

/-- R271: the next waiter of a queue that can resume does: the pop with the oldest handle, else a push. -/
def execQueueWaiterResume (b n : Nat) (s : State) : Out :=
  match tget s.blocks b with
  | none => .next s
  | some k =>
    let det := (recOf s k).det
    let q := queueOf k n
    if k.h.halt ≠ .running ∧ k.h.halt ≠ .halting then .next s
    else match firstWaiter false (q.poppers.filter Waiter.got), nextPush det q with
      | some w, _ =>
        match if popReady k w then popHandle s b n else none with
        | none => .next s
        | some (h, s1) =>
          let s2 := modQueue s1 b n fun q => { q with poppers := q.poppers.filter (· != w) }
          .next (dueEvents (deliverHandle (wakeWaiter s2 b n w) b w h) [.queueWaiterResume b n])
      | none, some w =>
        match pushSlot s b n det w.party w.handle with
        | none => .next s
        | some s1 =>
          let s2 := modQueue s1 b n fun q => { q with pushers := q.pushers.filter (· != w) }
          .next (dueEvents (wakeWaiter s2 b n w) [.queueWaiterResume b n])
      | none, none => .next s

end Sys2Proof.Machine
end

