-- ==== Sys2Proof/Machine/Global.lean ====
section
/-!
DEFINITION. Lane accesses to global memory and to the weight store, tiles, `publish`, `prf`, `cflush` and `xprobe` (R320
to R333, R341 to R346, R350 to R359).
-/
namespace Sys2Proof.Machine

/-- R56, R350: the scope of an instruction; code 0 is `.pkg`. -/
def scopeOf (o : ExtOps) : Nat := if scopeCode o = 0 then 4 else scopeCode o

/-- R372: the scope and release of a plain store or atomic of this scope: revision 1 strengthens it. -/
def strengthen (c : Ctx) (scope : Nat) : Nat × Bool := if c.l.mmrev = 1 then (max scope 3, true) else (scope, false)

/-- A lane's global access. -/
def gloAccess (c : Ctx) (lane ea n : Nat) (op : AccOp) (long : Option Nat) : Access :=
  { b := c.bid, party := c.party, die := dieOfCore c.b.core, core := c.b.core, op := op, va := ea, addr := paOf c ea
    len := n, lanes := [lane], long := long, launch := c.b.launch, det := c.l.det
    sysatom := onSysatom c.s c.l.pasid ea }

/-- The frame of an instruction of lane accesses: the wait for an ATS translation (R447), without which a lane's causes are
not known (R404), then causes, then the accesses. -/
def gloIssue (c : Ctx) (eas : List Nat) (cs : List LaneCause) (dst : Option (Nat × Nat)) (flags : Nat)
    (as : List Access) : Res :=
  if eas.any (atsWaits c) then .wait
  else if cs ≠ [] then .causes cs (noteLanes c eas)
  else .ok {
    long := dst.map fun d => longFor c d.1 d.2
    flags := flags
    post := fun s => pushAccesses (noteLanes c eas { s with nextId := s.nextId + b01 dst.isSome }) as }

/-- R352: the body of a load or store of `n` bytes. -/
def gloBody (c : Ctx) (nd : Need) (n : Nat) (ea : Nat → Nat) (op : Nat → AccOp) (dst : Option (Nat × Nat)) (scope : Nat)
    (acq rel merge : Bool) : Res :=
  let cs := (c.lanes.map fun k => globalCauses c nd k (ea k) n).flatten
  let long := dst.map fun _ => c.s.nextId
  let as := c.lanes.map fun k => { gloAccess c k (ea k) n (op k) long with scope := scope, acq := acq, rel := rel }
  gloIssue c (c.lanes.map ea) cs dst 0 (if merge then mergeLanes as else as)

/-- R352: `ld`. -/
def ldBody (o : ExtOps) (c : Ctx) : Res :=
    gloBody c { r := true, slot := true } (moveBytes o) (c.globalEa o) (fun _ => .read) (some (destRegs o)) (scopeOf o)
      false false true

/-- R352: `ld`. -/
def execLd (o : ExtOps) (s : State) : Out := issue (.ld o) (ldBody o) s

/-- R352: the value that a lane stores. The literal of form xL is an offset, not operand B. -/
def storeOpnd (c : Ctx) (o : ExtOps) (lane : Nat) : Nat := c.opBReg { o with lit := none } lane

/-- R352: `st`. -/
def stBody (o : ExtOps) (c : Ctx) : Res :=
    let sr := strengthen c (scopeOf o)
    gloBody c { w := true, slot := true, own := true } (moveBytes o) (c.globalEa o)
      (fun k => .write (toBytes (moveBytes o) (storeOpnd c o k))) none sr.1 false sr.2 true

/-- R352: `st`. -/
def execSt (o : ExtOps) (s : State) : Out := issue (.st o) (stBody o) s

/-- R390: `ldacq`. -/
def ldacqBody (o : ExtOps) (c : Ctx) : Res :=
    gloBody c { r := true, slot := true } (moveBytes o) (c.globalEa o) (fun _ => .read) (some (destRegs o)) (scopeOf o)
      true false true

/-- R390: `ldacq`. -/
def execLdacq (o : ExtOps) (s : State) : Out := issue (.ldacq o) (ldacqBody o) s

/-- R390: `strel`. -/
def strelBody (o : ExtOps) (c : Ctx) : Res :=
    gloBody c { w := true, slot := true, own := true } (moveBytes o) (c.globalEa o)
      (fun k => .write (toBytes (moveBytes o) (storeOpnd c o k))) none (scopeOf o) false true true

/-- R390: `strel`. -/
def execStrel (o : ExtOps) (s : State) : Out := issue (.strel o) (strelBody o) s

/-- R345, R354: the causes of a read of the weight store. -/
def weightCauses (c : Ctx) (lane ea n : Nat) : List LaneCause :=
  (if ea % n ≠ 0 then [(lane, Cause.misa, ea)] else [])
    ++ (if ea ≥ 0x20000000 then [(lane, Cause.perm, ea)] else [])
    ++ (if poisoned c.s.mem.poison (weightBase (dieOfCore c.b.core) + ea) n then [(lane, Cause.ecc, ea)] else [])

/-- R354: `ldw`. -/
def execLdw (o : ExtOps) (s : State) : Out :=
  issue (.ldw o) (fun c =>
    let n := moveBytes o
    let cs := (c.lanes.map fun k => weightCauses c k (c.globalEa o k) n).flatten
    let base := weightBase (dieOfCore c.b.core)
    let d := destRegs o
    if cs ≠ [] then .causes cs
    else .ok {
      long := some (longFor c d.1 d.2)
      post := fun s => pushAccesses { s with nextId := s.nextId + 1 } (mergeLanes (c.lanes.map fun k =>
        { gloAccess c k 0 n .read (some c.s.nextId) with addr := base + c.globalEa o k, va := c.globalEa o k })) }) s

/-! ### Tiles (R328 to R333, R353) -/

/-- R262: a descriptor pair. -/
structure Desc where
  base : Nat
  rc : Nat
  rpitch : Nat
  tpitch : Nat
  rsv : Nat
  deriving DecidableEq, Repr

/-- R262: read a descriptor pair from its value. -/
def descOf (v : Nat) : Desc := ⟨bits v 0 20, bits v 20 4, bits v 32 16, bits v 48 16, bits v 24 8⟩

/-- R258: the row lengths that a rotation allows. -/
def rotRow (rb : Nat) : Bool := [32, 64, 128, 256, 512, 1024].contains rb

/-- R263: the end of a footprint: tile `t`, `rows` rows of `rb` bytes. -/
def Desc.stop (d : Desc) (t rows rb : Nat) : Nat := d.base + t * d.tpitch + (rows - 1) * d.rpitch + rb

/-- R263: the causes of a descriptor, apart from NUNI. -/
def descCauses (k : Block) (d : Desc) (t rows rb : Nat) : List Cause :=
  (if d.base % 16 ≠ 0 ∨ d.rpitch % 16 ≠ 0 ∨ d.tpitch % 16 ≠ 0 then [Cause.misa] else [])
    ++ (if d.rsv ≠ 0 ∨ d.rpitch < rb ∨ (d.rc ≠ 0 ∧ !rotRow rb) ∨ progSize k + ringSize k < d.stop t rows rb then
          [Cause.tlim] else [])
    ++ (if progSize k < d.stop t rows rb ∧ d.stop t rows rb ≤ progSize k + ringSize k then [Cause.perm] else [])

/-- A virtual range cut at 4 KiB boundaries: address and length of each piece. -/
def piecesFrom : Nat → Nat → Nat → List (Nat × Nat)
  | 0, _, _ => []
  | fuel + 1, va, n =>
    let m := min n (4096 - va % 4096)
    if n = 0 then [] else (va, m) :: piecesFrom fuel (va + m) (n - m)

/-- A virtual range cut at 4 KiB boundaries. -/
def pieces (va n : Nat) : List (Nat × Nat) := piecesFrom (n / 4096 + 2) va n

/-- The physical ranges of a virtual range. -/
def physPieces (c : Ctx) (va n : Nat) : List (Nat × Nat) := (pieces va n).map fun p => (paOf c p.1, p.2)

/-- R328: a tile instruction's operands. -/
structure TileArgs where
  a : Nat
  d : Desc
  rows : Nat
  rb : Nat
  pitch : Nat
  scope : Nat
  deriving DecidableEq, Repr

/-- R353: the operands of `ldt` and `stt`. -/
def tileArgs (c : Ctx) (o : ExtOps) : TileArgs :=
  let lane := c.lanes.headD 0
  let v := c.rd2 o.b.r.toNat lane
  { a := c.rd2 o.a.r.toNat lane
    d := { descOf v with tpitch := 0 }
    rows := bits v 56 8 + 1
    rb := 4 * (bits v 48 8 + 1)
    pitch := c.rd o.c.r.toNat lane
    scope := if o.d = 0 then 4 else o.d.toNat }

/-- R328, R329: the address of a row. -/
def TileArgs.row (t : TileArgs) (i : Nat) : Nat := t.a + i * t.pitch

/-- R328, R329: the causes of a tile's limits, alignment and scope. -/
def tileLimits (t : TileArgs) : List (Cause × Nat) :=
  (if t.a % 4 ≠ 0 ∨ (1 < t.rows ∧ t.pitch % 4 ≠ 0) then [(Cause.misa, t.a)] else [])
    ++ (if (1 < t.rows ∧ t.pitch < t.rb) ∨ 16384 < t.rows * t.rb then [(Cause.tlim, t.a)] else [])
    ++ (if t.scope ≠ 1 ∧ t.a / 65536 ≠ (t.row (t.rows - 1) + t.rb - 1) / 65536 then [(Cause.tspan, t.a)] else [])

/-- R321, R329: the causes of the pages that hold a byte of a row. -/
def tilePages (c : Ctx) (t : TileArgs) (nd : Need) : List (Cause × Nat) :=
  ((List.range t.rows).map fun i =>
    ((pieces (t.row i) t.rb).map fun p => (globalCauses c nd 0 p.1 p.2).map fun x => (x.2.1, x.2.2)).flatten).flatten

/-- R33: OWN for a tile store: all its rows lie in one declared range. -/
def tileOwn (c : Ctx) (t : TileArgs) : List (Cause × Nat) :=
  if c.l.det ∧ !(c.l.owns.any fun r => (List.range t.rows).all fun i => inRange [r] (t.row i) t.rb) then
    [(Cause.own, t.a)] else []

/-- R418: the poisoned rows that a tile store would read. -/
def tilePoison (c : Ctx) (t : TileArgs) : List (Cause × Nat) :=
  (List.range t.rows).filterMap fun i =>
    let a := t.d.base + i * t.d.rpitch
    if poisoned c.b.scrPoison a t.rb then some (Cause.ecc, a) else none

/-- R264, R266: what holds a descriptor back: a free entry of the range scoreboard. -/
def rangesFull (k : Block) : Bool := decide (32 ≤ k.x.ranges.length)

/-- R330: queue a tile at its home. -/
def queueTile (s : State) (scope pa id : Nat) : State :=
  if scope = 1 then s
  else modCluster s (homeCluster pa) fun k => { k with locks := k.locks ++ [id] }

/-- R353: the body of `ldt` and `stt`. -/
def tileBody (load : Bool) (o : ExtOps) (c : Ctx) : Res :=
  let t := tileArgs c o
  let nd : Need := { r := load, w := !load, misa := false }
  let eas := (List.range t.rows).map fun i => (pieces (t.row i) t.rb).map (·.1)
  if c.lanes.isEmpty then
    .ok (if load then { long := some { longFor c 0 0 with left := 0 }, post := fun s => { s with nextId := s.nextId + 1 } }
         else {})
  else if !(oneValue c true o.a.r.toNat && oneLive c o.b.r.toNat && oneValue c false o.c.r.toNat) then
    .causes (causeAll .nuni c.lanes)
  else
    let cs := ((descCauses c.b t.d 0 t.rows t.rb).map fun x => (x, t.d.base)) ++ tileLimits t
    let cs := cs ++ (if load then [] else tileOwn c t ++ tilePoison c t)
    let cs := cs ++ tilePages c t nd
    let sr := if load then (t.scope, false) else strengthen c t.scope
    let segs := ((List.range t.rows).map fun i => physPieces c (t.row i) t.rb).flatten
    let op : AccOp := if load then .tileLoad t.rows t.rb t.d.base t.d.rpitch t.d.rc
      else .tileStore t.rows t.rb t.d.base t.d.rpitch t.d.rc
    let id := c.s.nextId + b01 load
    let full := sr.1 ≠ 1 ∧ 64 ≤ (clusterOf c.s (homeCluster (paOf c t.a))).locks.length
    if eas.flatten.any (atsWaits c) then .wait
    else if cs ≠ [] then .causes (cs.map fun x => causeAll x.1 c.lanes x.2).flatten (noteLanes c eas.flatten)
    else if rangesFull c.b || decide full then .wait
    else .ok {
      long := if load then some { longFor c 0 0 with acc := [id] } else none
      post := fun s =>
        let s1 := noteLanes c eas.flatten { s with nextId := s.nextId + b01 load }
        let s2 := pushAccesses s1 [{ gloAccess c 0 t.a (t.rows * t.rb) op (if load then some c.s.nextId else none) with
          lanes := [], segs := segs, scope := sr.1, rel := sr.2, tgt := c.bid }]
        let s3 := modBlock s2 c.bid fun k => { k with x := { k.x with ranges := k.x.ranges ++
          [{ out := !load, lo := t.d.base, hi := t.d.stop 0 t.rows t.rb - 1, owner := id }] } }
        queueTile s3 sr.1 (paOf c t.a) id }

/-- R353: `ldt`. -/
def execLdt (o : ExtOps) (s : State) : Out := issue (.ldt o) (tileBody true o) s

/-- R353: `stt`. -/
def execStt (o : ExtOps) (s : State) : Out := issue (.stt o) (tileBody false o) s

/-! ### Publish, prefetch, flush and probe (R341 to R343, R356 to R359) -/

/-- R341: the buffer of the publish table that holds an address. -/
def bufferOf (l : LaunchRec) (va : Nat) : Option (Nat × Nat) :=
  l.publish.find? fun r => decide (r.1 ≤ va) && decide (va < r.1 + r.2)

/-- R335: the flags of a tensor shape record. -/
def tsrFlags (tsr : List Byte) : Nat := ofBytes ((tsr.drop 10).take 2)

/-- R335: the base address of a tensor shape record. -/
def tsrBase (tsr : List Byte) : Nat := ofBytes (tsr.take 8)

/-- R357: `prf` changes nothing that a program can read. -/
def execPrf (o : ExtOps) (s : State) : Out := issue (.prf o) (fun _ => .ok {}) s

/-- R358: `cflush`: the checks of a store, MISA excepted, then one access for the line of each lane, ordered as a store of it
(DESIGN CHOICE, log 99): it performs once every view holds what was written there. -/
def cflushBody (o : ExtOps) (c : Ctx) : Res :=
    let cs := (c.lanes.map fun k => globalCauses c { w := true, misa := false } k (c.globalEa o k) 1).flatten
    gloIssue c (c.lanes.map (c.globalEa o)) cs none 0 (c.lanes.map fun k =>
      { gloAccess c k (c.globalEa o k) 128 .flush none with addr := paOf c (c.globalEa o k) / 128 * 128 })

/-- R358: `cflush`. -/
def execCflush (o : ExtOps) (s : State) : Out := issue (.cflush o) (cflushBody o) s

/-- R359: the code of a page size. -/
def pageCode (size : Nat) : Nat :=
  match size with
  | 16 => 1
  | 21 => 2
  | 30 => 3
  | _ => 0

/-- R359: the word that `xprobe` gives for an address. -/
def probeWord (c : Ctx) (ea : Nat) : Nat :=
  if ea ≥ 2 ^ 57 then 0
  else match translate c.s c.l.pasid ea with
    | .ok l =>
      1 + 4 * b01 l.r + 8 * b01 l.w + 16 * b01 l.sysatom + 32 * b01 l.nc + 64 * b01 l.ctx
        + 128 * b01 (physKind l.pa == .host) + 256 * b01 (physKind l.pa == .remote)
        + 512 * b01 (bufferOf c.l ea).isSome + 1024 * pageCode l.size
    | _ => 0

/-- R359: `xprobe`. It waits for the host's answer on an ATS leaf; where there is no translation it finds none. -/
def xprobeBody (o : ExtOps) (c : Ctx) : Res :=
    let eas := c.lanes.map fun k => c.rd2 o.a.r.toNat k
    let notes := eas.filterMap (probeNote c.s c.l.pasid)
    if eas.any fun ea => atsWaits c ea && (probeNote c.s c.l.pasid ea).isNone then .wait
    else .ok {
      long := some { longFor c o.d.toNat 1 with
        res := c.lanes.map fun k => (k, [BitVec.ofNat 32 (probeWord c (c.rd2 o.a.r.toNat k))]) }
      post := fun s => applyAll { s with nextId := s.nextId + 1, ats := s.ats.filter fun t => !notes.contains t } eas fun s ea =>
        if ea ≥ 2 ^ 57 then s else noteWalk s c.l.pasid ea (location s c.b.core) }

/-- R359: `xprobe`. -/
def execXprobe (o : ExtOps) (s : State) : Out := issue (.xprobe o) (xprobeBody o) s

end Sys2Proof.Machine
end

