-- ==== Sys2Proof/Machine/Sync.lean ====
section
/-!
DEFINITION. Fences (R369, R370, R389), global atomics and reductions (R373 to R380, R391 to R393), named barriers (R383
to R385, R394) and the arrival at the step barrier (R386, R395).
-/
namespace Sys2Proof.Machine

/-! ### Fences -/

/-- The name under which the writes of a party's transfers stand in the log of writes. -/
def whoXfer (b party : Nat) : Nat := 2 ^ 40 + whoOf b party

/-- R369: whether a fence of this kind covers reads, and writes. -/
def fenceReads (kind : Nat) : Bool := kind == 1 || kind == 3
/-- R369. -/
def fenceWrites (kind : Nat) : Bool := kind == 0 || kind == 2 || kind == 3

/-- R369: the accesses and transfers that a fence of a group covers. -/
def fenceSet (s : State) (core b party kind : Nat) : List Nat :=
  let as := (s.accesses.filter fun a => a.b == b && a.party == party
    && ((fenceReads kind && a.op.reads) || (fenceWrites kind && a.op.writes))).map Access.id
  let xs := ((coreOf s core).xfers.filter fun x => x.b == b && x.party == party && !x.drain).map Xfer.id
  let ws := if fenceWrites kind then
      (s.mem.log.filter fun w => w.who == whoOf b party || w.who == whoXfer b party).map CWrite.id
    else []
  (as ++ xs ++ ws).eraseDups

/-- R369: whether the reads of an access or transfer have performed. -/
def readsDone (s : State) (id : Nat) : Bool :=
  (s.accesses.all fun a => a.id != id || a.landed)
    && s.cores.all fun c => c.2.xfers.all fun x => x.id != id || (x.dir == 1 && x.sourceRead)

/-- R369, R370: whether a fence is complete: one that covers reads alone waits for no write. -/
def fenceDone (s : State) (f : Fence) : Bool :=
  f.covers.all fun i => if fenceWrites f.kind then performedAt s i f.scope else readsDone s i

/-- R370: the fences of a group that are outstanding. -/
def openFences (s : State) (g : Group) : List Fence := g.fences.filter fun f => !fenceDone s f

/-- R389: `fence`. -/
def fenceBody (o : ExtOps) (c : Ctx) : Res :=
    let out := openFences c.s c.g
    let no := (c.g.fenceNo + 1) % 2 ^ 32
    if c.lanes.isEmpty then .ok {}
    else if 8 ≤ out.length then .wait
    else .ok {
      writes := c.put false o.d.toNat fun _ => no
      post := fun s => modGroup s c.bid c.party fun g => { g with
        fenceNo := no
        fences := out ++ [⟨no, immU o, scopeOf o, fenceSet s c.b.core c.bid c.party (immU o)⟩] } }

/-- R389: `fence`. -/
def execFence (o : ExtOps) (s : State) : Out := issue (.fence o) (fenceBody o) s

/-- R370: the outstanding fences that `fwait t` awaits; `latest` is the latest number given. -/
def fwaitSet (latest t : Nat) (out : List Fence) : List Nat :=
  let d := (t + 2 ^ 32 - latest) % 2 ^ 32
  let u := if 0 < d ∧ d < 2 ^ 31 then latest else t
  if t = 0 then [] else (out.filter fun f => decide ((u + 2 ^ 32 - f.no) % 2 ^ 32 < 2 ^ 31)).map Fence.no

/-- R389: `fwait`. -/
def execFwait (o : ExtOps) (s : State) : Out :=
  issue (.fwait o) (fun c =>
    let ts := c.lanes.map fun k => c.rd o.a.r.toNat k
    if c.lanes.isEmpty then .ok {}
    else if !uniform ts then .causes (causeAll .nuni c.lanes)
    else
      let toks := fwaitSet c.g.fenceNo (ts.headD 0) (openFences c.s c.g)
      if toks.isEmpty then .ok {} else .ok { slice := some fun _ x => { x with wait := .fwait toks } }) s

/-- R370: the slices of a group whose fences are complete go on. -/
def execFwaitRelease (b g : Nat) (s : State) : Out :=
  match (tget s.blocks b).bind fun k => tget k.groups g with
  | none => .next s
  | some gr =>
    let out := (openFences s gr).map Fence.no
    .next (modGroup s b g fun gr => { gr with
      fences := gr.fences.filter fun f => out.contains f.no
      slices := gr.slices.map fun x => match x.wait with
        | .fwait toks => if toks.any out.contains then x else { x with wait := .none }
        | _ => x })

/-! ### Atomics and reductions -/

/-- R56: whether an ordering code acquires, and whether it releases. -/
def ordAcq (n : Nat) : Bool := n == 1 || n == 3
/-- R56. -/
def ordRel (n : Nat) : Bool := n == 2 || n == 3

/-- R391: the body of `atom`: operation `code`, operand and new value of a lane. -/
def atomBody (c : Ctx) (o : ExtOps) (code : Nat) (ea opnd new : Nat → Nat) : Res :=
  let n := moveBytes o
  let nd : Need := { r := true, w := true, atomic := true, hostOk := code == 0 || code == 8 || code == 9 }
  let cs := (c.lanes.map fun k => globalCauses c nd k (ea k) n).flatten
  let ord := ordCode o
  let sr := if ord = 0 then strengthen c (scopeOf o) else (scopeOf o, false)
  let as := c.lanes.map fun k =>
    { gloAccess c k (ea k) n (.atomic code o.ty (opnd k) (new k)) (some c.s.nextId) with
      scope := sr.1, acq := ordAcq ord, rel := sr.2 || ordRel ord }
  gloIssue c (c.lanes.map ea) cs (some (destRegs o)) 0 as

/-- R391: `atom.op`. -/
def atomOpBody (o : ExtOps) (c : Ctx) : Res :=
  atomBody c o (bits (immU o) 10 4) (c.atomEa o) (fun k => c.rdTy o.ty o.b.r.toNat k) fun _ => 0

/-- R391: `atom.op`. -/
def execAtomOp (o : ExtOps) (s : State) : Out := issue (.atomOp o) (atomOpBody o) s

/-- R391: `atom.xchg`. -/
def atomXchgBody (o : ExtOps) (c : Ctx) : Res :=
  atomBody c o 8 (fun k => c.rd2 o.a.r.toNat k) (fun k => c.rdTy o.ty o.b.r.toNat k) fun _ => 0

/-- R391: `atom.xchg`. -/
def execAtomXchg (o : ExtOps) (s : State) : Out := issue (.atomXchg o) (atomXchgBody o) s

/-- R81, R391: `atom.cas`: the comparand, then the new value, from B on. -/
def atomCasBody (o : ExtOps) (c : Ctx) : Res :=
  let r := o.b.r.toNat
  atomBody c o 9 (fun k => c.rd2 o.a.r.toNat k) (fun k => c.rdTy o.ty r k)
    fun k => c.rdTy o.ty (if ty64 o.ty then r + 2 else r + 1) k

/-- R81, R391: `atom.cas`. -/
def execAtomCas (o : ExtOps) (s : State) : Out := issue (.atomCas o) (atomCasBody o) s

/-- R392: integer `red`. -/
def redIntBody (o : ExtOps) (c : Ctx) : Res :=
    let n := moveBytes o
    let code := bits (immU o) 10 4
    let nd : Need := { r := true, w := true, atomic := true, hostOk := code == 0 }
    let cs := (c.lanes.map fun k => globalCauses c nd k (c.atomEa o k) n).flatten
    let as := c.lanes.map fun k =>
      { gloAccess c k (c.atomEa o k) n (.redInt code o.ty (c.rdTy o.ty o.b.r.toNat k)) none with
        scope := scopeOf o, rel := ordRel (ordCode o) }
    gloIssue c (c.lanes.map (c.atomEa o)) cs none 0 as

/-- R392: integer `red`. -/
def execRedInt (o : ExtOps) (s : State) : Out := issue (.redInt o) (redIntBody o) s

/-- R392: the elements of a register word: count and bytes of each. -/
def redElems (ty : Ty) : Nat × Nat := if tyWidth ty = 16 then (2, 2) else (1, tyWidth ty / 8)

/-- R376, R378: a set of targets (address, bytes) with one more: those it overlaps leave first. -/
def addLive (shared : List (Nat × Nat)) (ts : List (Nat × Nat)) (t : Nat × Nat) : List (Nat × Nat) :=
  if ts.contains t || shared.contains t then ts else t :: ts.filter fun u => !overlap u.1 u.2 t.1 t.2

/-- R378: the targets of a die that another launch made live: address and bytes. -/
def sharedTargets (s : State) (launch d : Nat) : List (Nat × Nat) :=
  ((dieOf s d).targets.filter fun t => t.launch != launch).map fun t => (t.addr, tyWidth t.ty / 8)

/-- R378: the live targets of a launch on a die, those of reductions on their way with them. -/
def liveTargets (s : State) (launch d : Nat) : List (Nat × Nat) :=
  let now := ((dieOf s d).targets.filter fun t => t.launch == launch).map fun t => (t.addr, tyWidth t.ty / 8)
  let coming := s.accesses.filterMap fun a => match a.op with
    | .redFloat ty _ => if a.launch = launch ∧ homeDie a.addr = d then some (a.addr, tyWidth ty / 8) else none
    | _ => none
  coming.foldl (addLive (sharedTargets s launch d)) now

/-- R378: the first target whose addition would exceed the allowance of its die. -/
def overRt (s : State) (launch rt : Nat) (new : List (Nat × Nat × Nat)) : Option Nat :=
  let try_ (d : Nat) : Option Nat :=
    (new.foldl (fun (r : List (Nat × Nat) × Option Nat) t =>
      if homeDie t.1 = d ∧ r.2.isNone then
        let ts := addLive (sharedTargets s launch d) r.1 (t.1, t.2.1)
        if rt < ts.length then (ts, some t.2.2) else (ts, none)
      else r) (liveTargets s launch d, none)).2
  (List.range 4).findSome? try_

/-- R378, R404: whether a lane has a location that its `red` could make live: an aligned address with a translation. DEDUCED
(log 120): the lanes that count towards the allowance are these, whatever else they meet, and all active lanes raise TLIM. -/
def hasTarget (c : Ctx) (ea n : Nat) : Bool :=
  ea % n == 0 && ea < 2 ^ 57 && match translate c.s c.l.pasid ea with
    | .ok _ => true
    | _ => false

/-- R51, R392: floating `red`: each element of B, after half select and swizzle, adds to its own target. -/
def redFloatBody (o : ExtOps) (c : Ctx) : Res :=
    let word := moveBytes o
    let e := redElems o.ty
    let nd : Need := { r := true, w := true, atomic := true, floatRed := true, hostOk := false }
    let cs := (c.lanes.map fun k => globalCauses c nd k (c.atomEa o k) word).flatten
    let items := (c.lanes.map fun k => (List.range e.1).map fun i =>
      (k, c.atomEa o k + e.2 * i, bits (c.opBReg o k) (8 * e.2 * i) (8 * e.2))).flatten
    let as := items.map fun x =>
      { gloAccess c x.1 x.2.1 e.2 (.redFloat o.ty x.2.2) none with scope := scopeOf o, rel := ordRel (ordCode o) }
    let new := items.filter fun x => hasTarget c (c.atomEa o x.1) word
    let cs := cs ++ match overRt c.s c.b.launch c.l.rt (new.map fun x => (paOf c x.2.1, e.2, x.2.1)) with
      | none => []
      | some va => causeAll .tlim c.lanes va
    let nv := items.any fun x => match decodeF o.ty x.2.2 with
      | .nan sg => sg
      | _ => false
    gloIssue c (c.lanes.map (c.atomEa o)) cs none (flagIf nv fNV) as

/-- R392: floating `red`: each element adds to its own target. -/
def execRedFloat (o : ExtOps) (s : State) : Out := issue (.redFloat o) (redFloatBody o) s

/-- R393: `redget`. -/
def redgetBody (o : ExtOps) (c : Ctx) : Res :=
    let word := moveBytes o
    let e := redElems o.ty
    let fin := bit (immU o) 10
    let nd : Need := { r := true, w := fin }
    let cs := (c.lanes.map fun k => globalCauses c nd k (c.atomEa o k) word).flatten
    let as := (c.lanes.map fun k => (List.range e.1).map fun i =>
      { gloAccess c k (c.atomEa o k + e.2 * i) e.2 (.redget o.ty (c.mode o.rm) fin) (some c.s.nextId) with
        scope := scopeOf o, acq := ordAcq (ordCode o), elemIx := i }).flatten
    gloIssue c (c.lanes.map (c.atomEa o)) cs (some (destRegs o)) 0 as

/-- R393: `redget`. -/
def execRedget (o : ExtOps) (s : State) : Out := issue (.redget o) (redgetBody o) s

/-! ### Named barriers -/

/-- The barrier of a number. -/
def nbarOf (k : Block) (n : Nat) : NBar := k.x.nbars.getD n {}

/-- Change a named barrier. -/
def modNbar (s : State) (b n : Nat) (f : NBar → NBar) : State :=
  modBlock s b fun k => { k with x := { k.x with nbars := vmod k.x.nbars n f } }

/-- R265, R384: whether an access of the party, or a blocked pop of the sequencer, holds back an arrival. -/
def arrivalWaits (c : Ctx) : Bool :=
  (c.s.accesses.any fun a => a.b == c.bid && a.party == c.party && !isWeight a && !a.landed)
    || (match c.sq with
        | some q => !q.busy.isEmpty
        | none => false)

/-- R384: an arrival with expectation `e` and contribution `n`. -/
def arrive (x : NBar) (e n : Nat) : Except Cause NBar :=
  if e = 0 then .error .barm
  else if x.e.isSome && x.e != some e then .error .barm
  else if x.total + n > e then .error .bovf
  else if x.total + n = e then .ok { x with total := 0, e := none, c := (x.c + 1) % 2 ^ 32 }
  else .ok { x with total := x.total + n, e := some e }

/-- R384: the body of `bar` and `barv`. -/
def barBody (c : Ctx) (o : ExtOps) (wait : Bool) : Res :=
  let n := immU o
  let as := c.lanes.map fun k => c.rd o.a.r.toNat k
  let e := bits (as.headD 0) 0 16
  let x := nbarOf c.b n
  if c.lanes.isEmpty then .ok {}
  else if !uniform (as.map fun a => bits a 0 16) then .causes (causeAll .nuni c.lanes)
  else if arrivalWaits c then .wait
  else match arrive x e ((as.map fun a => bits a 16 16).sum) with
    | .error q => .causes (causeAll q c.lanes)
    | .ok y =>
      let phase := (x.c + 1) % 2 ^ 32
      .ok {
        slice := if wait then some fun _ z => { z with wait := .bar n phase } else none
        post := fun s =>
          let s1 := modNbar s c.bid n fun _ => y
          let s2 := if wait ∧ c.sq.isSome then
              modBlock s1 c.bid fun k => { k with cseq := { k.cseq with wait := .bar n phase } }
            else s1
          dueEvents s2 [.namedBarrierRelease c.bid n] }

/-- R394: `bar`. -/
def execBar (o : ExtOps) (s : State) : Out := issue (.bar o) (fun c => barBody c o true) s

/-- R394: `barv`. -/
def execBarv (o : ExtOps) (s : State) : Out := issue (.barv o) (fun c => barBody c o false) s

/-- R394: `barw`. Its wait ends by NAMED_BARRIER_RELEASE, which is due at once. -/
def execBarw (o : ExtOps) (s : State) : Out :=
  issue (.barw o) (fun c =>
    if c.lanes.isEmpty then .ok {}
    else .ok {
      slice := some fun _ z => { z with wait := .barw (immU o) }
      post := fun s =>
        let s1 := if c.sq.isSome then
            modBlock s c.bid fun k => { k with cseq := { k.cseq with wait := .barw (immU o) } }
          else s
        dueEvents s1 [.namedBarrierRelease c.bid (immU o)] }) s

/-- R306, R385: whether `a` is ahead of `b` modulo 2^32. -/
def ahead (a b : Nat) : Bool :=
  let d := (a + 2 ^ 32 - b) % 2 ^ 32
  decide (0 < d) && decide (d < 2 ^ 31)

/-- R385: a wait on barrier `n`, and the wait count `w`, after a release; none if it goes on waiting. -/
def barEnds (n : Nat) (x : NBar) (w : Nat) (q : Wait) : Option Nat :=
  match q with
  | .bar m phase => if m = n ∧ !ahead phase x.c then some phase else none
  | .barw m => if m = n ∧ ahead x.c w then some ((w + 1) % 2 ^ 32) else none
  | _ => none

/-- R385: every wait on a named barrier that has ended lets its slice, or the copy sequencer, go on. -/
def execNamedBarrierRelease (b n : Nat) (s : State) : Out :=
  match tget s.blocks b with
  | none => .next s
  | some k =>
    let x := nbarOf k n
    let ends := (k.groups.map fun g => (g.2.slices.mapIdx fun i z =>
      (barEnds n x (tcount x.waits (8 * g.1 + i)) z.wait).map fun w => (8 * g.1 + i, w)).filterMap id).flatten
    let cs := (barEnds n x (tcount x.waits 256) k.cseq.wait).map fun w => (256, w)
    let all := ends ++ cs.toList
    let k1 : Block := { k with
      groups := k.groups.map fun g => (g.1, { g.2 with slices := g.2.slices.mapIdx fun i z =>
        if (ends.any fun y => y.1 == 8 * g.1 + i) then { z with wait := .none } else z })
      cseq := if cs.isSome then { k.cseq with wait := .none } else k.cseq }
    let s1 := { s with blocks := tset s.blocks b k1 }
    .next (modNbar s1 b n fun x => { x with waits := all.foldl (fun t y => tsetCount t y.1 y.2) x.waits })

/-! ### The step barrier -/

/-- R386: whether the arrival of a group must wait. DEDUCED (log 131): a transfer has completed when its units have moved. -/
def sbarWaits (c : Ctx) : Bool :=
  (c.s.accesses.any fun a => a.b == c.bid && a.party == c.party && !a.landed)
    || (c.s.mem.log.any fun w => w.who == whoOf c.bid c.party && !w.performed 4)
    || (coreOf c.s c.b.core).xfers.any fun x => x.b == c.bid

/-- R395: `sbar`. -/
def sbarBody (o : ExtOps) (c : Ctx) : Res :=
    if !c.l.step then .causes (causeAll .ill c.sliceLanes)
    else if !wholeGang c then .causes (causeAll .nuni c.all)
    else if sbarWaits c then .wait
    else .ok {
      slice := some fun _ x => { x with wait := .sbar (immU o) }
      post := fun s => dueEvents s [.sbarRelease c.b.launch] }

/-- R395: `sbar`. -/
def execSbar (o : ExtOps) (s : State) : Out := issue (.sbar o) (sbarBody o) s

end Sys2Proof.Machine
end

