-- ==== Sys2Proof/Machine/Matrix.lean ====
section
/-!
DEFINITION. The matrix engine (R280, R286 to R318), its instructions, and the events of their execution. Matrix barriers
stand in Machine/MatrixBarriers.lean.
-/
namespace Sys2Proof.Machine

/-! ### fork and join (R26, R27, R311) -/

/-- R311: the entries that `fork` names, in the first active lane. -/
def forkEntries (c : Ctx) (o : ExtOps) : Nat × Nat := (pairValue c o.a.r.toNat, pairValue c o.b.r.toNat)

/-- R26, R311: `fork`. -/
def execFork (o : ExtOps) (s : State) : Out :=
  issue (.fork o) (fun c =>
    let lead := leadGroup c.b == some c.party
    let e := forkEntries c o
    if c.b.forked then .causes (causeAll .qerr c.lanes)
    else if lead ∧ !(oneValue c true o.a.r.toNat && oneValue c true o.b.r.toNat) then .causes (causeAll .nuni c.lanes)
    else if lead ∧ e.1 % 4 ≠ 0 then .causes (causeAll .misa c.lanes e.1)
    else if lead ∧ e.2 % 4 ≠ 0 then .causes (causeAll .misa c.lanes e.2)
    else .ok {
      slice := some fun _ x => { x with wait := .fork }
      post := fun s => modBlock s c.bid fun k =>
        forkCheck { k with forkArr :=
          if (k.forkArr.any fun x => x.1 == c.party) then k.forkArr else k.forkArr ++ [(c.party, e.1, e.2)] } }) s

/-- R27: `join`. In a sequencer's stream it stops the sequencer, once its blocked pops are done. -/
def joinBody (o : ExtOps) (c : Ctx) : Res :=
    match c.sq with
    | some q =>
      if !q.busy.isEmpty then .wait
      else .ok {
        post := fun s => afterExit (modBlock s c.bid fun k =>
          if c.party = mseqParty then { k with mseq := { k.mseq with running := false } }
          else { k with cseq := { k.cseq with running := false } }) c.bid }
    | none => .ok {
        slice := some fun _ x => { x with wait := .join }
        post := fun s => modBlock s c.bid fun k =>
          joinCheck { k with joinArr := if k.joinArr.contains c.party then k.joinArr else k.joinArr ++ [c.party] } }

/-- R27: `join`. In a sequencer's stream it stops the sequencer, once its blocked pops are done. -/
def execJoin (o : ExtOps) (s : State) : Out := issue (.join o) (joinBody o) s

/-! ### Operand images (R287 to R291) -/

/-- R287: the depth k of a tile. -/
def tileK (t : Ty) : Nat :=
  match t with
  | .f64 => 2
  | .f32 => 4
  | .f16 | .bf16 => 16
  | .e2m1 | .cb4 => 64
  | _ => 32

/-- R287: the bytes of an image row. -/
def imageRow (t : Ty) : Nat := if tyWidth t ≥ 32 then 16 else 32

/-- R290: blocks of a scale plane along k. -/
def scaleBlocks (t : Ty) : Nat := tileK t / 32

/-- R288, R289: element κ of row i of an image. -/
def imageElem (img : List Byte) (t : Ty) (i k : Nat) : Nat :=
  let w := tyWidth t
  let row := ofBytes ((img.drop (imageRow t * i)).take (imageRow t))
  bits row (w * k) w

/-- R91, R113, R291: the value of an element with its scale code (none without a plane). -/
def matElem (t : Ty) (lut : List Word) (scale : Option Nat) (x : Nat) : FVal :=
  let v := match t with
    | .cb4 => decodeF .bf16 (lut.getD x 0).toNat
    | t => decodeF t x
  match scale, v with
  | none, v => v
  | some 255, v => .nan v.isSnan
  | some c, .fin n m e => .fin n m (e + (c : Int) - 127)
  | some _, v => v

/-- R290: the scale codes of row or column `i` at byte offset `base`. -/
def scaleAt (scl : List Byte) (base nb i blk : Nat) : Option Nat :=
  if scl.isEmpty then none else some ((scl.getD (base + i * nb + blk) 0).toNat)

/-- R293: the terms that products bring to an element: flags, and value terms (integer, lsb). -/
structure Terms where
  fl : XFlags := {}
  ts : List (Int × Int) := []
  deriving DecidableEq, Repr

/-- R293: one product. -/
def Terms.add (t : Terms) (a b : FVal) : Terms :=
  match a, b with
  | .nan x, .nan y => { t with fl := { t.fl with nan := true, nvs := t.fl.nvs || x || y } }
  | .nan x, _ => { t with fl := { t.fl with nan := true, nvs := t.fl.nvs || x } }
  | _, .nan y => { t with fl := { t.fl with nan := true, nvs := t.fl.nvs || y } }
  | .inf n, .inf k => { t with fl := infFlag t.fl (n != k) }
  | .inf n, .fin k m _ | .fin k m _, .inf n =>
    if m = 0 then { t with fl := { t.fl with nan := true, inv := true } } else { t with fl := infFlag t.fl (n != k) }
  | .fin n m e, .fin k l d =>
    if m = 0 ∨ l = 0 then
      { t with fl := if n != k then { t.fl with zn := true } else { t.fl with zp := true } }
    else { t with ts := (if n != k then -((m * l : Nat) : Int) else ((m * l : Nat) : Int), e + d) :: t.ts }
where
  /-- An infinite product. -/
  infFlag (f : XFlags) (neg : Bool) : XFlags := if neg then { f with ninf := true } else { f with pinf := true }

/-- R294: the least lsb of a type; of a codebook, that of its finite nonzero entries. -/
def lsbMin (t : Ty) (lut : List Word) : Int :=
  match t with
  | .cb4 =>
    let ls := lut.filterMap fun w => match decodeF .bf16 w.toNat with
      | .fin _ m e => if m = 0 then none else some e
      | _ => none
    match ls with
    | [] => 0
    | l :: r => r.foldl min l
  | t => 1 - ((fmtOf t).bias : Int) - ((fmtOf t).mb : Int)

/-- R297, R298: the integer at weight 2^-2176 of terms. -/
def storeSum (ts : List (Int × Int)) : Int := ts.foldl (fun s t => s + t.1 * 2 ^ (t.2 + 2176).toNat) 0

/-- R295: the fit test of value terms against a window. -/
def fits (el : Elem) (ts : List (Int × Int)) : Bool :=
  ts.all (fun t => decide (el.a ≤ t.2))
    && decide ((ts.foldl (fun s t => s + t.1 * 2 ^ (t.2 - el.a).toNat) el.w).natAbs < 2 ^ 383)

/-- What an issue does to an element: its new state, the entry it gets, and its contribution; whether it spills (R295). -/
structure ElemStep where
  el : Elem
  entry : Option Int := none
  send : Option Int := none
  spills : Bool := false
  deriving DecidableEq, Repr

/-- R295: a spilled element's state. -/
def spilledElem (el : Elem) : Elem := { el with w := 0, a := -2176, av := true, sp := true }

/-- R294, R295, R299: value terms reach an element. `floor` is F of R294. -/
def addTerms (floor : Int) (t : Terms) (el0 : Elem) : ElemStep :=
  let el := { el0 with fl := joinFlags el0.fl t.fl }
  match t.ts with
  | [] => { el := el }
  | x :: r =>
    if el.sp then { el := el, send := some (storeSum t.ts) }
    else
      let top := r.foldl (fun m y => max m y.2) x.2
      let el1 := if el.av then el else { el with a := max floor (top - 128), av := true }
      if fits el1 t.ts then
        { el := { el1 with w := t.ts.foldl (fun s y => s + y.1 * 2 ^ (y.2 - el1.a).toNat) el1.w } }
      else
        { el := spilledElem el1, entry := some (el1.w * 2 ^ (el1.a + 2176).toNat), send := some (storeSum t.ts)
          spills := true }

/-! ### Accumulators and the exact store (R292, R298 to R300) -/

/-- An accumulator of a block. -/
def accOf (k : Block) (n : Nat) : Tab Elem := k.x.accs.getD n []

/-- An element of an accumulator. -/
def elemOf (k : Block) (n e : Nat) : Elem := (tget (accOf k n) e).getD {}

/-- Set an element; an empty element is not listed. -/
def setElem (k : Block) (n e : Nat) (v : Elem) : Block :=
  { k with x := { k.x with accs := vmod k.x.accs n fun t => if v = {} then tdel t e else tset t e v } }

/-- R298: the key of an element's entry in its cluster's store. -/
def storeKey (b acc e : Nat) : Nat := 2048 * b + 256 * acc + e

/-- R298: the integer of an element's entry. -/
def entryOf (s : State) (core b acc e : Nat) : Int := (tget (clusterOf s (clusterOfCore core)).store (storeKey b acc e)).getD 0

/-- R298: the entries that the L2 region of a cluster's store holds. -/
def regionEntries : Nat := 29127

/-- R298, R300: an entry is used: it stands in the L2 region, most recently used first, and the entry that finds no room there is
written to the backing area. DESIGN CHOICE (log 97): the core whose use makes the room counts the eviction. -/
def useEntry (s : State) (core key : Nat) : State :=
  let r := key :: (clusterOf s (clusterOfCore core)).region.filter (· != key)
  let s1 := modCluster s (clusterOfCore core) fun c => { c with region := r.take regionEntries }
  if r.length ≤ regionEntries then s1
  else modCore s1 core fun c => { c with ctr := { c.ctr with mxevict := c.ctr.mxevict + 1 } }

/-- R298: write an element's entry. -/
def setEntry (s : State) (core b acc e : Nat) (v : Int) : State :=
  useEntry (modCluster s (clusterOfCore core) fun c => { c with store := tset c.store (storeKey b acc e) v })
    core (storeKey b acc e)

/-- R298: a drain or `acst` uses the entries of an accumulator's spilled elements. -/
def useAcc (s : State) (core b : Nat) (k : Block) (acc : Nat) : State :=
  applyAll s ((List.range 256).filter fun e => (elemOf k acc e).sp) fun s e => useEntry s core (storeKey b acc e)

/-- R300: whether a contribution to an accumulator is on its way. -/
def accBusy (s : State) (core b acc : Nat) : Bool := (coreOf s core).spillQ.any fun x => x.b == b && x.acc == acc

/-- R300: empty an accumulator; its entries are freed. -/
def emptyAcc (s : State) (core b acc : Nat) : State :=
  let s1 := modBlock s b fun k => { k with x := { k.x with accs := k.x.accs.setIfInBounds acc [] } }
  modCluster s1 (clusterOfCore core) fun c => { c with
    store := c.store.filter fun x => x.1 / 256 != 8 * b + acc
    region := c.region.filter fun x => x / 256 != 8 * b + acc
    spoiled := c.spoiled.filter fun x => x / 256 != 8 * b + acc }

/-- R418: whether an entry of an accumulator holds an uncorrectable error. -/
def accSpoiled (s : State) (core b acc : Nat) : Bool :=
  (clusterOf s (clusterOfCore core)).spoiled.any fun x => x / 256 == 8 * b + acc

/-- R295, R299: apply a step of an element. -/
def applyStep (s : State) (core b m acc e : Nat) (x : ElemStep) : State :=
  let s0 := modBlock s b fun k => setElem k acc e x.el
  let s1 := if x.spills then modCore s0 core fun c => { c with ctr := { c.ctr with mxspill := c.ctr.mxspill + 1 } } else s0
  let s2 := match x.entry with
    | none => s1
    | some v => setEntry s1 core b acc e v
  match x.send with
  | none => s2
  | some v => modCore s2 core fun c => { c with
      spillQ := c.spillQ ++ [{ b := b, m := m, acc := acc, elem := e, val := v }]
      ctr := { c.ctr with mxcont := c.ctr.mxcont + 1 } }

/-- R297: the exact sum of an element. -/
def elemSum (s : State) (core b acc e : Nat) (el : Elem) : XSum :=
  if el.sp then { s := entryOf s core b acc e, e := -2176, nz := true, fl := el.fl }
  else { s := el.w, e := el.a, nz := el.av, fl := el.fl }

/-! ### Engine accesses through translation (R303, R323) -/

/-- What an engine's access to a virtual range meets. -/
inductive EngHit where
  | ok (segs : List (Nat × Nat))
  | absent (va : Nat)
  | denied (va : Nat) (nothing : Option Nat)
  | ats (va : Nat)
  deriving DecidableEq, Repr

/-- R303, R321 to R323: translate and check a range for an engine. `xcpy` allows the remote window, `add` asks for a
floating addition. -/
def engRange (s : State) (pasid va n : Nat) (r w xcpy add : Bool) : EngHit :=
  (pieces va n).foldl (fun acc p =>
    match acc with
    | .ok segs =>
      if p.1 ≥ 2 ^ 57 then .absent p.1
      else match translate s pasid p.1 with
        | .absent _ => .absent p.1
        | .ats _ => .ats p.1
        | .ok l =>
          let k := physKind l.pa
          let bad := l.ctx || (r && !l.r) || (w && !l.w) || k == .weight || k == .regs || k == .nothing
            || (k == .remote && !xcpy) || (add && (l.sysatom || k == .host))
          if bad then .denied p.1 (if k = .nothing then some l.pa else none) else .ok (segs ++ [(l.pa, p.2)])
    | e => e) (.ok [])

/-- R285, R323: the record of a cause that a sequencer's instruction raises. -/
def seqRec (s : State) (k : Block) (stream engine : Nat) (x : Cause) (addr : Nat) (pc : DWord) (words : List Word) :
    CauseRec :=
  { code := causeCode x, seq := true, addr := addr, pc := pc, words := words, len := 4 * words.length
    scyc := (coreOf s k.core).scyc % 2 ^ 32, sreft := sref s, stream := stream, engine := engine }

/-- R170, R178: a group whose lines a matrix instruction holds no longer. -/
def releaseHolds (g : Group) (m : Nat) : Group :=
  { g with
    holds := g.holds.filter fun h => h.2.1 != m
    owed := (g.owed.map fun l => (l.1, l.2.filter (· != m))).filter fun l => !l.2.isEmpty }

/-- Remove a matrix instruction; its holds go with it. -/
def dropOp (s : State) (b m : Nat) : State :=
  modBlock s b fun k => { k with
    x := { k.x with mops := k.x.mops.filter fun o => o.id != m }
    groups := k.groups.map fun g => (g.1, releaseHolds g.2 m) }

/-- R285: a matrix instruction raises a cause: it has no further effect. -/
def matRaise (s : State) (b : Nat) (k : Block) (o : MatOp) (engine : Nat) (x : Cause) (addr : Nat) : State :=
  leaveEnded (recordLogged (dropOp s b o.id) b mseqParty 2 (location s k.core)
    (seqRec s k 0 engine x addr o.pc (wordsOf o.instr))) b

/-! ### mma and mmaz (R287 to R299, R312) -/

/-- R288, R290: a product's B type and whether it carries scales. -/
def typeB (o : ExtOps) : Ty := tyOfCode (bits (immU o) 10 4)
/-- R290. -/
def sclBit (o : ExtOps) : Bool := bit (immU o) 9

/-- The next matrix instruction of a stream, with the tables active at its issue (R93). -/
def newOp (c : Ctx) : MatOp :=
  { id := c.s.nextId, instr := c.instr, pc := c.pc, lutA := c.b.x.lutA.getD c.b.x.bank []
    lutB := c.b.x.lutB.getD c.b.x.bank [] }

/-- A matrix instruction enters the engine. -/
def pushOp (c : Ctx) (m : MatOp) (s : State) : State :=
  let n := ((opInfo c.instr).map OpInfo.interval).getD 1
  modCore (modBlock { s with nextId := s.nextId + 1 } c.bid fun k =>
    { k with x := { k.x with mops := k.x.mops ++ [m] } }) c.b.core fun q => { q with matBusy := n }

/-- R288: the feeder group's registers that a register form names. -/
def feederRegs (o : ExtOps) : List Nat :=
  let n := imageRegs o.ty
  span o.a.r.toNat n ++ span o.b.r.toNat n ++ (if sclBit o then [o.c.r.toNat] else [])

/-- R288: the registers that last-use bits kill. -/
def feederKills (o : ExtOps) : List Nat :=
  let n := imageRegs o.ty
  killIf o.a (span o.a.r.toNat n) ++ killIf o.b (span o.b.r.toNat n)
    ++ (if sclBit o then killIf o.c [o.c.r.toNat] else [])

/-- R170: hold lines of a group for a matrix instruction. -/
def holdLines (g : Group) (m : Nat) (rs : List Nat) : Group := { g with holds := g.holds ++ rs.map fun r => (r, m, []) }

/-- R170: a held line's words: as they were when it was killed, or as they are. -/
def heldLine (g : Group) (m r : Nat) : List Nat :=
  let live := liveLanes g
  let vals := match g.holds.find? fun h => h.1 == r && h.2.1 == m && h.2.2 != [] with
    | some h => h.2.2.map BitVec.toNat
    | none => (List.range 32).map fun k => rdReg g r k
  (List.range 32).map fun k => if live.contains k then vals.getD k 0 else 0

/-- R288: whether the engine can read a feeder line now. -/
def lineReady (g : Group) (m r : Nat) : Bool :=
  (g.holds.any fun h => h.1 == r && h.2.1 == m && h.2.2 != [])
    || (tcount g.pend r == 0 && tcount g.busy r == 0
        && (match tget g.lines r with
            | some l => l.resident
            | none => true))

/-- R288: the bytes of consecutive lines. -/
def linesBytes (g : Group) (m : Nat) (rs : List Nat) : List Byte :=
  ((rs.map fun r => (heldLine g m r).map fun v => toBytes 4 v).flatten).flatten

/-- R289: the bytes of a scratchpad image. -/
def spImage (k : Block) (d : Desc) (t : Nat) (ty : Ty) : List Byte :=
  let rb := imageRow ty
  ((List.range 16).map fun i => (List.range rb).map fun o =>
    rdCell k.scr (rowAddr (d.base + t * d.tpitch) d.rpitch d.rc rb i o)).flatten

/-- R293: the terms that a product brings to element (i, j). -/
def mmaTerms (m : MatOp) (ta tb : Ty) (i j : Nat) : Terms :=
  let nb := scaleBlocks ta
  (List.range (tileK ta)).foldl (fun t k =>
    t.add (matElem ta m.lutA (scaleAt m.scl 0 nb i (k / 32)) (imageElem m.aImg ta i k))
      (matElem tb m.lutB (scaleAt m.scl 32 nb j (k / 32)) (imageElem m.bImg tb j k))) {}

/-- R294: the floor of element (i, j). -/
def mmaFloor (m : MatOp) (ta tb : Ty) (i j : Nat) : Int :=
  let nb := scaleBlocks ta
  let ex (base n blk : Nat) : Int := match scaleAt m.scl base nb n blk with
    | none => 0
    | some c => (c : Int) - 127
  let sums := (List.range (max 1 nb)).map fun b => ex 0 i b + ex 32 j b
  lsbMin ta m.lutA + lsbMin tb m.lutB + (match sums with
    | [] => 0
    | x :: r => r.foldl min x)

/-- R312: the steps of all 256 elements of an accumulator. -/
def mmaSteps (k : Block) (m : MatOp) (o : ExtOps) : List (Nat × ElemStep) :=
  (List.range 256).map fun e =>
    (e, addTerms (mmaFloor m o.ty (typeB o) (e / 16) (e % 16)) (mmaTerms m o.ty (typeB o) (e / 16) (e % 16))
      (elemOf k m.acc e))

/-- R299: whether steps' contributions fit the free places of the spill queue. -/
def contributionsFit (s : State) (core : Nat) (xs : List (Nat × ElemStep)) : Bool :=
  decide ((coreOf s core).spillQ.length + (xs.filter fun x => x.2.send.isSome).length ≤ 1024)

/-- R299: a product of a block with the operand images that it has read, or would read now. -/
def operandsNow (k : Block) (m : MatOp) (o : ExtOps) : MatOp :=
  if m.read then m else
  match m.group.bind fun f => tget k.groups f with
  | some g =>
    let n := imageRegs o.ty
    { m with
      aImg := linesBytes g m.id (span o.a.r.toNat n), bImg := linesBytes g m.id (span o.b.r.toNat n)
      scl := if sclBit o then (linesBytes g m.id [o.c.r.toNat]).take 64 else [] }
  | none =>
    let r (i : Nat) : Nat := m.regs.getD i 0
    let t := bits (immU o) 0 5
    { m with
      aImg := spImage k (descOf (r 0 + 2 ^ 32 * r 1)) t o.ty, bImg := spImage k (descOf (r 2 + 2 ^ 32 * r 3)) t (typeB o)
      scl := if sclBit o then rdCells k.scr (r 4 + 64 * t) 64 else [] }

/-- R299: a product's fields, and whether it is `mmaz`; none for another instruction. -/
def productOf (i : Instr) : Option (ExtOps × Bool) :=
  match i with
  | .mmaReg o | .mmaSp o => some (o, false)
  | .mmazReg o | .mmazSp o => some (o, true)
  | _ => none

/-- R299: the products of a block that have issued and not acted. -/
def unacted (k : Block) : List MatOp := k.x.mops.filter fun m => !m.acted && (productOf m.instr).isSome

/-- R299: how many contributions a product of a block will send, and the block with the product's elements. -/
def foresee (k : Block) (m : MatOp) (o : ExtOps) (z : Bool) : Nat × Block :=
  let k1 := if z then { k with x := { k.x with accs := k.x.accs.setIfInBounds m.acc [] } } else k
  let xs := mmaSteps k1 (operandsNow k m o) o
  ((xs.filter fun x => x.2.send.isSome).length, xs.foldl (fun k x => setElem k m.acc x.1 x.2.el) k1)

/-- R299: how many contributions some products of a block will send one after the other, and the block with their elements. -/
def foreseeAll (k : Block) (ms : List MatOp) : Nat × Block :=
  ms.foldl (fun r m => match productOf m.instr with
    | none => r
    | some (o, z) =>
      let q := foresee r.2 m o z
      (r.1 + q.1, q.2)) (0, k)

/-- R299: whether the spill queue lacks room for the contributions of a product beside those of the products that have issued on
the core. DEDUCED (log 98): they are those of the operands and the accumulators as they stand now. -/
def queueShort (c : Ctx) (m : MatOp) (o : ExtOps) (z : Bool) : Bool :=
  let q := (coreOf c.s c.b.core).spillQ.length
  let n := ((blocksOn c.s c.b.core).map fun x => (unacted x.2).length).sum
  decide (1024 < q + 256 * (n + 1))
    && decide (1024 < q + ((blocksOn c.s c.b.core).map fun x => (foreseeAll x.2 (unacted x.2)).1).sum
        + (foresee (foreseeAll c.b (unacted c.b)).2 m o z).1)

/-- R288: the product that a register form describes. -/
def regOp (c : Ctx) (o : ExtOps) : MatOp :=
  { newOp c with acc := o.d.toNat, group := some (bits (immU o) 0 5), regs := feederRegs o, kills := feederKills o }

/-- R288, R299: the body of a register form; `z` is `mmaz`. -/
def mmaRegBody (z : Bool) (o : ExtOps) (c : Ctx) : Res :=
  let f := bits (immU o) 0 5
  match tget c.b.groups f with
  | none => .causes (causeAll .tlim [0])
  | some g =>
    if !(feederRegs o).all (nameable g) then .causes (causeAll .regx [0])
    else if queueShort c (regOp c o) o z then .wait
    else .ok { post := fun s => modGroup (pushOp c (regOp c o) s) c.bid f fun g => holdLines g c.s.nextId (feederRegs o) }

/-- R263, R289, R290: the footprints of a scratchpad form: first byte and length of A, B and the scale record. -/
def spFoot (c : Ctx) (o : ExtOps) : List (Nat × Nat) :=
  let t := bits (immU o) 0 5
  let img (d : Desc) (ty : Ty) : Nat × Nat := (d.base + t * d.tpitch, 15 * d.rpitch + imageRow ty)
  [img (descOf (c.rd2 o.a.r.toNat 0)) o.ty, img (descOf (c.rd2 o.b.r.toNat 0)) (typeB o)]
    ++ (if sclBit o then [(c.rd o.c.r.toNat 0 + 64 * t, 64)] else [])

/-- R290: the causes of a scale record's place. -/
def scaleCauses (k : Block) (off t : Nat) : List (Cause × Nat) :=
  let stop := off + 64 * t + 64
  (if off % 16 ≠ 0 then [(Cause.misa, off)] else [])
    ++ (if progSize k + ringSize k < stop then [(Cause.tlim, off)]
        else if progSize k < stop then [(Cause.perm, off)] else [])

/-- R263, R289: the causes of an image's descriptor. -/
def imageCauses (k : Block) (d : Desc) (ty : Ty) (t : Nat) : List (Cause × Nat) :=
  ((descCauses k d t 16 (imageRow ty)) ++ (if imageRow ty = 16 ∧ d.rc ≠ 0 then [Cause.tlim] else [])).map fun x => (x, d.base)

/-- R302: the footprints that a core tracks. -/
def footprints (s : State) (core : Nat) : Nat :=
  ((blocksOn s core).map fun x => (x.2.x.mops.filter fun m => !m.read && !m.foot.isEmpty).length).sum

/-- R289: the product that a scratchpad form describes. -/
def spOp (c : Ctx) (o : ExtOps) : MatOp :=
  { newOp c with
    acc := o.d.toNat, foot := spFoot c o
    regs := [c.rd o.a.r.toNat 0, c.rd (o.a.r.toNat + 1) 0, c.rd o.b.r.toNat 0, c.rd (o.b.r.toNat + 1) 0,
             c.rd o.c.r.toNat 0] }

/-- R486: whether a product's footprints meet an IN entry of the range scoreboard. -/
def meetsIn (k : Block) (fs : List (Nat × Nat)) : Bool :=
  fs.any fun f => k.x.ranges.any fun r => !r.out && overlap f.1 f.2 r.lo (r.hi + 1 - r.lo)

/-- R289, R299, R302, R486: the body of a scratchpad form; `z` is `mmaz`. -/
def mmaSpBody (z : Bool) (o : ExtOps) (c : Ctx) : Res :=
  let t := bits (immU o) 0 5
  let cs := imageCauses c.b (descOf (c.rd2 o.a.r.toNat 0)) o.ty t
    ++ imageCauses c.b (descOf (c.rd2 o.b.r.toNat 0)) (typeB o) t
    ++ (if sclBit o then scaleCauses c.b (c.rd o.c.r.toNat 0) t else [])
  if cs ≠ [] then .causes (cs.map fun x => (0, x.1, x.2))
  else if 16 ≤ footprints c.s c.b.core || meetsIn c.b (spFoot c o) || queueShort c (spOp c o) o z then .wait
  else .ok { post := pushOp c (spOp c o) }

/-- R312: `mma`, register form. -/
def execMmaReg (o : ExtOps) (s : State) : Out := issue (.mmaReg o) (mmaRegBody false o) s

/-- R312: `mma`, scratchpad form. -/
def execMmaSp (o : ExtOps) (s : State) : Out := issue (.mmaSp o) (mmaSpBody false o) s

/-- R312: `mmaz`, register form. -/
def execMmazReg (o : ExtOps) (s : State) : Out := issue (.mmazReg o) (mmaRegBody true o) s

/-- R312: `mmaz`, scratchpad form. -/
def execMmazSp (o : ExtOps) (s : State) : Out := issue (.mmazSp o) (mmaSpBody true o) s

/-- R160, R166: the live-line bitmap of a group's control area without some registers. -/
def killSaved (s : State) (k : Block) (gi : Nat) (rs : List Nat) : State :=
  let l := recOf s k
  let at_ (r : Nat) : Nat := imageVa l k.sblock gi + 33024 + 992 + r / 8
  applyAll s rs fun s r =>
    let v := (vaNat s l.pasid (at_ r) 1).getD 0
    vaWrite s l.pasid (at_ r) (toBytes 1 (if bit v (r % 8) then v - 2 ^ (r % 8) else v))

/-- A product's operands have been read: holds, footprints and kills (R166, R170, R171, R302). -/
def opRead (s : State) (b : Nat) (m : MatOp) (a bb scl : List Byte) : State :=
  let s1 := modBlock s b fun k => { k with x := { k.x with mops := k.x.mops.map fun o =>
    if o.id = m.id then { o with read := true, aImg := a, bImg := bb, scl := scl } else o } }
  match m.group with
  | none => s1
  | some f =>
    match (tget s1.blocks b).bind fun k => (tget k.groups f).map fun g => (k, g) with
    | none => s1
    | some (k, g) =>
      let rs := m.kills.filter fun r => !g.holds.any fun h => h.1 == r && h.2.1 == m.id && h.2.2 != []
      let s2 := modBlock (modGroup s1 b f fun g => killRegs (releaseHolds (touchLines g m.regs (cycleOf s1 k)) m.id) rs) b fun k => killWaiters k f rs
      if imagesOnly k then killSaved s2 k f rs else s2

/-- R288 to R290, R302: the engine reads the operand images and scale record of a product. -/
def execMatrixOperandRead (b m : Nat) (s : State) : Out :=
  match tget s.blocks b with
  | none => .next s
  | some k =>
    match k.x.mops.find? fun o => o.id == m && !o.read && !o.acted with
    | none => .next s
    | some q =>
      match q.instr with
      | .mmaReg o | .mmazReg o =>
        match q.group.bind fun f => tget k.groups f with
        | none => .next s
        | some g =>
          if !q.regs.all (lineReady g m) then .next s
          else if q.regs.any (poisonedReg g) then .next (matRaise s b k q 1 .ecc 0)
          else
            let n := imageRegs o.ty
            .next (opRead s b q (linesBytes g m (span o.a.r.toNat n)) (linesBytes g m (span o.b.r.toNat n))
              (if sclBit o then (linesBytes g m [o.c.r.toNat]).take 64 else []))
      | .mmaSp o | .mmazSp o =>
        let held := q.foot.any fun f => (!pagesIn k f.1 f.2)
          || k.x.ranges.any fun r => !r.out && decide (r.owner < m) && overlap f.1 f.2 r.lo (r.hi + 1 - r.lo)
        if held then .next s
        else match q.foot.find? fun f => poisoned k.scrPoison f.1 f.2 with
          | some f => .next (matRaise s b k q 1 .ecc f.1)
          | none =>
            let r (i : Nat) : Nat := q.regs.getD i 0
            let t := bits (immU o) 0 5
            let at_ := r 4 + 64 * t
            let s1 := modBlock s b fun k => q.foot.foldl (fun k f => touchPages k f.1 f.2 (cycleOf s k) false) k
            .next (opRead s1 b q (spImage k (descOf (r 0 + 2 ^ 32 * r 1)) t o.ty)
              (spImage k (descOf (r 2 + 2 ^ 32 * r 3)) t (typeB o))
              (if sclBit o then rdCells k.scr at_ 64 else []))
      | _ => .next s

/-- R301: whether every earlier instruction of the stream has acted. -/
def inOrder (k : Block) (m : Nat) : Bool := (k.x.mops.takeWhile fun o => o.id != m).all MatOp.acted

/-- Mark an instruction as acted; it is done once no contribution of it is on its way (R310). -/
def markActed (s : State) (b core m : Nat) : State :=
  if ((coreOf s core).spillQ.any fun x => x.m == m && x.b == b) then
    modBlock s b fun k => { k with x := { k.x with mops := k.x.mops.map fun o =>
      if o.id = m then { o with acted := true } else o } }
  else tryComplete (dropOp s b m) b

/-- R299, R312: the terms of a product reach the windows and the spill queue. `z` is `mmaz`. -/
def actMma (s : State) (b : Nat) (k : Block) (q : MatOp) (o : ExtOps) (z : Bool) : State :=
  let spilled := z && (accOf k q.acc).any fun x => x.2.sp
  if !q.read || (spilled && accBusy s k.core b q.acc) then s
  else
    let s1 := if z then emptyAcc s k.core b q.acc else s
    let k1 := (tget s1.blocks b).getD k
    let xs := mmaSteps k1 q o
    if contributionsFit s1 k.core xs then
      markActed (applyAll s1 xs fun s x => applyStep s k.core b q.id q.acc x.1 x.2) b k.core q.id
    else s

/-! ### acld and acst (R313, R314) -/

/-- R313: the status word of an element. -/
def statusWord (el : Elem) : Nat :=
  maskOf ((if el.av then [10] else []) ++ (if el.sp then [9] else []) ++ (if el.fl.nan then [8] else [])
    ++ (if el.fl.inv then [7] else []) ++ (if el.fl.nvs then [6] else []) ++ (if el.fl.pinf then [5] else [])
    ++ (if el.fl.ninf then [4] else []) ++ (if el.fl.zp then [3] else []) ++ (if el.fl.zn then [2] else []))

/-- R313: the flags of a status word. -/
def statusFlags (w : Nat) : XFlags :=
  { nan := bit w 8, inv := bit w 7, nvs := bit w 6, pinf := bit w 5, ninf := bit w 4, zp := bit w 3, zn := bit w 2 }

/-- R313: the image of an accumulator: records, then tails, 64 and 576 bytes each. -/
def accImage (s : State) (core b : Nat) (k : Block) (acc : Nat) : List (Nat × List Byte) :=
  let sp := (List.range 256).filter fun e => (elemOf k acc e).sp
  let tailAt (e : Nat) : Nat := 16384 + 576 * (sp.takeWhile (· != e)).length
  ((List.range 256).map fun e =>
    let el := elemOf k acc e
    (64 * e, toBytes 48 (wrap 384 el.w) ++ toBytes 4 (wrap 32 el.a) ++ toBytes 4 (statusWord el)
      ++ toBytes 4 (if el.sp then tailAt e else 0) ++ toBytes 4 0))
  ++ sp.map fun e => (tailAt e, toBytes 544 (wrap 4352 (entryOf s core b acc e)) ++ List.replicate 32 0)

/-- R313: the length of an accumulator's image. -/
def imageLen (k : Block) (acc : Nat) : Nat := 16384 + 576 * ((List.range 256).filter fun e => (elemOf k acc e).sp).length

/-- R313: a field of an image record. -/
def recField (img : List Byte) (e o n : Nat) : Nat := ofBytes ((img.drop (64 * e + o)).take n)

/-- R314: the elements that an image calls spilled. -/
def imageSpills (img : List Byte) : List Nat := (List.range 256).filter fun e => bit (recField img e 52 4) 9

/-- R314: whether an image fails its checks. The tail offset of an element that has not spilled may be 0 (R313); another is checked
as the offset of a tail, and has no further effect. -/
def imageBad (img : List Byte) : Bool :=
  let n := (imageSpills img).length
  (List.range 256).any fun e =>
    let st := recField img e 52 4
    let a := signed 32 (recField img e 48 4)
    let off := recField img e 56 4
    bits st 11 21 != 0 || bits st 0 2 != 0 || recField img e 60 4 != 0
      || (bit st 9 && (decide (off < 16384) || (off - 16384) % 576 != 0 || decide (n ≤ (off - 16384) / 576)
            || decide (a ≠ -2176)))
      || (!bit st 9 && off != 0 && (decide (off < 16384) || (off - 16384) % 576 != 0 || decide (n ≤ (off - 16384) / 576)))
      || (!bit st 9 && bit st 10 && (decide (a < -2148) || decide (1814 < a)))

/-- R313: an image's element, and its entry if it spilled. -/
def imageElemOf (img : List Byte) (e : Nat) : Elem × Option Int :=
  let st := recField img e 52 4
  let el : Elem := { w := signed 384 (recField img e 0 48), a := signed 32 (recField img e 48 4), av := bit st 10
                     sp := bit st 9, fl := statusFlags st }
  (el, if bit st 9 then some (signed 4352 (ofBytes ((img.drop (recField img e 56 4)).take 544))) else none)

/-- R314: add an image's element to an element. DESIGN CHOICE (log 96): an element that holds flags and no value takes the window and
anchor of an unspilled image element: R314 names no floor from which R294 could set an anchor for it. -/
def addImage (el : Elem) (x : Elem × Option Int) : ElemStep :=
  let im := x.1
  let fl := joinFlags el.fl im.fl
  if el = {} then { el := im, entry := x.2 }
  else if im.w = 0 ∧ !im.av ∧ !im.sp then { el := { el with fl := fl } }
  else if !el.av && !el.sp && !im.sp then { el := { im with fl := fl } }
  else
    let val : Int := match x.2 with
      | some v => v
      | none => im.w * 2 ^ (im.a + 2176).toNat
    if el.sp then { el := { el with fl := fl }, send := some val }
    else if !im.sp && fits el [(im.w, im.a)] then
      { el := { el with fl := fl, w := el.w + im.w * 2 ^ (im.a - el.a).toNat } }
    else
      { el := { spilledElem el with fl := fl }, entry := some (el.w * 2 ^ (el.a + 2176).toNat), send := some val
        spills := true }

/-- R314: the effect of a checked image on an accumulator. -/
def imageSteps (k : Block) (acc : Nat) (add : Bool) (img : List Byte) : List (Nat × ElemStep) :=
  (List.range 256).map fun e =>
    let x := imageElemOf img e
    (e, if add then addImage (elemOf k acc e) x else { el := x.1, entry := x.2 })

/-- R313, R318: the body of an instruction that names an aligned global address. -/
def addrBody (align : Nat) (acc : Nat) (o : ExtOps) (c : Ctx) : Res :=
  let va := c.rd2 o.a.r.toNat 0
  if va % align ≠ 0 then .causes (causeAll .misa [0] va)
  else .ok { post := pushOp c { newOp c with acc := acc, addr := va, read := true } }

/-- R314: `acld`. -/
def execAcld (o : ExtOps) (s : State) : Out := issue (.acld o) (fun c => addrBody 64 o.d.toNat o c) s

/-- R314: `acst`. -/
def execAcst (o : ExtOps) (s : State) : Out := issue (.acst o) (fun c => addrBody 64 o.d.toNat o c) s

/-- R318: `lutld`. -/
def execLutld (o : ExtOps) (s : State) : Out := issue (.lutld o) (fun c => addrBody 32 0 o c) s

/-- Whether a matrix instruction writes a codebook bank. -/
def isLutld (m : MatOp) : Bool :=
  match m.instr with
  | .lutld _ => true
  | _ => false

/-- R93: `lutsw`. -/
def lutswBody (o : ExtOps) (c : Ctx) : Res :=
    if c.b.x.mops.any isLutld then .wait
    else .ok {
      post := fun s => modBlock s c.bid fun k => { k with x := { k.x with bank := 1 - k.x.bank } } }

/-- R93: `lutsw`. -/
def execLutsw (o : ExtOps) (s : State) : Out := issue (.lutsw o) (lutswBody o) s

/-- The observer that the engines of a core are for a block (R361). -/
def engViewer (core b : Nat) : Viewer := ⟨dieOfCore core, clusterOfCore core, b⟩

/-- R361, R364: bytes of physical ranges as the engines of a block's core read them for it. -/
def engBytes (s : State) (b : Nat) (k : Block) (segs : List (Nat × Nat)) : List Byte := seenBytes s (engViewer k.core b) segs

/-- R303, R321, R331, R362: what an engine's read of a virtual range meets; it waits while the die may not read the bytes or a tile
holds them. -/
def engRead (s : State) (k : Block) (va n : Nat) : EngHit :=
  match engRange s (recOf s k).pasid va n true false false false with
  | .ok segs => if mayRead s (dieOfCore k.core) segs && !lockedBytes s segs then .ok segs else .ats va
  | e => e

/-- R418: whether an engine's read of a virtual range meets poison. -/
def engPoison (s : State) (k : Block) (va n : Nat) : Bool :=
  !s.mem.poison.isEmpty && match engRead s k va n with
    | .ok segs => segs.any fun g => poisoned s.mem.poison g.1 g.2
    | _ => false

/-- R314: the bytes of an image in memory: its records, then its tails; or what keeps them from being read. -/
def imageBytes (s : State) (b : Nat) (k : Block) (va : Nat) : Except EngHit (List Byte) :=
  match engRead s k va 16384 with
  | .ok segs =>
    let img := engBytes s b k segs
    match engRead s k va (16384 + 576 * (imageSpills img).length) with
    | .ok all => .ok (engBytes s b k all)
    | e => .error e
  | e => .error e

/-- R314, R418: an `acld` acts. -/
def actAcld (s : State) (b : Nat) (k : Block) (q : MatOp) (o : ExtOps) : State :=
  match imageBytes s b k q.addr with
  | .error _ => s
  | .ok img =>
    if accBusy s k.core b q.acc then s
    else if engPoison s k q.addr img.length then matRaise s b k q 1 .ecc q.addr
    else if imageBad img then matRaise s b k q 1 .tlim q.addr
    else
      let add := bit (immU o) 0
      let xs := imageSteps k q.acc add img
      if !contributionsFit s k.core xs then s
      else
        let s1 := if add then s else emptyAcc s k.core b q.acc
        markActed (applyAll s1 xs fun s x => applyStep s k.core b q.id q.acc x.1 x.2) b k.core q.id

/-- R314, R331: an `acst` acts: 256 record writes and the tails, performed at `.die`. DESIGN CHOICE (log 118): a tail of 576 bytes is one
write event, as a record is. -/
def actAcst (s : State) (b : Nat) (k : Block) (q : MatOp) (o : ExtOps) : State :=
  match engRange s (recOf s k).pasid q.addr (imageLen k q.acc) false true false false with
  | .ok segs =>
    let d := dieOfCore k.core
    let addrs := ((segs.map fun r => span r.1 r.2).flatten)
    if accBusy s k.core b q.acc || lockedBytes s segs || !upToDate s.mem d (addrs.map fun a => (a, 0)) || !targetsKnown s d segs then s
    else if accSpoiled s k.core b q.acc then matRaise s b k q 1 .ecc 0
    else
      let recs := accImage s k.core b k q.acc
      let acc : Access := { id := q.id, b := b, party := mseqParty, die := d, core := k.core, op := .read, len := 0, scope := 3 }
      let s1 := applyAll s recs fun s r =>
        writeGlobal s { acc with segs := ((addrs.drop r.1).take r.2.length).map fun a => (a, 1) } r.2
      let s2 := if bit (immU o) 0 then emptyAcc s1 k.core b q.acc else useAcc s1 k.core b k q.acc
      tryComplete (dropOp s2 b q.id) b
  | _ => s

/-- R318, R418: a `lutld` acts: 16 entries go to the inactive bank. -/
def actLutld (s : State) (b : Nat) (k : Block) (q : MatOp) (o : ExtOps) : State :=
  match engRead s k q.addr 32 with
  | .ok segs =>
    if engPoison s k q.addr 32 then matRaise s b k q 1 .ecc q.addr else
    let bs := engBytes s b k segs
    let tbl : List Word := (List.range 16).map fun i => BitVec.ofNat 32 (ofBytes ((bs.drop (2 * i)).take 2))
    let x1 : BlockX := if bit (immU o) 0 then { k.x with lutB := k.x.lutB.setIfInBounds (1 - k.x.bank) tbl }
      else { k.x with lutA := k.x.lutA.setIfInBounds (1 - k.x.bank) tbl }
    let s1 := modBlock s b fun k => { k with x := x1 }
    tryComplete (dropOp s1 b q.id) b
  | _ => s

/-- R310: a matrix instruction acts, in stream order, and is done when all it brings has been added. -/
def execMatrixInstructionComplete (b m : Nat) (s : State) : Out :=
  match tget s.blocks b with
  | none => .next s
  | some k =>
    match k.x.mops.find? fun o => o.id == m with
    | none => .next s
    | some q =>
      if q.acted then
        .next (if ((coreOf s k.core).spillQ.any fun x => x.m == m && x.b == b) then s else tryComplete (dropOp s b m) b)
      else if !inOrder k m || q.stalled.isSome then .next s
      else match q.instr with
        | .mmaReg o | .mmaSp o => .next (actMma s b k q o false)
        | .mmazReg o | .mmazSp o => .next (actMma s b k q o true)
        | .acld o => .next (actAcld s b k q o)
        | .acst o => .next (actAcst s b k q o)
        | .lutld o => .next (actLutld s b k q o)
        | _ => .next s

/-- R299: the accumulation port takes the first contribution of a core's spill queue. -/
def execSpillContributionAdd (c : Nat) (s : State) : Out :=
  match (coreOf s c).spillQ with
  | [] => .next s
  | x :: r =>
    let s1 := modCore s c fun k => { k with spillQ := r }
    let v := entryOf s1 c x.b x.acc x.elem + x.val
    .next (dueEvents (setEntry s1 c x.b x.acc x.elem v) [.matrixInstructionComplete x.b x.m])

end Sys2Proof.Machine
end

