-- ==== Sys2Proof/Machine/MatrixBarriers.lean ====
section
/-!
DEFINITION. Matrix barriers (R304 to R307, R319).
-/
namespace Sys2Proof.Machine

/-- The matrix barrier of a number. -/
def mbarOf (k : Block) (n : Nat) : MBar := k.x.mbars.getD n {}

/-- Change a matrix barrier. -/
def modMbar (s : State) (b n : Nat) (f : MBar → MBar) : State :=
  modBlock s b fun k => { k with x := { k.x with mbars := vmod k.x.mbars n f } }

/-- R305: an arrival with count `n`; none if it differs from the phase's. -/
def mbarArrive (x : MBar) (n : Nat) : Option MBar :=
  if x.e.isSome && x.e != some n then none
  else if x.arrived + 1 = n then some { x with arrived := 0, e := none, c := (x.c + 1) % 2 ^ 32 }
  else some { x with arrived := x.arrived + 1, e := some n }

/-- R305, R485: what an arrival waits for: the scratchpad accesses and stores of a group; every earlier instruction of a
sequencer's stream, a `publish` until its swap is visible at its scope. -/
def mbarWaits (c : Ctx) : Bool :=
  (c.s.accesses.any fun a => a.b == c.bid && a.party == c.party && (a.scr || a.op.writes))
    || (match c.sq with
        | some q => !q.busy.isEmpty || (c.party == mseqParty && !c.b.x.mops.isEmpty)
            || c.s.mem.log.any fun w => w.who == whoOf c.bid c.party && w.vis != 0 && !w.performed w.vis
        | none => false)

/-- R319: `mbarv`. -/
def mbarvBody (o : ExtOps) (c : Ctx) : Res :=
    let n := bits (immU o) 0 4
    if c.lanes.isEmpty then .ok {}
    else if c.sq.isNone && !wholeGang c then .causes (causeAll .nuni c.all)
    else if mbarWaits c then .wait
    else match mbarArrive (mbarOf c.b n) (bits (immU o) 4 6) with
      | none => .causes (causeAll .barm c.lanes)
      | some y => .ok {
          post := fun s => dueEvents (modMbar s c.bid n fun _ => y) [.matrixBarrierRelease c.bid n] }

/-- R319: `mbarv`. -/
def execMbarv (o : ExtOps) (s : State) : Out := issue (.mbarv o) (mbarvBody o) s

/-- R319: `mbarw`. Its wait ends by MATRIX_BARRIER_RELEASE, which is due at once. -/
def execMbarw (o : ExtOps) (s : State) : Out :=
  issue (.mbarw o) (fun c =>
    let n := immU o
    if c.lanes.isEmpty then .ok {}
    else if c.sq.isNone && !wholeGang c then .causes (causeAll .nuni c.all)
    else .ok {
      slice := some fun _ z => { z with wait := .mbarw n }
      post := fun s =>
        let s1 := modBlock s c.bid fun k =>
          if c.party = mseqParty then { k with mseq := { k.mseq with wait := .mbarw n } }
          else if c.party = cseqParty then { k with cseq := { k.cseq with wait := .mbarw n } }
          else k
        dueEvents s1 [.matrixBarrierRelease c.bid n] }) s

/-- The parties of a block that wait at matrix barrier `n`. -/
def mbarParties (k : Block) (n : Nat) : List Nat :=
  ((k.groups.filter fun g => g.2.slices.any fun z => z.wait == .mbarw n).map (·.1))
    ++ (if k.mseq.wait = .mbarw n then [mseqParty] else []) ++ (if k.cseq.wait = .mbarw n then [cseqParty] else [])

/-- R306: a party's wait at matrix barrier `n` ends. -/
def endMbarWait (k : Block) (n p : Nat) : Block :=
  if p = mseqParty then { k with mseq := { k.mseq with wait := .none } }
  else if p = cseqParty then { k with cseq := { k.cseq with wait := .none } }
  else { k with groups := tmod k.groups p fun g => { g with
    slices := g.slices.map fun z => if z.wait = .mbarw n then { z with wait := .none } else z } }

/-- R306: every wait on a matrix barrier whose phase has completed ends. -/
def execMatrixBarrierRelease (b n : Nat) (s : State) : Out :=
  match tget s.blocks b with
  | none => .next s
  | some k =>
    let x := mbarOf k n
    let ps := (mbarParties k n).filter fun p => ahead x.c (tcount x.waits p)
    let s1 := modBlock s b fun k => ps.foldl (fun k p => endMbarWait k n p) k
    .next (modMbar s1 b n fun x => { x with
      waits := ps.foldl (fun t p => tsetCount t p ((tcount t p + 1) % 2 ^ 32)) x.waits })

end Sys2Proof.Machine
end

