-- ==== Sys2Proof/Machine/PageRequests.lean ====
section
/-!
DEFINITION. Page requests and their answers, ATS and PRI (R303, R323, R414, R447, R453, R458).
-/
namespace Sys2Proof.Machine

/-- R453: whether the ring has no free entry. -/
def prqFull (s : State) : Bool := s.front.r.prqHead + 1 == s.front.r.prqTail

/-- R458: write a request into the ring; vector 1 when the ring was empty. -/
def writeRequest (s : State) (q : PageReq) : State :=
  let r := s.front.r
  let e := toBytes 8 (q.va / 4096 * 4096) ++ toBytes 4 (q.pasid + 2 ^ 31 * b01 q.write) ++ toBytes 4 q.tag
  let s1 := agentPhys s (r.prqPa.toNat * 32768 + 16 * r.prqHead.toNat) e
  let s2 := { s1 with front := { s1.front with r := { s1.front.r with prqHead := r.prqHead + 1 } } }
  if r.prqHead = r.prqTail then raiseMsix s2 1 else s2

/-- R453, R458: post a request. While EN is 0 it is answered at once with result 2; it waits while the ring is
full. Returns its tag. -/
def postRequest (s : State) (va pasid : Nat) (wr : Bool) (who : PageWaiter) (host : Bool) : Nat × State :=
  let tag := s.front.nextTag
  let ring := !host && s.front.r.prqEn && !prqFull s
  let q : PageReq := { tag := tag, va := va, pasid := pasid, write := wr, who := who, host := host
                       posted := host || ring }
  let s1 := { s with front := { s.front with nextTag := tag + 1, reqs := s.front.reqs ++ [q] } }
  let s2 := if ring then writeRequest s1 q else s1
  (tag, if !host && !s.front.r.prqEn then dueEvents s2 [.pageNotPresentResponse tag] else s2)

/-- R453: post the requests that waited for a free entry. -/
def postWaiting (s : State) : State :=
  applyAll s (s.front.reqs.filter fun q => !q.posted) fun s q =>
    if prqFull s || !s.front.r.prqEn then s
    else
      let s1 := { s with front := { s.front with
        reqs := s.front.reqs.map fun p => if p.tag = q.tag then { p with posted := true } else p } }
      writeRequest s1 q

/-- R453: while EN is 0, the device-leaf requests that wait for a free entry are answered with result 2. -/
def ringSwitch (s : State) : State :=
  if s.front.r.prqEn then s
  else dueEvents s ((s.front.reqs.filter fun q => !q.posted && !q.host).map fun q => .pageNotPresentResponse q.tag)

/-- Remove a request. -/
def dropRequest (s : State) (tag : Nat) : State :=
  { s with front := { s.front with reqs := s.front.reqs.filter fun q => q.tag != tag } }

/-- R491: log a register write that is rejected. -/
def logMmio (s : State) (off : Nat) : State := logErr s 6 10 (1024 * s.pkg.toNat) off 0

/-- R473: until READY, BAR0 serves only FE_STATUS and FE_FWSTAT. -/
def served (s n : State) : Out := .next (if s.front.r.ready then n else s)

/-- Change a transfer. -/
def modXfer (s : State) (core x : Nat) (f : Xfer → Xfer) : State :=
  modCore s core fun k => { k with xfers := k.xfers.map fun y => if y.id = x then f y else y }

/-- A transfer of a core. -/
def xferOf (s : State) (core x : Nat) : Option Xfer := (coreOf s core).xfers.find? fun y => y.id == x

/-- Change a matrix instruction. -/
def modOp (s : State) (b m : Nat) (f : MatOp → MatOp) : State :=
  modBlock s b fun k => { k with x := { k.x with mops := k.x.mops.map fun o => if o.id = m then f o else o } }

/-- R323: a transfer raises a cause: its block halts and it moves no further element. -/
def xferRaise (s : State) (core : Nat) (x : Xfer) (c : Cause) (addr : Nat) : State :=
  match tget s.blocks x.b with
  | none => s
  | some k =>
    let seq := x.party ≥ 32
    let r : CauseRec := {
      code := causeCode c, seq := seq, addr := addr, pc := x.pc, words := x.words, len := 4 * x.words.length
      pmask := if seq then 0 else x.lanes, scyc := (coreOf s core).scyc % 2 ^ 32, sreft := sref s
      stream := if x.party = mseqParty then 0 else if x.party = cseqParty then 1 else 0xFF, engine := 2
      slices := x.slices }
    let s1 := modCore s core fun q => { q with xfers := q.xfers.filter fun y => y.id != x.id }
    let s2 := modBlock s1 x.b fun k => { k with x := { k.x with
      ranges := k.x.ranges.filter fun e => e.owner != x.id } }
    leaveEnded (recordLogged s2 x.b x.party 2 (location s k.core) r) x.b

/-- R458: who waited goes on: the access is replayed. -/
def replay (s : State) (w : PageWaiter) : State :=
  match w with
  | .xfer c x => modXfer s c x fun y => { y with stalled := none }
  | .mat b m => modOp s b m fun o => { o with stalled := none }
  | .fetch _ | .ats _ _ => s

/-- R414, R458: whether a block waits swapped out for the page of its fetch. -/
def fetchWaits (s : State) (b : Nat) : Bool :=
  s.front.reqs.any fun q => match q.who with
    | .fetch x => x == b
    | _ => false

/-- R303, R323, R414: the page cannot be made present. -/
def deny (s : State) (w : PageWaiter) (va : Nat) : State :=
  match w with
  | .xfer c x => match xferOf s c x with
    | none => s
    | some y => xferRaise s c y .xlat va
  | .mat b m => match tget s.blocks b with
    | none => s
    | some k => match k.x.mops.find? fun o => o.id == m with
      | none => s
      | some o => matRaise s b k o 1 .xlat va
  | .fetch b => match tget s.blocks b with
    | none => s
    | some k => endLaunch s k.launch (0x0200 + causeCode .fetch)
  | .ats p g => { s with ats := ⟨p, g, 0, 0, 0, 0⟩ :: s.ats }

/-- R458: FE_PRQRESP with result 1. -/
def execPagePresentResponse (tag : Nat) (s : State) : Out :=
  match s.front.reqs.find? fun q => q.tag == tag && !q.host && q.posted with
  | none => served s (logMmio s 0x60)
  | some q => .next (replay (dropRequest s tag) q.who)

/-- R458: FE_PRQRESP with result 2, or the answer of a device whose ring is off. -/
def execPageNotPresentResponse (tag : Nat) (s : State) : Out :=
  match s.front.reqs.find? fun q => q.tag == tag && !q.host && (q.posted || !s.front.r.prqEn) with
  | none => served s (logMmio s 0x60)
  | some q => .next (deny (dropRequest s tag) q.who q.va)

/-- R447: the PRI requests that are with the host: at most 2,048; later ones wait for a place. -/
def priOutstanding (s : State) : List PageReq := (s.front.reqs.filter PageReq.host).take 2048

/-- R458: the host answers a PRI request that is with it. -/
def execPriResponse (tag : Nat) (ok : Bool) (s : State) : Out :=
  match (priOutstanding s).find? fun q => q.tag == tag with
  | none => .next s
  | some q => .next (if ok then replay (dropRequest s tag) q.who else deny (dropRequest s tag) q.who q.va)

/-- R458: whether a page request for this host page is with the host. -/
def priPending (s : State) (pasid page : Nat) : Bool :=
  s.front.reqs.any fun q => match q.who with
    | .ats p g => p == pasid && g == page
    | _ => false

/-- R447: an ATS invalidation discards the host's translations of these pages. -/
def execAtsInvalidation (pasid va pages : Nat) (s : State) : Out :=
  let hit (g : Nat) : Bool := decide (va / 4096 ≤ g) && decide (g < va / 4096 + pages)
  .next { s with
    ats := s.ats.filter fun t => !(t.pasid == pasid && hit t.va)
    tlb := s.tlb.filter fun t => !(t.pasid == pasid && bit t.leaf 63) }

/-- R453: the driver advances FE_PRQTAIL. -/
def execPrqTailWrite (v : BitVec 32) (s : State) : Out :=
  served s (postWaiting { s with front := { s.front with r := { s.front.r with prqTail := v.setWidth 11 } } })

end Sys2Proof.Machine
end

