-- ==== Sys2Proof/Machine/Exact.lean ====
section
/-!
DEFINITION. The exact values of the resolved functions (R231, R235, R236, R247), found by integer arithmetic to as
many bits as the rounding needs, and the boundaries of the assay (R215, R216).
-/
namespace Sys2Proof.Machine

/-- A real number that is not a special result: its sign, and its magnitude at `m × 2^e`, or above it by less than 2^e
when `more` is set. `far` marks the elements of R216 that lie far outside the range. -/
structure Exact where
  neg : Bool
  m : Nat
  e : Int
  more : Bool
  far : Bool := false
  deriving DecidableEq, Repr

/-- R235, R247: what a resolved function gives for its operands: bits and flags of a special input, or a number. -/
inductive Outcome where
  | special (bits flags : Nat)
  | num (x : Exact)
  deriving DecidableEq, Repr

/-- R95, R104: the rounding of a number. -/
def Exact.round (x : Exact) (ty : Ty) (mode : Nat) : Nat × Nat :=
  if x.m = 0 ∧ !x.more then (zeroBits ty x.neg, 0) else roundMore ty mode x.neg x.m x.e x.more

/-- An outcome as bits and flags. -/
def Outcome.value (r : Outcome) (ty : Ty) (mode : Nat) : Nat × Nat :=
  match r with
  | .special b f => (b, f)
  | .num x => x.round ty mode

/-! ### Fixed-point series, with `p` fraction bits. The error of each is below `slack p` units. -/

/-- A bound on the error of a series, in units of the last place. -/
def slack (p : Nat) : Int := 16 * (p : Int) + 512

/-- `m × 2^e` with `p` fraction bits, rounded down. -/
def fix (p : Nat) (m e : Int) : Int :=
  if 0 ≤ e + p then m * 2 ^ (e + p).toNat else m / 2 ^ (-(e + p)).toNat

/-- The sum of a series whose terms are `t × r / 2^p / k` of the term before, `k` from `k`. -/
def expSum (p : Nat) (r : Int) : Nat → Nat → Int → Int → Int
  | 0, _, _, acc => acc
  | n + 1, k, t, acc =>
    let u := t * r / 2 ^ p / (k : Int)
    expSum p r n (k + 1) u (acc + u)

/-- e^r for |r| < 1. -/
def expFix (p : Nat) (r : Int) : Int := expSum p r (p / 4 + 24) 1 (2 ^ p) (2 ^ p)

/-- The sum of `z^(2k+1) / (2k+1)`, of alternating signs when `alt` is set. `sq` is the square of `z`. -/
def oddSum (p : Nat) (alt : Bool) (sq : Int) : Nat → Nat → Int → Int → Int
  | 0, _, _, acc => acc
  | n + 1, k, t, acc =>
    let u := t * sq / 2 ^ p
    let v := if alt then -u else u
    oddSum p alt sq n (k + 2) v (acc + v / (k : Int))

/-- The inverse hyperbolic tangent of z, |z| ≤ 1/3. -/
def atanhFix (p : Nat) (z : Int) : Int := oddSum p false (z * z / 2 ^ p) (p / 3 + 8) 3 z z

/-- The arc tangent of z, |z| ≤ 1/2. -/
def atanSeries (p : Nat) (z : Int) : Int := oddSum p true (z * z / 2 ^ p) (p / 2 + 8) 3 z z

/-- ln 2. -/
def ln2Fix (p : Nat) : Int := 2 * atanhFix p (2 ^ p / 3)

/-- π, by Machin's formula. -/
def piFix (p : Nat) : Int := 16 * atanSeries p (2 ^ p / 5) - 4 * atanSeries p (2 ^ p / 239)

/-- A bound on the error of `piFix`. -/
def piSlack (p : Nat) : Int := 32 * slack p

/-- Terms `t × sq / k / (k + 1)` of alternating sign. -/
def trigSum (p : Nat) (sq : Int) : Nat → Nat → Int → Int → Int
  | 0, _, _, acc => acc
  | n + 1, k, t, acc =>
    let u := -(t * sq / 2 ^ p / ((k * (k + 1) : Nat) : Int))
    trigSum p sq n (k + 2) u (acc + u)

/-- sin r for |r| < 2. -/
def sinFix (p : Nat) (r : Int) : Int := trigSum p (r * r / 2 ^ p) (p / 4 + 24) 2 r r

/-- cos r for |r| < 2. -/
def cosFix (p : Nat) (r : Int) : Int := trigSum p (r * r / 2 ^ p) (p / 4 + 24) 1 (2 ^ p) (2 ^ p)

/-- The arc tangent of y, 0 ≤ y ≤ 1. -/
def atanFix (p : Nat) (y : Int) : Int :=
  if 4 * y < 2 ^ p then atanSeries p y
  else atanSeries p (2 ^ (p - 1)) + atanSeries p ((2 * y - 2 ^ p) * 2 ^ p / (2 * 2 ^ p + y))

/-! ### Intervals: a value lies between `lo × 2^e` and `hi × 2^e` -/

/-- An interval. -/
structure Iv where
  lo : Int
  hi : Int
  e : Int

/-- An interval about a fixed-point value. -/
def Iv.about (p : Nat) (a err : Int) : Iv := ⟨a - err, a + err, -(p : Int)⟩

/-- The same interval for the negated value. -/
def Iv.negIf (n : Bool) (i : Iv) : Iv := if n then ⟨-i.hi, -i.lo, i.e⟩ else i

/-- e^(x / 2^p) for a fixed-point `x` known to within `err`. -/
def expIv (p : Nat) (x err : Int) : Iv :=
  let l := ln2Fix p
  let k := x / l
  let a := expFix p (x - k * l)
  let d := 4 * ((k.natAbs : Int) * slack p + err) + slack p
  ⟨a - d, a + d, k - p⟩

/-- The logarithm of m × 2^e, m > 0: the fraction part and the exponent of 2. -/
def lnParts (p m : Nat) (e : Int) : Int × Int :=
  let l := m.log2
  let y : Int := ((m * 2 ^ p / 2 ^ l : Nat) : Int)
  (2 * atanhFix p ((y - 2 ^ p) * 2 ^ p / (y + 2 ^ p)), e + (l : Int))

/-- ln(m × 2^e), and the bound on its error. -/
def lnFix (p m : Nat) (e : Int) : Int × Int :=
  let x := lnParts p m e
  (x.1 + x.2 * ln2Fix p, (4 + (x.2.natAbs : Int)) * slack p)

/-- ln(m × 2^e). -/
def lnIv (p m : Nat) (e : Int) : Iv := Iv.about p (lnFix p m e).1 (lnFix p m e).2

/-- log2(m × 2^e). -/
def log2Iv (p m : Nat) (e : Int) : Iv :=
  let x := lnParts p m e
  Iv.about p (x.1 * 2 ^ p / ln2Fix p + x.2 * 2 ^ p) (8 * slack p)

/-- 2^x for x = m × 2^e. -/
def exp2Iv (p : Nat) (m e : Int) : Iv :=
  let x := fix p m e
  let n := x / 2 ^ p
  let a := expFix p ((x - n * 2 ^ p) * ln2Fix p / 2 ^ p)
  ⟨a - 8 * slack p, a + 8 * slack p, n - p⟩

/-- e^x - 1. -/
def expm1Iv (p : Nat) (m e : Int) : Iv :=
  let i := expIv p (fix p m e) 1
  if i.e < -(p : Int) - 4 * (p : Int) then ⟨-(2 ^ p), -(2 ^ p) + 1, -(p : Int)⟩
  else
    let k := (i.e + (p : Int))
    if 0 ≤ k then ⟨i.lo * 2 ^ k.toNat - 2 ^ p, i.hi * 2 ^ k.toNat - 2 ^ p, -(p : Int)⟩
    else ⟨i.lo / 2 ^ (-k).toNat - 2 ^ p, i.hi / 2 ^ (-k).toNat + 1 - 2 ^ p, -(p : Int)⟩

/-- R231: reduction by π/2: the quadrant, the remainder with `p` fraction bits and its error. -/
def reduce (p : Nat) (m e : Int) : Int × Int × Int :=
  let w := p + 16 + (e + (m.natAbs.log2 : Int)).toNat
  let h := piFix w / 2
  let x := fix w m e
  let q := (2 * x + h) / (2 * h)
  let err := (q.natAbs : Int) * piSlack w + 2
  let sh : Int := 2 ^ (w - p)
  (q, (x - q * h) / sh, err / sh + 2)

/-- sin of a quarter turn and a remainder. -/
def quarter (p : Nat) (q r : Int) : Int :=
  match (q % 4).toNat with
  | 0 => sinFix p r
  | 1 => cosFix p r
  | 2 => -sinFix p r
  | _ => -cosFix p r

/-- sin(x + k π/2) for x = m × 2^e. -/
def sinIv (p : Nat) (k m e : Int) : Iv :=
  let x := reduce p m e
  Iv.about p (quarter p (x.1 + k) x.2.1) (2 * x.2.2 + slack p)

/-- tan(m × 2^e): undecided while the denominator may be 0. -/
def tanIv (p : Nat) (m e : Int) : Iv :=
  let x := reduce p m e
  let s := quarter p x.1 x.2.1
  let c := quarter p (x.1 + 1) x.2.1
  let err := 2 * x.2.2 + slack p
  let n : Int := s.natAbs
  let d : Int := c.natAbs
  if d ≤ err ∨ n ≤ err then ⟨-1, 1, 0⟩
  else Iv.negIf ((s < 0) != (c < 0)) ⟨(n - err) * 2 ^ p / (d + err), (n + err) * 2 ^ p / (d - err) + 1, -(p : Int)⟩

/-- sin(π f / d) for 0 < f < d / 2, or its cosine. -/
def piTurnIv (p : Nat) (cosine : Bool) (f d : Int) : Iv :=
  let r := piFix p * f / d
  Iv.about p (if cosine then cosFix p r else sinFix p r) (2 * piSlack p)

/-- atan(m × 2^e), m > 0. -/
def atanIv (p m : Nat) (e : Int) : Iv :=
  if e + (m.log2 : Int) < 0 then Iv.about p (atanFix p (fix p m e)) (4 * slack p)
  else Iv.about p (piFix p / 2 - atanFix p (min (2 ^ p) (fix (2 * p + (e.toNat + m.log2)) 1 (-e) / (m : Int)
    / 2 ^ (p + (e.toNat + m.log2))))) (piSlack p + 4 * slack p)

/-! ### From an interval to a number -/

/-- The number that an interval decides: both ends round alike. -/
def Iv.decide (ty : Ty) (mode : Nat) (i : Iv) : Option Exact :=
  let neg := i.hi ≤ 0
  let l : Int := if neg then -i.hi else i.lo
  let h : Int := if neg then -i.lo else i.hi
  if l ≤ 0 ∨ h ≤ l then none
  else
    let x : Exact := ⟨neg, l.toNat, i.e, true, false⟩
    if x.round ty mode = roundMore ty mode neg (h.toNat - 1) i.e true then some x else none

/-- The precisions that are tried. -/
def ladder : List Nat := [192, 384, 768, 1536]

/-- The first precision whose interval decides the rounding. -/
def climb (ty : Ty) (mode : Nat) (f : Nat → Iv) : List Nat → Exact
  | [] => let i := f 3072
    ⟨decide (i.hi ≤ 0), (if i.hi ≤ 0 then -i.hi else i.lo).toNat, i.e, true, false⟩
  | p :: ps =>
    match (f p).decide ty mode with
    | some x => x
    | none => climb ty mode f ps

/-- A number next to m × 2^e: beyond it in magnitude, or short of it, by about `t` × 2^d, the first term of its series that
a tiny argument leaves. -/
def nudge (neg : Bool) (m : Nat) (e : Int) (beyond : Bool) (t : Nat) (d : Int) : Exact :=
  let q := min e d
  let a := m * 2 ^ (e - q).toNat
  let b := t * 2 ^ (d - q).toNat
  if beyond then ⟨neg, a + b, q, true, false⟩ else ⟨neg, a - b - 1, q, true, false⟩

/-- `m³ / k` with 64 more fraction bits: the cubic term of a series. -/
def cubic (m k : Nat) : Nat := m * m * m * 2 ^ 64 / k

/-- The integer square root: the greatest `r` of `n` bits whose square is at most `x`. -/
def isqrtGo (x : Nat) : Nat → Nat → Nat
  | 0, r => r
  | n + 1, r => if (r + 2 ^ n) * (r + 2 ^ n) ≤ x then isqrtGo x n (r + 2 ^ n) else isqrtGo x n r

/-- The integer square root. -/
def isqrt (x : Nat) : Nat := isqrtGo x (x.log2 / 2 + 1) 0

/-- (m × 2^e) / (n × 2^d), to at least 200 bits. -/
def quot (neg : Bool) (m : Nat) (e : Int) (n : Nat) (d : Int) : Exact :=
  let k := 200 + n.log2
  ⟨neg, m * 2 ^ k / n, e - d - k, m * 2 ^ k % n != 0, false⟩

/-- The square root of m × 2^e, to at least 200 bits. -/
def sqrtOf (m : Nat) (e : Int) : Exact :=
  let k := 400 + (e % 2).toNat
  let x := m * 2 ^ k
  ⟨false, isqrt x, (e - k) / 2, isqrt x * isqrt x != x, false⟩

/-- The reciprocal square root of m × 2^e, to at least 200 bits. -/
def rsqrtOf (m : Nat) (e : Int) : Exact :=
  let k := 2 * (200 + m.log2) + (e % 2).toNat
  let r := isqrt (2 ^ k / m)
  ⟨false, r, (-e - k) / 2, r * r * m != 2 ^ k, false⟩

/-! ### The functions -/

/-- An exact number. -/
def exactly (neg : Bool) (m : Nat) (e : Int) : Outcome := .num ⟨neg, m, e, false, false⟩

/-- A signed integer from sign and magnitude. -/
def sgn (neg : Bool) (m : Nat) : Int := if neg then -(m : Int) else (m : Int)

/-- Whether |m × 2^e| < 2^-60. -/
def tinyArg (m : Nat) (e : Int) : Bool := e + (m.log2 : Int) < -61

/-- Whether |m × 2^e| ≥ 2^13, beyond every exponent range. -/
def hugeArg (m : Nat) (e : Int) : Bool := 13 ≤ e + (m.log2 : Int)

/-- A number far above or far below the range. -/
def farValue (neg up : Bool) : Exact := ⟨neg, 1, if up then 8192 else -8192, true, true⟩

/-- R216: mark a number that lies far outside the range of the type. -/
def markFar (ty : Ty) (x : Exact) : Exact :=
  let f := fmtOf ty
  let ex := x.e + (x.m.log2 : Int)
  { x with far := x.far || decide (f.emax + 2 ≤ ex) || decide (ex < f.emin - (f.p : Int)) }

/-- The result of an invalid operation. -/
def invalid (ty : Ty) : Outcome := .special (canonNan ty) fNV

/-- A NaN operand's result. -/
def nanResult (ty : Ty) (sg : Bool) : Outcome := .special (canonNan ty) (flagIf sg fNV)

/-- R236: a quotient. -/
def divOut (ty : Ty) (x y : FVal) : Outcome :=
  match x, y with
  | .nan s, .nan t => nanResult ty (s || t)
  | .nan s, _ => nanResult ty s
  | _, .nan t => nanResult ty t
  | .inf _, .inf _ => invalid ty
  | .inf n, .fin k _ _ => .special (infBits ty (n != k)) 0
  | .fin n _ _, .inf k => .special (zeroBits ty (n != k)) 0
  | .fin n m e, .fin k l d =>
    if l = 0 then (if m = 0 then invalid ty else .special (infBits ty (n != k)) fDZ)
    else if m = 0 then .special (zeroBits ty (n != k)) 0
    else .num (quot (n != k) m e l d)

/-- R236: e^x, 2^x and e^x - 1, by sub-opcode. -/
def expOut (ty : Ty) (mode sub : Nat) (x : FVal) : Outcome :=
  match x with
  | .nan s => nanResult ty s
  | .inf n =>
    if !n then .special (infBits ty false) 0
    else if sub = 6 then .special (packF ty true 1 0) 0
    else .special (zeroBits ty false) 0
  | .fin n 0 _ => if sub = 6 then .special (zeroBits ty n) 0 else .special (packF ty false 1 0) 0
  | .fin n m e =>
    if sub = 6 then
      if tinyArg m e then .num (nudge n m e (!n) (m * m) (2 * e - 1))
      else if hugeArg m e then (if n then .num { nudge true 1 0 false 1 (-256) with far := true } else .num (farValue false true))
      else
        let y := climb ty mode (fun p => expm1Iv p (sgn n m) e) ladder
        let f := fmtOf ty
        let small := n && decide ((expIv 192 (fix 192 (sgn n m) e) 1).e + 192 < f.emin - (f.p : Int))
        .num { (if n then y else markFar ty y) with far := small || (!n && (markFar ty y).far) }
    else if tinyArg m e then
      (if sub = 5 then .num (nudge false 1 0 (!n) (m * (ln2Fix 128).toNat) (e - 128)) else .num (nudge false 1 0 (!n) m e))
    else if hugeArg m e then .num (farValue false !n)
    else if sub = 5 then
      if 0 ≤ e then .num (markFar ty ⟨false, 1, sgn n (m * 2 ^ e.toNat), false, false⟩)
      else if m % 2 ^ (-e).toNat = 0 then .num (markFar ty ⟨false, 1, sgn n (m / 2 ^ (-e).toNat), false, false⟩)
      else .num (markFar ty (climb ty mode (fun p => exp2Iv p (sgn n m) e) ladder))
    else .num (markFar ty (climb ty mode (fun p => expIv p (fix p (sgn n m) e) 1) ladder))

/-- R236: ln x and log2 x. -/
def logOut (ty : Ty) (mode : Nat) (two : Bool) (x : FVal) : Outcome :=
  match x with
  | .nan s => nanResult ty s
  | .inf n => if n then invalid ty else .special (infBits ty false) 0
  | .fin _ 0 _ => .special (infBits ty true) fDZ
  | .fin true _ _ => invalid ty
  | .fin false m e =>
    let l := m.log2
    if m = 2 ^ l ∧ (two ∨ e + (l : Int) = 0) then
      exactly (decide (e + (l : Int) < 0)) (e + (l : Int)).natAbs 0
    else if two then .num (climb ty mode (fun p => log2Iv p m e) ladder)
    else .num (climb ty mode (fun p => lnIv p m e) ladder)

/-- R236: ln(1 + x). -/
def log1pOut (ty : Ty) (mode : Nat) (x : FVal) : Outcome :=
  match x with
  | .nan s => nanResult ty s
  | .inf n => if n then invalid ty else .special (infBits ty false) 0
  | .fin n 0 _ => .special (zeroBits ty n) 0
  | .fin n m e =>
    if tinyArg m e then .num (nudge n m e n (m * m) (2 * e - 1))
    else
      let y : Int × Int := if 0 ≤ e then (sgn n (m * 2 ^ e.toNat) + 1, 0) else (sgn n m + 2 ^ (-e).toNat, e)
      if y.1 = 0 then .special (infBits ty true) fDZ
      else if y.1 < 0 then invalid ty
      else .num (climb ty mode (fun p => lnIv p y.1.toNat y.2) ladder)

/-- R236: sin, cos and tan, by sub-opcode. -/
def trigOut (ty : Ty) (mode sub : Nat) (x : FVal) : Outcome :=
  match x with
  | .nan s => nanResult ty s
  | .inf _ => invalid ty
  | .fin n 0 _ => if sub = 11 then .special (packF ty false 1 0) 0 else .special (zeroBits ty n) 0
  | .fin n m e =>
    if tinyArg m e then
      (if sub = 11 then .num (nudge false 1 0 false (m * m) (2 * e - 1))
       else .num (nudge n m e (sub == 12) (cubic m (if sub = 12 then 3 else 6)) (3 * e - 64)))
    else if sub = 12 then .num (climb ty mode (fun p => tanIv p (sgn n m) e) ladder)
    else .num (climb ty mode (fun p => sinIv p (if sub = 11 then 1 else 0) (sgn n m) e) ladder)

/-- R236: sin πx, or cos πx as the sine a quarter turn ahead. -/
def turnOut (ty : Ty) (mode : Nat) (cosine : Bool) (x : FVal) : Outcome :=
  match x with
  | .nan s => nanResult ty s
  | .inf _ => invalid ty
  | .fin n 0 _ => if cosine then .special (packF ty false 1 0) 0 else .special (zeroBits ty n) 0
  | .fin n m e =>
    if tinyArg m e then
      if cosine then .num (nudge false 1 0 false ((m * (piFix 256).toNat) ^ 2) (2 * (e - 256) - 1))
      else .num (climb ty mode (fun p =>
        let a := (m : Int) * (piFix p - piSlack p)
        Iv.negIf n ⟨a - a / 2 ^ 110, (m : Int) * (piFix p + piSlack p), e - p⟩) ladder)
    else
      let d : Int := 2 * 2 ^ (-e).toNat
      let t0 : Int := 2 * sgn n (if 0 ≤ e then m * 2 ^ e.toNat else m)
      let t := (if cosine then t0 + d / 2 else t0) % (2 * d)
      let j := (2 * t / d).toNat
      let f := t - (j : Int) * (d / 2)
      if f = 0 then
        (if j % 2 = 0 then exactly (n && !cosine) 0 0 else exactly (j == 3) 1 0)
      else .num (climb ty mode (fun p => Iv.negIf (decide (2 ≤ j)) (piTurnIv p (j % 2 == 1) f d)) ladder)

/-- R236: atan x. -/
def atanOut (ty : Ty) (mode : Nat) (x : FVal) : Outcome :=
  match x with
  | .nan s => nanResult ty s
  | .inf n =>
    let y := climb ty mode (fun p => Iv.negIf n (Iv.about p (piFix p / 2) (piSlack p))) ladder
    .special (y.round ty mode).1 (y.round ty mode).2
  | .fin n 0 _ => .special (zeroBits ty n) 0
  | .fin n m e =>
    if tinyArg m e then .num (nudge n m e false (cubic m 3) (3 * e - 64))
    else .num (climb ty mode (fun p => Iv.negIf n (atanIv p m e)) ladder)

/-- R236: √x and 1/√x. -/
def sqrtOut (ty : Ty) (recip : Bool) (x : FVal) : Outcome :=
  match x with
  | .nan s => nanResult ty s
  | .inf n => if n then invalid ty else if recip then .special (zeroBits ty false) 0 else .special (infBits ty false) 0
  | .fin n 0 _ => if recip then .special (infBits ty n) fDZ else .special (zeroBits ty n) 0
  | .fin true _ _ => invalid ty
  | .fin false m e => .num (if recip then rsqrtOf m e else sqrtOf m e)

/-- R236: √(x² + y²). -/
def hypotOut (ty : Ty) (x y : FVal) : Outcome :=
  let sn := (match x with | .nan s => s | _ => false) || (match y with | .nan s => s | _ => false)
  let isInf (v : FVal) : Bool := match v with
    | .inf _ => true
    | _ => false
  if isInf x || isInf y then .special (infBits ty false) (flagIf sn fNV)
  else match x, y with
  | .fin _ m e, .fin _ k d =>
    if m = 0 then .special (packF ty false k d) 0
    else if k = 0 then .special (packF ty false m e) 0
    else
      let q := min e d
      let a := m * 2 ^ (e - q).toNat
      let b := k * 2 ^ (d - q).toNat
      .num (sqrtOf (a * a + b * b) (2 * q))
  | _, _ => nanResult ty sn

/-- Divide out factors of two, at most `n`. -/
def oddPart : Nat → Nat → Int → Nat × Int
  | 0, m, e => (m, e)
  | n + 1, m, e => if m % 2 = 0 ∧ m ≠ 0 then oddPart n (m / 2) (e + 1) else (m, e)

/-- Exact square roots of m × 2^e taken `k` times. -/
def exactRoots : Nat → Nat → Int → Option (Nat × Int)
  | 0, m, e => some (m, e)
  | k + 1, m, e =>
    if e % 2 = 0 ∧ isqrt m * isqrt m = m then exactRoots k (isqrt m) (e / 2) else none

/-- x^y, when it is a dyadic number of at most 64 bits of mantissa; `x` and `y` > 0 in magnitude, both odd parts. -/
def exactPow (m : Nat) (e : Int) (yneg : Bool) (k : Nat) (d : Int) : Option (Nat × Int) :=
  let roots := (-d).toNat
  if 8 < roots then none
  else match exactRoots roots m e with
  | none => none
  | some (a, q) =>
    let n := k * 2 ^ d.toNat
    if a = 1 then some (1, if yneg then -(q * n) else q * n)
    else if yneg || decide (64 < n) || decide (64 < n * (a.log2 + 1)) then none
    else some (a ^ n, q * n)

/-- e^(y ln x) as an interval at precision `p`, with its logarithm as an interval. -/
def powLog (p m : Nat) (e : Int) (yneg : Bool) (k : Nat) (d : Int) : Int × Int :=
  let w := p + 160
  let l := lnFix w m e
  (fix p (sgn yneg k * l.1) (d - w), fix p ((k : Int) * l.2) (d - w) + 2)

/-- R236: a power of finite nonzero operands, neither of them special; `neg` is the sign of the result. -/
def powNum (ty : Ty) (mode : Nat) (neg : Bool) (m : Nat) (e : Int) (yneg : Bool) (k : Nat) (d : Int) : Exact :=
  let a := oddPart 64 m e
  let b := oddPart 64 k d
  match exactPow a.1 a.2 yneg b.1 b.2 with
  | some (v, q) =>
    if 8192 < q then farValue neg true
    else if q < -8192 then farValue neg false
    else markFar ty ⟨neg, v, q, false, false⟩
  | none =>
    let t := powLog 192 m e yneg k d
    let mag : Int := t.1.natAbs
    if 2 ^ 204 ≤ mag then farValue neg (0 < t.1)
    else if mag < 2 ^ 131 then
      let up := (lnFix 400 m e).1 < 0
      nudge neg 1 0 (yneg == up) (max 1 t.1.natAbs) (-192)
    else markFar ty (climb ty mode (fun p =>
      Iv.negIf neg (expIv p (powLog p m e yneg k d).1 (powLog p m e yneg k d).2)) ladder)

/-- Whether a finite number is an integer, and an odd one. -/
def integral (m : Nat) (e : Int) : Bool × Bool :=
  if 0 ≤ e then (true, e == 0 && m % 2 == 1)
  else (m % 2 ^ (-e).toNat == 0, m % 2 ^ (-e).toNat == 0 && m / 2 ^ (-e).toNat % 2 == 1)

/-- Whether a finite number has magnitude 1, or is below 1 in magnitude. -/
def cmpOne (m : Nat) (e : Int) : Ordering :=
  if 0 ≤ e then compare (m * 2 ^ e.toNat) 1 else compare m (2 ^ (-e).toNat)

/-- R236: x^y. -/
def powOut (ty : Ty) (mode : Nat) (x y : FVal) : Outcome :=
  let sn := (match x with | .nan s => s | _ => false) || (match y with | .nan s => s | _ => false)
  let one := packF ty false 1 0
  let isOne (v : FVal) : Bool := match v with
    | .fin false m e => cmpOne m e == .eq
    | _ => false
  let isZero (v : FVal) : Bool := match v with
    | .fin _ 0 _ => true
    | _ => false
  if isZero y || isOne x then .special one (flagIf sn fNV)
  else match x, y with
  | .nan _, _ => nanResult ty sn
  | _, .nan _ => nanResult ty sn
  | .inf _, .inf k => .special (if k then zeroBits ty false else infBits ty false) 0
  | .inf n, .fin k l d =>
    let odd := n && (integral l d).2
    .special (if k then zeroBits ty odd else infBits ty odd) 0
  | .fin _ m e, .inf k =>
    match cmpOne m e with
    | .eq => .special one 0
    | .lt => .special (if k then infBits ty false else zeroBits ty false) 0
    | .gt => .special (if k then zeroBits ty false else infBits ty false) 0
  | .fin n m e, .fin k l d =>
    let i := integral l d
    let neg := n && i.2
    if m = 0 then (if k then .special (infBits ty neg) fDZ else .special (zeroBits ty neg) 0)
    else if n && !i.1 then invalid ty
    else if cmpOne m e == .eq then .special (packF ty neg 1 0) 0
    else if cmpOne l d == .eq then
      if k then
        let r := (quot n 1 0 m e).round ty mode
        .special r.1 r.2
      else .special (packF ty n m e) 0
    else .num (powNum ty mode neg m e k l d)

/-- R231, R235: the outcome of the function of a sub-opcode of OP 0x08 and 0x09 on elements of a type. -/
def resolved (ty : Ty) (mode sub a b : Nat) : Outcome :=
  let x := decodeF ty a
  let y := decodeF ty b
  match sub with
  | 0 => divOut ty x y
  | 1 => divOut ty (.fin false 1 0) x
  | 2 => sqrtOut ty false x
  | 3 => sqrtOut ty true x
  | 4 | 5 | 6 => expOut ty mode sub x
  | 7 => logOut ty mode false x
  | 8 => logOut ty mode true x
  | 9 => log1pOut ty mode x
  | 10 | 11 | 12 => trigOut ty mode sub x
  | 13 => turnOut ty mode false x
  | 14 => turnOut ty mode true x
  | 15 => atanOut ty mode x
  | 16 => hypotOut ty x y
  | _ => powOut ty mode x y

/-! ### The assay (R214 to R216) -/

/-- R215: the boundary nearest to a number in a mode: its distance from `m × 2^e` and the boundary itself, in units of
2^t, and t. -/
structure Bound where
  d : Int
  b : Int
  t : Int

/-- R215: the nearest boundary. -/
def bound (ty : Ty) (mode : Nat) (x : Exact) : Bound :=
  let f := fmtOf ty
  let nearest := mode == 0 || mode == 4
  let ex := if x.m = 0 then f.emin else max f.emin (x.e + (x.m.log2 : Int))
  let q := (min ex f.emax) - (f.mb : Int)
  let t := min x.e (q - 2)
  let v : Int := x.m * 2 ^ (x.e - t).toNat
  let u : Int := 2 ^ (q - t).toNat
  let top : Int := 2 ^ (f.emax + 1 - t).toNat
  let r := v % u
  let base := v - r
  let b : Int :=
    if f.emax < ex then (if nearest then top - u / 2 else top)
    else if nearest then
      let below := if u / 2 ≤ r then base + u / 2
        else if base = 2 ^ (ex - t).toNat ∧ f.emin < ex then base - u / 4 else base - u / 2
      let above := if r ≤ u / 2 then base + u / 2 else base + u + u / 2
      if v - below ≤ above - v then below else above
    else if r ≤ u - r then base else base + u
  ⟨if b ≤ v then v - b else b - v, b, t⟩

/-- R216: the number lies on its nearest boundary. -/
def onBound (x : Exact) (y : Bound) : Bool := y.d == 0 && !x.more

/-- R222: the number lies within 2^-k times its own magnitude of its nearest boundary. -/
def nearBound (k : Nat) (x : Exact) (y : Bound) : Bool :=
  decide (y.d * 2 ^ k ≤ (x.m : Int) * 2 ^ (x.e - y.t).toNat)

/-- R214, R215: the interval about the fast stage's approximation can hold the nearest boundary. The approximation `y` differs
from the value `v` by its bound `r` at most, so the boundary lies within `2 r` of `v`. `scale` is the sum of the terms'
magnitudes for a group sum, where `r` is 2^-(p+10) of it; else `r` is 2^-(p+10) of |y|. -/
def inReach (p : Nat) (x : Exact) (scale : Option Nat) (y : Bound) : Bool :=
  match scale with
  | some n => decide (y.d * 2 ^ (p + 9) ≤ (n : Int) * 2 ^ (x.e - y.t).toNat)
  | none => decide (y.d * (2 ^ (p + 10) - 1) ≤ 2 * (x.m : Int) * 2 ^ (x.e - y.t).toNat)

/-- R215: the distance between the two boundaries on either side of a number that is none, in quarters of 2^t, and t;
`none` beyond the last boundary. The midpoints next to a power of two lie three quarters of the spacing apart below it and
three halves above the last midpoint of a binade. -/
def gapAt (f : Fmt) (mode : Nat) (x : Exact) : Option (Nat × Int) :=
  let ex := if x.m = 0 then f.emin else max f.emin (x.e + (x.m.log2 : Int))
  let q := ex - (f.mb : Int)
  let h := (x.m * 2 ^ (x.e - (q - 1)).toNat) / 2 ^ ((q - 1) - x.e).toNat
  if f.emax < ex then none
  else if mode == 0 || mode == 4 then
    if h + 1 = 2 ^ (f.mb + 2) then (if ex = f.emax then none else some (6, q))
    else if h = 2 ^ (f.mb + 1) ∧ f.emin < ex then some (3, q)
    else some (4, q)
  else some (4, q)

/-- R214, R215, R238: the interval about any approximation of a group sum holds a boundary: the boundaries on either side of
the sum lie no farther apart than the interval is wide. -/
def mustHold (f : Fmt) (mode : Nat) (x : Exact) (scale : Option Nat) : Bool :=
  match scale, gapAt f mode x with
  | some n, some g =>
    let k := x.e - (f.p : Int) - 9
    let t := g.2 - 2
    decide (g.1 * 2 ^ (t - k).toNat ≤ n * 2 ^ (k - t).toNat)
  | _, _ => false

/-- R218: the two values of the format next to a boundary, the lesser first. Between two values they are its
neighbours, and next to ± 2^(emax+1) they are the largest finite value and infinity. A boundary that is itself a value is
paired with the value on the other side of the choice that the mode makes. Zero stands there with the sign of the settled
value `v`, if that is a zero. DESIGN CHOICE (log 90): R218 does not say which pair stands for such a boundary, and of several
boundaries in the interval of a group sum the record keeps the one nearest to the exact sum. -/
def candidates (ty : Ty) (mode : Nat) (neg : Bool) (y : Bound) (v : Nat) : Nat × Nat :=
  let f := fmtOf ty
  let sign := 2 ^ (f.mb + f.eb)
  let zero (z : Nat) : Nat := if z % sign = 0 ∧ v % sign = 0 then v else z
  let flip (z : Nat) : Nat := if neg then z ^^^ sign else z
  let b := y.b.natAbs
  let below := if b = 0 then signBit f true + 1 else (roundMore ty 1 false (b * 2 ^ 100 - 1) (y.t - 100) true).1
  let above := (roundMore ty 2 false (b * 2 ^ 100) (y.t - 100) true).1
  let here := if b = 0 then 0 else (roundF ty 1 false false b y.t).1
  let upward := mode == 2 && !neg || mode == 3 && neg
  let pair := if mode == 0 || mode == 4 then (below, above)
    else if f.emax < y.t + (b.log2 : Int) then (below, infBits ty false)
    else if upward then (here, above) else (below, here)
  if neg then (zero (flip pair.2), zero (flip pair.1)) else (zero pair.1, zero pair.2)

end Sys2Proof.Machine
end

