-- ==== Sys2Proof/Machine/IntArith.lean ====
section
/-!
DEFINITION. Integer and logic instructions of the team datapath (R185 to R199).
-/
namespace Sys2Proof.Machine

/-- R83, R186: element `i` of a word of elements of width `w`; a value of 32 or 64 bits is its own element. -/
def elemAt (w x i : Nat) : Nat := if w ≥ 32 then x else bits x (w * i) w

/-- R83, R99, R186: a word from its elements and their flags, each found from its index. -/
def eachElem (w : Nat) (f : Nat → Nat × Nat) : Nat × Nat :=
  if w ≥ 32 then f 0
  else
    let rs := (List.range (32 / w)).map f
    (ofElems w (rs.map (·.1)), orFlags (rs.map (·.2)))

/-- R186: a result and flags for every active lane, readable at the latency. -/
def putFlags (c : Ctx) (wide : Bool) (d : Nat) (f : Nat → Nat × Nat) : Res :=
  .ok { writes := c.put wide d fun k => (f k).1, flags := orFlags (c.lanes.map fun k => (f k).2) }

/-- The words of a result: one register, or a pair. -/
def resultWords (wide : Bool) (v : Nat) : List Word :=
  if wide then [BitVec.ofNat 32 v, BitVec.ofNat 32 (v / 2 ^ 32)] else [BitVec.ofNat 32 v]

/-- R130, R186: a long instruction that never parks: results and flags are delivered at fast completion. -/
def putLong (c : Ctx) (wide : Bool) (d : Nat) (f : Nat → Nat × Nat) : Res :=
  let rs := c.lanes.map fun k => (k, f k)
  .ok {
    long := some { longFor c d (if wide then 2 else 1) with
      res := rs.map fun x => (x.1, resultWords wide x.2.1)
      flags := BitVec.ofNat 6 (orFlags (rs.map fun x => x.2.2)) }
    post := fun s => { s with nextId := s.nextId + 1 } }

/-- R186: element by element over A and B, without flags. -/
def alu2 (c : Ctx) (o : ExtOps) (f : Nat → Nat → Nat) : Res :=
  writesOnly (c.put (wideTy o) o.d.toNat fun k => map2 (tyWidth o.ty) f (c.opA o k) (c.opB o k))

/-- R186: element by element over A and B, with flags. -/
def alu2F (c : Ctx) (o : ExtOps) (f : Nat → Nat → Nat × Nat) : Res :=
  let w := tyWidth o.ty
  putFlags c (wideTy o) o.d.toNat fun k =>
    eachElem w fun i => f (elemAt w (c.opA o k) i) (elemAt w (c.opB o k) i)

/-- R186: element by element over A, without flags. -/
def alu1 (c : Ctx) (o : ExtOps) (f : Nat → Nat) : Res :=
  writesOnly (c.put (wideTy o) o.d.toNat fun k => map1 (tyWidth o.ty) f (c.opA o k))

/-- R186: a base form d := d op a. -/
def base2 (c : Ctx) (o : BaseOps) (f : Nat → Nat → Nat) : Res :=
  writesOnly (c.put false o.d.toNat fun k => f (c.rd o.d.toNat k) (c.rd o.a.toNat k))

/-- R186: a base form d := op a. -/
def base1 (c : Ctx) (o : BaseOps) (f : Nat → Nat) : Res :=
  writesOnly (c.put false o.d.toNat fun k => f (c.rd o.a.toNat k))

/-- The integer that an element holds, by the signedness of its type. -/
def intVal (ty : Ty) (x : Nat) : Int := if tySigned ty then signed (tyWidth ty) x else (x : Int)

/-- R84: the least value of an integer type. -/
def minOf (ty : Ty) : Int := if tySigned ty then -((2 ^ (tyWidth ty - 1) : Nat) : Int) else 0

/-- R84: the greatest value of an integer type. -/
def maxOf (ty : Ty) : Int :=
  if tySigned ty then ((2 ^ (tyWidth ty - 1) : Nat) : Int) - 1 else ((2 ^ tyWidth ty : Nat) : Int) - 1

/-- R188: clamp to a type, with SI if that changed the value. -/
def clampTo (ty : Ty) (s : Int) : Nat × Nat :=
  if s < minOf ty then (wrap (tyWidth ty) (minOf ty), fSI)
  else if maxOf ty < s then (wrap (tyWidth ty) (maxOf ty), fSI)
  else (wrap (tyWidth ty) s, 0)

/-- R188: the wrapping sum. -/
def addW (w a b : Nat) : Nat := (a + b) % 2 ^ w

/-- R188: the wrapping difference. -/
def subW (w a b : Nat) : Nat := wrap w ((a : Int) - (b : Int))

/-- R188: base `add`. -/
def execAddBase (o : BaseOps) (s : State) : Out := issue (.addBase o) (fun c => base2 c o (addW 32)) s

/-- R188: base `sub`. -/
def execSubBase (o : BaseOps) (s : State) : Out := issue (.subBase o) (fun c => base2 c o (subW 32)) s

/-- R188: `add`. -/
def execAdd (o : ExtOps) (s : State) : Out := issue (.add o) (fun c => alu2 c o (addW (tyWidth o.ty))) s

/-- R188: `sub`. -/
def execSub (o : ExtOps) (s : State) : Out := issue (.sub o) (fun c => alu2 c o (subW (tyWidth o.ty))) s

/-- R188: `sadd`. -/
def execSadd (o : ExtOps) (s : State) : Out :=
  issue (.sadd o) (fun c => alu2F c o fun a b => clampTo o.ty (intVal o.ty a + intVal o.ty b)) s

/-- R188: `ssub`. -/
def execSsub (o : ExtOps) (s : State) : Out :=
  issue (.ssub o) (fun c => alu2F c o fun a b => clampTo o.ty (intVal o.ty a - intVal o.ty b)) s

/-- R189: sum and carry, as a pair. -/
def addCarry (a b cin : Nat) : Nat :=
  let s := a + b + cin % 2
  s % 2 ^ 32 + 2 ^ 32 * b01 (decide (2 ^ 32 ≤ s))

/-- R189: difference and borrow, as a pair. -/
def subBorrow (a b cin : Nat) : Nat :=
  wrap 32 ((a : Int) - (b : Int) - ((cin % 2 : Nat) : Int)) + 2 ^ 32 * b01 (decide (a < b + cin % 2))

/-- R189: `addc`. -/
def execAddc (o : ExtOps) (s : State) : Out :=
  issue (.addc o) (fun c => writesOnly (c.put true o.d.toNat fun k =>
    addCarry (c.rd o.a.r.toNat k) (c.opB o k) (c.rd o.c.r.toNat k))) s

/-- R189: `subb`. -/
def execSubb (o : ExtOps) (s : State) : Out :=
  issue (.subb o) (fun c => writesOnly (c.put true o.d.toNat fun k =>
    subBorrow (c.rd o.a.r.toNat k) (c.opB o k) (c.rd o.c.r.toNat k))) s

/-- R190: the low part of the product. -/
def mulW (w a b : Nat) : Nat := a * b % 2 ^ w

/-- R190: the upper half of the product. -/
def mulHi (ty : Ty) (a b : Nat) : Nat :=
  wrap (tyWidth ty) ((intVal ty a * intVal ty b) / ((2 ^ tyWidth ty : Nat) : Int))

/-- R190: base `mul`. -/
def execMulBase (o : BaseOps) (s : State) : Out := issue (.mulBase o) (fun c => base2 c o (mulW 32)) s

/-- R190: `mul`. -/
def execMul (o : ExtOps) (s : State) : Out := issue (.mul o) (fun c => alu2 c o (mulW (tyWidth o.ty))) s

/-- R190: `mulhi`. -/
def execMulhi (o : ExtOps) (s : State) : Out := issue (.mulhi o) (fun c => alu2 c o (mulHi o.ty)) s

/-- R190: the low part of product and sum. -/
def madW (w a b d : Nat) : Nat := (a * b + d) % 2 ^ w

/-- R190: `mad`. -/
def execMad (o : ExtOps) (s : State) : Out :=
  issue (.mad o) (fun c => writesOnly (c.put (wideTy o) o.d.toNat fun k =>
    map3 (tyWidth o.ty) (madW (tyWidth o.ty)) (c.opA o k) (c.opBReg o k) (c.opC o k))) s

/-- R190: `madw`: 32-bit factors, 64-bit sum. -/
def execMadw (o : ExtOps) (s : State) : Out :=
  issue (.madw o) (fun c => writesOnly (c.put true o.d.toNat fun k =>
    wrap 64 (intVal o.ty (c.rd o.a.r.toNat k) * intVal o.ty (c.opBReg o k) + (c.rd2 o.c.r.toNat k : Int)))) s

/-- R191: the four products and the accumulator. -/
def dot4Sum (ty : Ty) (a b acc : Nat) : Int :=
  (if tySigned ty then signed 32 acc else (acc : Int))
    + ((List.range 4).map fun i => intVal ty (bits a (8 * i) 8) * intVal ty (bits b (8 * i) 8)).sum

/-- R191: `dot4`. -/
def execDot4 (o : ExtOps) (s : State) : Out :=
  issue (.dot4 o) (fun c => putFlags c false o.d.toNat fun k =>
    let v := dot4Sum o.ty (c.opA o k) (c.opBReg o k) (c.rd o.c.r.toNat k)
    if o.sat then clampTo (if tySigned o.ty then .i32 else .n32) v else (wrap 32 v, 0)) s

/-- R190: 64-bit `mul`. -/
def execMul64 (o : ExtOps) (s : State) : Out :=
  issue (.mul64 o) (fun c => putLong c true o.d.toNat fun k => (mulW 64 (c.opA o k) (c.opB o k), 0)) s

/-- R190: 64-bit `mulhi`. -/
def execMulhi64 (o : ExtOps) (s : State) : Out :=
  issue (.mulhi64 o) (fun c => putLong c true o.d.toNat fun k => (mulHi o.ty (c.opA o k) (c.opB o k), 0)) s

/-- R190: 64-bit `mad`. -/
def execMad64 (o : ExtOps) (s : State) : Out :=
  issue (.mad64 o) (fun c => putLong c true o.d.toNat fun k =>
    (madW 64 (c.opA o k) (c.opBReg o k) (c.opC o k), 0)) s

/-- R192: the quotient and its flag. -/
def quotient (ty : Ty) (a b : Nat) : Nat × Nat :=
  let x := intVal ty a
  let y := intVal ty b
  if y = 0 then (2 ^ tyWidth ty - 1, if x = 0 then fNV else fDZ) else (wrap (tyWidth ty) (x.tdiv y), 0)

/-- R192: the remainder and its flag. -/
def remainder (ty : Ty) (a b : Nat) : Nat × Nat :=
  let x := intVal ty a
  let y := intVal ty b
  if y = 0 then (a, if x = 0 then fNV else fDZ) else (wrap (tyWidth ty) (x.tmod y), 0)

/-- R192: a division, element by element. -/
def divBody (f : Ty → Nat → Nat → Nat × Nat) (o : ExtOps) (c : Ctx) : Res :=
  let w := tyWidth o.ty
  putLong c (wideTy o) o.d.toNat fun k =>
    eachElem w fun i => f o.ty (elemAt w (c.opA o k) i) (elemAt w (c.opB o k) i)

/-- R192: `idiv`. -/
def execIdiv (o : ExtOps) (s : State) : Out := issue (.idiv o) (divBody quotient o) s

/-- R192: `irem`. -/
def execIrem (o : ExtOps) (s : State) : Out := issue (.irem o) (divBody remainder o) s

/-- R192: 64-bit `idiv`. -/
def execIdiv64 (o : ExtOps) (s : State) : Out := issue (.idiv64 o) (divBody quotient o) s

/-- R192: 64-bit `irem`. -/
def execIrem64 (o : ExtOps) (s : State) : Out := issue (.irem64 o) (divBody remainder o) s

/-- R193: the complement of a value of `w` bits. -/
def notW (w x : Nat) : Nat := 2 ^ w - 1 - x % 2 ^ w

/-- R193: `a` without the bits of `b`. -/
def andnW (w a b : Nat) : Nat := a &&& notW w b

/-- R193: base `and`. -/
def execAndBase (o : BaseOps) (s : State) : Out := issue (.andBase o) (fun c => base2 c o (· &&& ·)) s

/-- R193: base `or`. -/
def execOrBase (o : BaseOps) (s : State) : Out := issue (.orBase o) (fun c => base2 c o (· ||| ·)) s

/-- R193: base `xor`. -/
def execXorBase (o : BaseOps) (s : State) : Out := issue (.xorBase o) (fun c => base2 c o (· ^^^ ·)) s

/-- R193: base `andn`. -/
def execAndnBase (o : BaseOps) (s : State) : Out := issue (.andnBase o) (fun c => base2 c o (andnW 32)) s

/-- R193: base `not`. -/
def execNotBase (o : BaseOps) (s : State) : Out := issue (.notBase o) (fun c => base1 c o (notW 32)) s

/-- R193: `and`. -/
def execAnd (o : ExtOps) (s : State) : Out := issue (.and o) (fun c => alu2 c o (· &&& ·)) s

/-- R193: `or`. -/
def execOr (o : ExtOps) (s : State) : Out := issue (.or o) (fun c => alu2 c o (· ||| ·)) s

/-- R193: `xor`. -/
def execXor (o : ExtOps) (s : State) : Out := issue (.xor o) (fun c => alu2 c o (· ^^^ ·)) s

/-- R193: `andn`. -/
def execAndn (o : ExtOps) (s : State) : Out := issue (.andn o) (fun c => alu2 c o (andnW (tyWidth o.ty))) s

/-- R193: `not`. -/
def execNot (o : ExtOps) (s : State) : Out := issue (.not o) (fun c => alu1 c o (notW (tyWidth o.ty))) s

/-- R193: a logic function by its table, bit by bit. -/
def logicFn (w table a b x y : Nat) : Nat :=
  maskOf ((List.range w).filter fun j =>
    bit table (b01 (bit a j) + 2 * b01 (bit b j) + 4 * b01 (bit x j) + 8 * b01 (bit y j)))

/-- R193: `lfn`. -/
def execLfn (o : ExtOps) (s : State) : Out :=
  issue (.lfn o) (fun c => writesOnly (c.put (wideTy o) o.d.toNat fun k =>
    logicFn (tyWidth o.ty) (bits (immU o) 0 8) (c.rdTy o.ty o.a.r.toNat k) (c.rdTy o.ty o.b.r.toNat k)
      (c.rdTy o.ty o.c.r.toNat k) 0)) s

/-- R193: `lfn.d`: its table is the literal, its fourth input the old D. -/
def execLfnD (o : ExtOps) (s : State) : Out :=
  issue (.lfnD o) (fun c => writesOnly (c.put (wideTy o) o.d.toNat fun k =>
    logicFn (tyWidth o.ty) (bits ((o.lit.getD 0).toNat) 0 16) (c.rdTy o.ty o.a.r.toNat k)
      (c.rdTy o.ty o.b.r.toNat k) (c.rdTy o.ty o.c.r.toNat k) (c.rdTy o.ty o.d.toNat k))) s

/-- R194: shift left. -/
def shlW (w a k : Nat) : Nat := if k < w then a * 2 ^ k % 2 ^ w else 0

/-- R194: logical shift right. -/
def shrW (w a k : Nat) : Nat := if k < w then a / 2 ^ k else 0

/-- R194: arithmetic shift right. -/
def sarW (w a k : Nat) : Nat := wrap w (signed w a / ((2 ^ min k w : Nat) : Int))

/-- R194: rotate left. -/
def rolW (w a k : Nat) : Nat := a * 2 ^ (k % w) % 2 ^ w + a / 2 ^ (w - k % w)

/-- R194: rotate right. -/
def rorW (w a k : Nat) : Nat := rolW w a (w - k % w)

/-- R194: base `shl`. -/
def execShlBase (o : BaseOps) (s : State) : Out := issue (.shlBase o) (fun c => base2 c o (shlW 32)) s

/-- R194: base `shr`. -/
def execShrBase (o : BaseOps) (s : State) : Out := issue (.shrBase o) (fun c => base2 c o (shrW 32)) s

/-- R194: base `sar`. -/
def execSarBase (o : BaseOps) (s : State) : Out := issue (.sarBase o) (fun c => base2 c o (sarW 32)) s

/-- R194: `shl`. -/
def execShl (o : ExtOps) (s : State) : Out := issue (.shl o) (fun c => alu2 c o (shlW (tyWidth o.ty))) s

/-- R194: `shr`. -/
def execShr (o : ExtOps) (s : State) : Out := issue (.shr o) (fun c => alu2 c o (shrW (tyWidth o.ty))) s

/-- R194: `sar`. -/
def execSar (o : ExtOps) (s : State) : Out := issue (.sar o) (fun c => alu2 c o (sarW (tyWidth o.ty))) s

/-- R194: `rol`. -/
def execRol (o : ExtOps) (s : State) : Out := issue (.rol o) (fun c => alu2 c o (rolW (tyWidth o.ty))) s

/-- R194: `ror`. -/
def execRor (o : ExtOps) (s : State) : Out := issue (.ror o) (fun c => alu2 c o (rorW (tyWidth o.ty))) s

/-- R195: the funnel shift. -/
def funnel (w a b k : Nat) : Nat := (a * 2 ^ w + b) / 2 ^ (k % w) % 2 ^ w

/-- R195: `fsh`. -/
def execFsh (o : ExtOps) (s : State) : Out :=
  issue (.fsh o) (fun c => writesOnly (c.put (wideTy o) o.d.toNat fun k =>
    funnel (tyWidth o.ty) (c.opA o k) (c.opBReg o k) (c.rd o.c.r.toNat k))) s

/-- R196: the lowest bit of the field. -/
def fieldPos (o : ExtOps) : Nat := bits (immU o) 0 6

/-- R196: the length of the field. -/
def fieldLen (o : ExtOps) : Nat := bits (immU o) 6 6 + 1

/-- R196: the field of `bfx`, extended. -/
def extractField (sg : Bool) (w pos len a : Nat) : Nat :=
  let f := bits a pos len
  if sg then wrap w (signed len f) else f

/-- R196: `b` with its field replaced. -/
def insertField (pos len a b : Nat) : Nat := b - bits b pos len * 2 ^ pos + bits a 0 len * 2 ^ pos

/-- R196: `bfx`. -/
def execBfx (o : ExtOps) (s : State) : Out :=
  issue (.bfx o) (fun c => alu1 c o (extractField (tySigned o.ty) (tyWidth o.ty) (fieldPos o) (fieldLen o))) s

/-- R196: `bfi`. -/
def execBfi (o : ExtOps) (s : State) : Out :=
  issue (.bfi o) (fun c => writesOnly (c.put (wideTy o) o.d.toNat fun k =>
    insertField (fieldPos o) (fieldLen o) (c.opA o k) (c.opBReg o k))) s

/-- R197: the number of 1 bits. -/
def popcW (w a : Nat) : Nat := (setBits w a).length

/-- R197: leading zeros. -/
def clzW (w a : Nat) : Nat := match (setBits w a).getLast? with
  | some j => w - 1 - j
  | none => w

/-- R197: trailing zeros. -/
def ctzW (w a : Nat) : Nat := (setBits w a).headD w

/-- R197: the bits in reverse order. -/
def brevW (w a : Nat) : Nat := maskOf ((setBits w a).map fun j => w - 1 - j)

/-- R197: base `popc`. -/
def execPopcBase (o : BaseOps) (s : State) : Out := issue (.popcBase o) (fun c => base1 c o (popcW 32)) s

/-- R197: base `clz`. -/
def execClzBase (o : BaseOps) (s : State) : Out := issue (.clzBase o) (fun c => base1 c o (clzW 32)) s

/-- R197: `popc`. -/
def execPopc (o : ExtOps) (s : State) : Out := issue (.popc o) (fun c => alu1 c o (popcW (tyWidth o.ty))) s

/-- R197: `clz`. -/
def execClz (o : ExtOps) (s : State) : Out := issue (.clz o) (fun c => alu1 c o (clzW (tyWidth o.ty))) s

/-- R197: `ctz`. -/
def execCtz (o : ExtOps) (s : State) : Out := issue (.ctz o) (fun c => alu1 c o (ctzW (tyWidth o.ty))) s

/-- R197: `brev`. -/
def execBrev (o : ExtOps) (s : State) : Out := issue (.brev o) (fun c => alu1 c o (brevW (tyWidth o.ty))) s

/-- R198: the smaller. -/
def minW (ty : Ty) (a b : Nat) : Nat := if intVal ty b < intVal ty a then b else a

/-- R198: the larger. -/
def maxW (ty : Ty) (a b : Nat) : Nat := if intVal ty a < intVal ty b then b else a

/-- R198: the absolute value, modulo 2^w. -/
def absW (ty : Ty) (a : Nat) : Nat := wrap (tyWidth ty) ((intVal ty a).natAbs : Int)

/-- R198: the negation, modulo 2^w. -/
def negW (w a : Nat) : Nat := wrap w (-(a : Int))

/-- R198: base `min` on i32. -/
def execMinI32Base (o : BaseOps) (s : State) : Out := issue (.minI32Base o) (fun c => base2 c o (minW .i32)) s

/-- R198: base `max` on i32. -/
def execMaxI32Base (o : BaseOps) (s : State) : Out := issue (.maxI32Base o) (fun c => base2 c o (maxW .i32)) s

/-- R198: base `min` on n32. -/
def execMinN32Base (o : BaseOps) (s : State) : Out := issue (.minN32Base o) (fun c => base2 c o (minW .n32)) s

/-- R198: base `max` on n32. -/
def execMaxN32Base (o : BaseOps) (s : State) : Out := issue (.maxN32Base o) (fun c => base2 c o (maxW .n32)) s

/-- R198: base `neg`. -/
def execNegBase (o : BaseOps) (s : State) : Out := issue (.negBase o) (fun c => base1 c o (negW 32)) s

/-- R198: base `abs`. -/
def execAbsBase (o : BaseOps) (s : State) : Out := issue (.absBase o) (fun c => base1 c o (absW .i32)) s

/-- R198: `min`. -/
def execMin (o : ExtOps) (s : State) : Out := issue (.min o) (fun c => alu2 c o (minW o.ty)) s

/-- R198: `max`. -/
def execMax (o : ExtOps) (s : State) : Out := issue (.max o) (fun c => alu2 c o (maxW o.ty)) s

/-- R198: `abs`. -/
def execAbs (o : ExtOps) (s : State) : Out := issue (.abs o) (fun c => alu1 c o (absW o.ty)) s

/-- R198: `neg`. -/
def execNeg (o : ExtOps) (s : State) : Out := issue (.neg o) (fun c => alu1 c o (negW (tyWidth o.ty))) s

/-- R199: whether a condition holds. -/
def condHolds (cond : Nat) (a b : Int) : Bool :=
  match cond with
  | 0 => a == b
  | 1 => a != b
  | 2 => decide (a < b)
  | 3 => decide (a ≤ b)
  | 4 => decide (b < a)
  | _ => decide (b ≤ a)

/-- R199, R203: the outcome of a comparison: 1 or 0, or a mask of the element. -/
def outcome (w : Nat) (b : Bool) : Nat := if b then (if w ≥ 32 then 1 else 2 ^ w - 1) else 0

/-- R199: `cmp`. -/
def execCmp (o : ExtOps) (s : State) : Out :=
  issue (.cmp o) (fun c => writesOnly (c.put false o.d.toNat fun k =>
    map2 (tyWidth o.ty) (fun a b => outcome (tyWidth o.ty) (condHolds (immU o) (intVal o.ty a) (intVal o.ty b)))
      (c.opA o k) (c.opBReg o k))) s

end Sys2Proof.Machine
end

