-- ==== Sys2Proof/Machine/FpArith.lean ====
section
/-!
DEFINITION. Fast floating point (R200 to R211): single roundings by Flags.lean, comparisons, classification and
conversions.
-/
namespace Sys2Proof.Machine

/-- A value with its sign inverted; a NaN keeps its class. -/
def FVal.negate : FVal → FVal
  | .nan sg => .nan sg
  | .inf n => .inf !n
  | .fin n m e => .fin (!n) m e

/-- Whether a value is a NaN. -/
def FVal.isNan : FVal → Bool
  | .nan _ => true
  | _ => false

/-- R201: `fadd` of two elements. -/
def faddF (ty : Ty) (mode a b : Nat) : Nat × Nat :=
  ((({} : XSum).add (decodeF ty a)).add (decodeF ty b)).value ty mode false

/-- R201: `fsub` of two elements. -/
def fsubF (ty : Ty) (mode a b : Nat) : Nat × Nat :=
  ((({} : XSum).add (decodeF ty a)).add (decodeF ty b).negate).value ty mode false

/-- R201: `fmul` of two elements. A product is the sum of one term. -/
def fmulF (ty : Ty) (mode a b : Nat) : Nat × Nat :=
  (({} : XSum).addMul (decodeF ty a) (decodeF ty b)).value ty mode false

/-- R201: `fma` of three elements. -/
def fmaF (ty : Ty) (mode a b d : Nat) : Nat × Nat :=
  ((({} : XSum).addMul (decodeF ty a) (decodeF ty b)).add (decodeF ty d)).value ty mode false

/-- R202: the order of numeric encodings, -0 below +0. -/
def orderKey (ty : Ty) (x : Nat) : Int :=
  let f := fmtOf ty
  let mag := bits x 0 (f.mb + f.eb)
  if bit x (f.mb + f.eb) then -(mag : Int) - 1 else (mag : Int)

/-- R202: `fmin` or `fmax` of two elements. -/
def fextF (ty : Ty) (big : Bool) (a b : Nat) : Nat × Nat :=
  let x := decodeF ty a
  let y := decodeF ty b
  let fl := flagIf (x.isSnan || y.isSnan) fNV
  let v :=
    if x.isNan && y.isNan then canonNan ty
    else if x.isNan then b
    else if y.isNan then a
    else if big then (if orderKey ty a < orderKey ty b then b else a)
    else if orderKey ty b < orderKey ty a then b
    else a
  (v, fl)

/-- R203: a comparison key under which the zeros are equal. -/
def valueKey (ty : Ty) (x : Nat) : Int :=
  let f := fmtOf ty
  let mag := bits x 0 (f.mb + f.eb)
  if bit x (f.mb + f.eb) then -(mag : Int) else (mag : Int)

/-- R203: the outcome of a predicate on ordered values, and on unordered ones. -/
def predHolds (pred : Nat) (unordered : Bool) (a b : Int) : Bool :=
  match pred with
  | 0 => !unordered && a == b
  | 1 => !unordered && decide (a < b)
  | 2 => !unordered && decide (a ≤ b)
  | 3 => unordered
  | 4 => unordered || a != b
  | 5 => !unordered && decide (b ≤ a)
  | 6 => !unordered && decide (b < a)
  | _ => !unordered

/-- R203: `fcmp` of two elements; `imm` holds SIG and PRED. -/
def fcmpF (ty : Ty) (imm a b : Nat) : Nat × Nat :=
  let x := decodeF ty a
  let y := decodeF ty b
  let un := x.isNan || y.isNan
  (outcome (tyWidth ty) (predHolds (bits imm 0 3) un (valueKey ty a) (valueKey ty b)),
   flagIf (x.isSnan || y.isSnan || (bit imm 3 && un)) fNV)

/-- R204: `fneg` of an element. -/
def fnegF (ty : Ty) (a : Nat) : Nat × Nat :=
  match decodeF ty a with
  | .nan sg => (canonNan ty, flagIf sg fNV)
  | _ => (a ^^^ 2 ^ (tyWidth ty - 1), 0)

/-- R204: `fsgn` of two elements. -/
def fsgnF (ty : Ty) (a b : Nat) : Nat × Nat :=
  match decodeF ty a with
  | .nan sg => (canonNan ty, flagIf sg fNV)
  | _ => (bits a 0 (tyWidth ty - 1) + 2 ^ (tyWidth ty - 1) * b01 (bit b (tyWidth ty - 1)), 0)

/-- R205: the class number of an element. -/
def fclassF (ty : Ty) (a : Nat) : Nat :=
  let sub (m : Nat) : Bool := decide (m < 2 ^ (fmtOf ty).mb)
  match decodeF ty a with
  | .inf n => if n then 0 else 7
  | .nan sg => if sg then 8 else 9
  | .fin n 0 _ => if n then 3 else 4
  | .fin n m _ => if sub m then (if n then 2 else 5) else if n then 1 else 6

/-- R206: `fexpo` of an element, as a signed field of `w` bits. -/
def fexpoF (ty : Ty) (w a : Nat) : Nat × Nat :=
  match decodeF ty a with
  | .nan _ => (2 ^ (w - 1), fNV)
  | .inf _ => (2 ^ (w - 1) - 1, fNV)
  | .fin _ 0 _ => (2 ^ (w - 1), fDZ)
  | .fin _ m e => (wrap w (e + (m.log2 : Int)), 0)

/-- R207: `frnd` of an element. -/
def frndF (ty : Ty) (mode a : Nat) : Nat × Nat :=
  match decodeF ty a with
  | .nan sg => (canonNan ty, flagIf sg fNV)
  | .inf _ => (a, 0)
  | .fin _ 0 _ => (a, 0)
  | .fin n m e =>
    let r := roundAt mode n m e 0
    (packF ty n r.1 0, flagIf r.2 fNX)

/-- R207: `fscale` of an element by 2^k. Beyond 5,000 either way the rounding no longer changes. -/
def fscaleF (ty : Ty) (mode a : Nat) (k : Int) : Nat × Nat :=
  match decodeF ty a with
  | .nan sg => (canonNan ty, flagIf sg fNV)
  | .inf _ => (a, 0)
  | .fin _ 0 _ => (a, 0)
  | .fin n m e => roundF ty mode false n m (e + max (-5000) (min 5000 k))

/-- R186, R200: element by element over A and B, with flags. -/
def fp2 (o : ExtOps) (f : Nat → Nat → Nat × Nat) (c : Ctx) : Res :=
  let w := tyWidth o.ty
  putFlags c (wideTy o) o.d.toNat fun k =>
    eachElem w fun i => f (elemAt w (c.opA o k) i) (elemAt w (c.opBReg o k) i)

/-- R186, R200: element by element over A, with flags. -/
def fp1 (o : ExtOps) (f : Nat → Nat × Nat) (c : Ctx) : Res :=
  let w := tyWidth o.ty
  putFlags c (wideTy o) o.d.toNat fun k => eachElem w fun i => f (elemAt w (c.opA o k) i)

/-- R201: base `fadd`, in RNE. -/
def execFaddBase (o : BaseOps) (s : State) : Out :=
  issue (.faddBase o) (fun c => putFlags c false o.d.toNat fun k =>
    faddF .f32 0 (c.rd o.d.toNat k) (c.rd o.a.toNat k)) s

/-- R201: base `fsub`, in RNE. -/
def execFsubBase (o : BaseOps) (s : State) : Out :=
  issue (.fsubBase o) (fun c => putFlags c false o.d.toNat fun k =>
    fsubF .f32 0 (c.rd o.d.toNat k) (c.rd o.a.toNat k)) s

/-- R201: base `fmul`, in RNE. -/
def execFmulBase (o : BaseOps) (s : State) : Out :=
  issue (.fmulBase o) (fun c => putFlags c false o.d.toNat fun k =>
    fmulF .f32 0 (c.rd o.d.toNat k) (c.rd o.a.toNat k)) s

/-- R204: base `fneg`. -/
def execFnegBase (o : BaseOps) (s : State) : Out :=
  issue (.fnegBase o) (fun c => putFlags c false o.d.toNat fun k => fnegF .f32 (c.rd o.a.toNat k)) s

/-- R201: `fadd`. -/
def execFadd (o : ExtOps) (s : State) : Out := issue (.fadd o) (fun c => fp2 o (faddF o.ty (c.mode o.rm)) c) s

/-- R201: `fsub`. -/
def execFsub (o : ExtOps) (s : State) : Out := issue (.fsub o) (fun c => fp2 o (fsubF o.ty (c.mode o.rm)) c) s

/-- R201: `fmul`. -/
def execFmul (o : ExtOps) (s : State) : Out := issue (.fmul o) (fun c => fp2 o (fmulF o.ty (c.mode o.rm)) c) s

/-- R201: a fused multiply and add of elements. -/
def fmaBody (o : ExtOps) (c : Ctx) : Res :=
  let w := tyWidth o.ty
  putFlags c (wideTy o) o.d.toNat fun k => eachElem w fun i =>
    fmaF o.ty (c.mode o.rm) (elemAt w (c.opA o k) i) (elemAt w (c.opBReg o k) i) (elemAt w (c.opC o k) i)

/-- R201: `fma`. -/
def execFma (o : ExtOps) (s : State) : Out := issue (.fma o) (fmaBody o) s

/-- R202: `fmin`. -/
def execFmin (o : ExtOps) (s : State) : Out := issue (.fmin o) (fp2 o (fextF o.ty false)) s

/-- R202: `fmax`. -/
def execFmax (o : ExtOps) (s : State) : Out := issue (.fmax o) (fp2 o (fextF o.ty true)) s

/-- R203: a comparison writes one register. -/
def fcmpBody (o : ExtOps) (c : Ctx) : Res :=
  let w := tyWidth o.ty
  putFlags c false o.d.toNat fun k => eachElem w fun i =>
    fcmpF o.ty (immU o) (elemAt w (c.opA o k) i) (elemAt w (c.opBReg o k) i)

/-- R203: `fcmp`. -/
def execFcmp (o : ExtOps) (s : State) : Out := issue (.fcmp o) (fcmpBody o) s

/-- R201: `fadd` in f64. -/
def execFaddD (o : ExtOps) (s : State) : Out := issue (.faddD o) (fun c => fp2 o (faddF o.ty (c.mode o.rm)) c) s

/-- R201: `fsub` in f64. -/
def execFsubD (o : ExtOps) (s : State) : Out := issue (.fsubD o) (fun c => fp2 o (fsubF o.ty (c.mode o.rm)) c) s

/-- R201: `fmul` in f64. -/
def execFmulD (o : ExtOps) (s : State) : Out := issue (.fmulD o) (fun c => fp2 o (fmulF o.ty (c.mode o.rm)) c) s

/-- R201: `fma` in f64. -/
def execFmaD (o : ExtOps) (s : State) : Out := issue (.fmaD o) (fmaBody o) s

/-- R202: `fmin` in f64. -/
def execFminD (o : ExtOps) (s : State) : Out := issue (.fminD o) (fp2 o (fextF o.ty false)) s

/-- R202: `fmax` in f64. -/
def execFmaxD (o : ExtOps) (s : State) : Out := issue (.fmaxD o) (fp2 o (fextF o.ty true)) s

/-- R203: `fcmp` in f64. -/
def execFcmpD (o : ExtOps) (s : State) : Out := issue (.fcmpD o) (fcmpBody o) s

/-- R204: `fneg`. -/
def execFneg (o : ExtOps) (s : State) : Out := issue (.fneg o) (fp1 o (fnegF o.ty)) s

/-- R204: `fsgn`. -/
def execFsgn (o : ExtOps) (s : State) : Out := issue (.fsgn o) (fp2 o (fsgnF o.ty)) s

/-- R205: `fclass`. -/
def execFclass (o : ExtOps) (s : State) : Out :=
  issue (.fclass o) (fun c => writesOnly (c.put false o.d.toNat fun k =>
    map1 (tyWidth o.ty) (fclassF o.ty) (c.opA o k))) s

/-- R206: `fexpo`. -/
def execFexpo (o : ExtOps) (s : State) : Out :=
  issue (.fexpo o) (fun c =>
    let w := tyWidth o.ty
    putFlags c false o.d.toNat fun k => eachElem w fun i => fexpoF o.ty (min w 32) (elemAt w (c.opA o k) i)) s

/-- R207: the exponent that element `i` of B gives `fscale`. -/
def scaleBy (c : Ctx) (o : ExtOps) (k i : Nat) : Int :=
  let w := tyWidth o.ty
  let b := c.rd o.b.r.toNat k
  if w ≥ 32 then signed 32 b else signed w (bits (modify o.b w b) (w * i) w)

/-- R207: `fscale` of a lane's elements. -/
def fscaleBody (o : ExtOps) (c : Ctx) : Res :=
  let w := tyWidth o.ty
  putFlags c (wideTy o) o.d.toNat fun k => eachElem w fun i =>
    fscaleF o.ty (c.mode o.rm) (elemAt w (c.opA o k) i) (scaleBy c o k i)

/-- R207: `frnd`. -/
def execFrnd (o : ExtOps) (s : State) : Out := issue (.frnd o) (fun c => fp1 o (frndF o.ty (c.mode o.rm)) c) s

/-- R207: `fscale`. -/
def execFscale (o : ExtOps) (s : State) : Out := issue (.fscale o) (fscaleBody o) s

/-- R207: `frnd` in f64. -/
def execFrndD (o : ExtOps) (s : State) : Out := issue (.frndD o) (fun c => fp1 o (frndF o.ty (c.mode o.rm)) c) s

/-- R207: `fscale` in f64. -/
def execFscaleD (o : ExtOps) (s : State) : Out := issue (.fscaleD o) (fscaleBody o) s

/-- R209: the source of a conversion: a pair, or a word after half select and swizzle by the source's elements. -/
def Ctx.convSrc (c : Ctx) (o : ExtOps) (lane : Nat) : Nat :=
  let w := tyWidth (srcTy o)
  if w = 64 then c.rd2 o.a.r.toNat lane else modify o.a w (c.rd o.a.r.toNat lane)

/-- R209: element `i` of the destination takes source element `i` modulo their number. -/
def convBody (o : ExtOps) (f : Nat → Nat × Nat) (c : Ctx) : Res :=
  let ws := tyWidth (srcTy o)
  let ns := if ws ≥ 32 then 1 else 32 / ws
  putFlags c (wideTy o) o.d.toNat fun k =>
    eachElem (tyWidth o.ty) fun i => f (elemAt ws (c.convSrc o k) (i % ns))

/-- R210: `fcvt` of an element. -/
def fcvtElem (c : Ctx) (o : ExtOps) (x : Nat) : Nat × Nat :=
  convertF o.ty (c.mode o.rm) o.sat (decodeF (srcTy o) x)

/-- R109: `icvt` of an element. -/
def icvtElem (c : Ctx) (o : ExtOps) (x : Nat) : Nat × Nat :=
  let v := intVal (srcTy o) x
  if v = 0 then (0, 0) else roundF o.ty (c.mode o.rm) false (v < 0) v.natAbs 0

/-- R90, R108: `fcvti` of an element. -/
def fcvtiF (ty : Ty) (mode : Nat) (sat : Bool) (v : FVal) : Nat × Nat :=
  let w := tyWidth ty
  let bad := if sat then fSI else fNV
  match v with
  | .nan sg => (0, bad ||| flagIf sg fNV)
  | .inf n => (wrap w (if n then minOf ty else maxOf ty), bad)
  | .fin n m e =>
    if w + 2 < (m.log2 : Int) + e then (wrap w (if n ∧ m ≠ 0 then minOf ty else maxOf ty), bad)
    else
      let r := roundInt mode n m e
      if r.1 < minOf ty then (wrap w (minOf ty), bad)
      else if maxOf ty < r.1 then (wrap w (maxOf ty), bad)
      else (wrap w r.1, flagIf r.2 fNX)

/-- R210: `fcvt`. -/
def execFcvt (o : ExtOps) (s : State) : Out := issue (.fcvt o) (fun c => convBody o (fcvtElem c o) c) s

/-- R210: `icvt`. -/
def execIcvt (o : ExtOps) (s : State) : Out := issue (.icvt o) (fun c => convBody o (icvtElem c o) c) s

/-- R210: `fcvti`. -/
def execFcvti (o : ExtOps) (s : State) : Out :=
  issue (.fcvti o) (fun c => convBody o (fun x => fcvtiF o.ty (c.mode o.rm) o.sat (decodeF (srcTy o) x)) c) s

/-- R210: `fcvt` with f64. -/
def execFcvtD (o : ExtOps) (s : State) : Out := issue (.fcvtD o) (fun c => convBody o (fcvtElem c o) c) s

/-- R210: `icvt` with f64 or 64-bit integers. -/
def execIcvtD (o : ExtOps) (s : State) : Out := issue (.icvtD o) (fun c => convBody o (icvtElem c o) c) s

/-- R210: `fcvti` from f64. -/
def execFcvtiD (o : ExtOps) (s : State) : Out :=
  issue (.fcvtiD o) (fun c => convBody o (fun x => fcvtiF o.ty (c.mode o.rm) o.sat (decodeF (srcTy o) x)) c) s

/-- R111: the exponent of a nonzero finite value, floor(log2|x|). -/
def FVal.expo : FVal → Option Int
  | .fin _ 0 _ => none
  | .fin _ m e => some (e + (m.log2 : Int))
  | _ => none

/-- R111: the scale code of a block, and NV. -/
def mxScale (ty : Ty) (xs : List FVal) : Nat × Nat :=
  let special (v : FVal) : Bool := match v with
    | .fin _ _ _ => false
    | _ => true
  let bad (v : FVal) : Bool := match v with
    | .nan sg => sg
    | .inf _ => true
    | _ => false
  if xs.any special then (0xFF, flagIf (xs.any bad) fNV)
  else
    match xs.filterMap FVal.expo with
    | [] => (0, 0)
    | e :: es => ((es.foldl max e - (fmtOf ty).emax + 127).toNat, 0)

/-- R111, R112: an element of a block with this scale code, and its flags. -/
def mxElem (ty : Ty) (mode : Nat) (sat : Bool) (code : Nat) (v : FVal) : Nat × Nat :=
  if code = 0xFF then (0, 0)
  else match v with
  | .fin n 0 _ => (zeroBits ty n, 0)
  | .fin n m e =>
    let r := roundF ty mode false n m (e + 127 - (code : Int))
    if r.2 &&& fOF ≠ 0 then (maxBits ty n, (if sat then fSI else fOF) ||| fNX) else r
  | _ => (0, 0)

/-- R111 step 2: a block of zeros has the element code 0 throughout. -/
def mxBlock (ty : Ty) (mode : Nat) (sat : Bool) (xs : List FVal) : Nat × List Nat × Nat :=
  let sc := mxScale ty xs
  let zeros := xs.all fun v => match v with
    | .fin _ 0 _ => true
    | _ => false
  let es := xs.map (mxElem ty mode sat sc.1)
  (sc.1, if zeros then es.map fun _ => 0 else es.map (·.1), sc.2 ||| orFlags (es.map (·.2)))

/-- R211: the block form of `fcvt`. -/
def execFcvtMx (o : ExtOps) (s : State) : Out :=
  issue (.fcvtMx o) (fun c =>
    let ws := tyWidth (srcTy o)
    let xs := (List.range 32).map fun k =>
      if c.lanes.contains k then decodeF (srcTy o) (elemAt ws (c.convSrc o k) 0) else .fin false 0 0
    let r := mxBlock o.ty (c.mode o.rm) o.sat xs
    if c.lanes.isEmpty then .ok {}
    else .ok {
      writes := c.put false o.d.toNat (fun k => r.2.1.getD k 0) ++ c.put false o.b.r.toNat (fun _ => r.1)
      flags := r.2.2 }) s

end Sys2Proof.Machine
end

