-- ==== Sys2Proof/Machine/Resolved.lean ====
section
/-!
DEFINITION. The instructions of the resolution path (R212 to R247): the fast stage with its assay and records, group
extremes and sums, function slots and `parkw`.
-/
namespace Sys2Proof.Machine

/-! ### Occupation of ring, allowance and tickets (R220) -/

/-- R217: the ring places that records occupy. -/
def ringUsed (k : Block) : List Nat := (k.x.park.map ParkRec.places).flatten

/-- R220: the ring places that long instructions of a block have reserved. -/
def ringReserved (k : Block) : Nat :=
  (k.groups.map fun g => ((g.2.longs.filter fun x => !x.done).map fun x => min x.need k.cap).sum).sum

/-- R217, R220: the places that are neither occupied nor reserved. -/
def ringFree (k : Block) : Nat := k.cap - (ringUsed k).length - ringReserved k

/-- R220: the places that records take. -/
def placesOf (rs : List ParkRec) : Nat := (rs.map fun r => r.imgs.length).sum

/-- R220: the allowance that a block's instructions and unadmitted records hold. -/
def allowanceUsed (k : Block) : Nat :=
  (k.groups.map fun g => ((g.2.longs.filter fun x => !x.done).map fun x =>
      if x.need = 0 then placesOf x.parks else x.need).sum).sum
    + ((k.x.park.filter fun r => r.stage == 0).map fun r => r.places.length).sum

/-- R220: the exact tickets that a block holds. -/
def ticketsUsed (k : Block) : Nat :=
  (((k.groups.map fun g => (g.2.longs.filter fun x => !x.done).filterMap LongX.ticket).flatten
    ++ k.x.park.filterMap ParkRec.ticket).eraseDups).length

/-- R220: whether the record need `r` can be met, with a ticket if one is needed. A block that has left its slot still holds
the allowance of its records and the tickets of its parked lanes. -/
def recordsReady (c : Ctx) (r : Nat) (ticket : Bool) : Bool :=
  let ks := (c.s.blocks.filter fun x => x.2.core == c.b.core).map (·.2)
  decide (min r c.b.cap ≤ ringFree c.b)
    && decide ((ks.map allowanceUsed).sum + r ≤ 384)
    && (!ticket || decide ((ks.map ticketsUsed).sum < 128))

/-! ### Elements and lanes of the fast stage -/

/-- One element of a resolved operation: result and flags; whether it parks; its candidates; whether the wide evaluation
unit passes it on. -/
structure ElemRes where
  val : Nat
  flags : Nat
  parks : Bool := false
  cand : Nat × Nat := (0, 0)
  hard : Bool := false

/-- Who computes: opcode, sub-opcode, mode, operand values; the exact class of R224; the slot's package, if any. -/
structure Fn where
  op : Nat
  sub : Nat
  mode : Nat
  cls : Nat := 0
  slot : Nat := 0
  pkg : Option (List Byte) := none

/-- R216, R474: the element whose outcome on the VK4 a worked example gives where the bounds leave it open: `fexp` of
2^-24 in f32 and RNE parks. -/
def Fn.worked (f : Fn) (ty : Ty) (xs : List Nat) : Bool :=
  f.op == 8 && f.sub == 4 && f.mode == 0 && ty == .f32 && xs == [0x33800000]

/-- R216: the free choice of the fast stage. -/
def Fn.mayPark (f : Fn) (ty : Ty) (xs : List Nat) : Bool :=
  match f.pkg with
  | none => f.worked ty xs || Config.parks f.op f.sub f.mode ty xs
  | some p => Config.slotParks p f.mode ty xs

/-- R222: the free choice of the wide evaluation unit. -/
def Fn.mayPass (f : Fn) (ty : Ty) (xs : List Nat) : Bool :=
  match f.pkg with
  | none => Config.weuPasses f.op f.sub f.mode ty xs
  | some p => Config.slotWeuPasses p f.mode ty xs

/-- R214 to R216, R222: the assay of a number in the destination type; `scale` is the sum of the terms' magnitudes of a
group sum. An element on a boundary parks, and one whose interval must hold a boundary; one whose interval cannot
hold any passes; the fast stage's free choice decides the others. -/
def assay (f : Fn) (ty : Ty) (xs : List Nat) (x : Exact) (scale : Option Nat) (v : Nat × Nat) : ElemRes :=
  let y := bound ty f.mode x
  let p := (fmtOf ty).p
  let parks := !x.far && (onBound x y || mustHold (fmtOf ty) f.mode x scale || (inReach p x scale y && f.mayPark ty xs))
  { val := v.1
    flags := v.2
    parks := parks
    cand := if parks then candidates ty f.mode x.neg y v.1 else (0, 0)
    hard := f.cls != 0 && (onBound x y || (nearBound (2 * p + 20) x y && f.mayPass ty xs)) }

/-- R235: the element of an outcome. -/
def elemRes (f : Fn) (ty : Ty) (xs : List Nat) (r : Outcome) : ElemRes :=
  match r with
  | .special b fl => { val := b, flags := fl }
  | .num x => assay f ty xs x none (x.round ty f.mode)

/-- R216: whether an exact sum is a special input: a NaN or infinite term, or nothing but zeros. -/
def XSum.isSpecial (x : XSum) : Bool := x.fl.nan || x.fl.inv || x.fl.pinf || x.fl.ninf || !x.nz

/-- R103: a NaN term decides the result and NV before infinite terms are looked at. -/
def XSum.nanFirst (x : XSum) : XSum :=
  if x.fl.nan || x.fl.inv then { x with fl := { x.fl with pinf := false, ninf := false } } else x

/-- R237, R238: the element of an exact sum. -/
def sumRes (f : Fn) (ty : Ty) (xs : List Nat) (x : XSum) (scale : Option Nat) : ElemRes :=
  let v := x.nanFirst.value ty f.mode false
  if x.isSpecial then { val := v.1, flags := v.2 }
  else
    let y : Exact := ⟨decide (x.s < 0), x.s.natAbs, x.e, false, false⟩
    assay f ty xs y scale v

/-- R218: one lane: its elements. -/
structure LaneRes where
  lane : Nat
  ops : List Nat
  es : List ElemRes

/-- A word from element values of width `w`. -/
def elemsWord (w : Nat) (xs : List Nat) : Nat := if w ≥ 32 then xs.headD 0 else ofElems w xs

/-- Whether some element of a lane parks. -/
def LaneRes.parked (x : LaneRes) : Bool := x.es.any ElemRes.parks

/-- R218: the mask of parked elements. -/
def LaneRes.emask (x : LaneRes) : Nat := maskOf ((List.range x.es.length).filter fun i => match x.es[i]? with
  | some e => e.parks
  | none => false)

/-- R227: the lane's word at fast completion: parked elements keep the old value. -/
def LaneRes.early (w : Nat) (old : Nat) (x : LaneRes) : Nat :=
  elemsWord w (x.es.mapIdx fun i e => if e.parks then elemAt w old i else e.val)

/-- R218: the control words of a record. -/
def controlWords (f : Fn) (ty : Ty) (d emask kind count team group lane : Nat) : List Byte :=
  toBytes 4 (emask % 4 + 16 * d + 4096 * tyCode ty + 2 ^ 16 * f.mode + 2 ^ 19 * f.op + 2 ^ 26 * f.sub)
    ++ toBytes 4 (lane + 32 * group + 256 * team + 2 ^ 16 * count + 2 ^ 24 * f.slot + 2 ^ 30 * kind)

/-- R218: the candidates of a lane's parked elements. -/
def candBytes (w : Nat) (es : List ElemRes) (pick : Nat × Nat → Nat) : List Byte :=
  toBytes 8 (elemsWord w (es.map fun e => if e.parks then pick e.cand else 0))

/-- What a resolved instruction of a context writes and records. -/
structure Dest where
  ty : Ty
  w : Nat
  reg : Nat

/-- Whether the destination is a pair. -/
def Dest.pair (d : Dest) : Bool := d.w == 64

/-- R218: the record of a parked lane. -/
def laneRec (c : Ctx) (f : Fn) (ty : Ty) (d : Dest) (ticket : Option Nat) (x : LaneRes) : ParkRec :=
  { id := c.s.nextId + 1 + x.lane
    op := f.op, sub := f.sub, mode := f.mode, ty := ty, dreg := d.reg, emask := x.emask, kind := 0, slot := f.slot
    team := c.party / 8, group := c.party % 8, lane := x.lane, lanes := [x.lane], pair := d.pair
    values := [(x.lane, resultWords d.pair (elemsWord d.w (x.es.map ElemRes.val)))]
    flags := BitVec.ofNat 6 (orFlags ((x.es.filter ElemRes.parks).map ElemRes.flags))
    seq := c.b.x.parkSeq + 1, sreft := 0, places := [], ticket := ticket, cls := f.cls
    hard := x.es.any fun e => e.parks && e.hard
    imgs := [((List.range 3).map fun i => toBytes 8 (x.ops.getD i 0)).flatten
      ++ controlWords f ty d.reg x.emask 0 0 (c.party / 8) (c.party % 8) x.lane
      ++ candBytes d.w x.es (·.1) ++ candBytes d.w x.es (·.2)] }

/-- R220, R235: a lane operation of the resolution path. DESIGN CHOICE (log 92): with no active lane it can park none, so it
needs no exact ticket and reserves none. -/
def resolvedLanes (c : Ctx) (f : Fn) (ty : Ty) (d : Dest) (tickets : Bool) (xs : List LaneRes) : Res :=
  let r := xs.length
  if !recordsReady c r (tickets && r != 0) then .wait
  else
    let tk := if tickets ∧ r ≠ 0 then some c.s.nextId else none
    let old (k : Nat) : Nat := if d.pair then c.rd2 d.reg k else c.rd d.reg k
    let keep := xs.filter fun x => !x.parked || d.w < 32
    .ok {
      long := some { longFor c d.reg (if d.pair then 2 else 1) with
        res := keep.map fun x => (x.lane, resultWords d.pair (x.early d.w (old x.lane)))
        flags := BitVec.ofNat 6 (orFlags ((xs.map fun x =>
          (x.es.filter fun e => !e.parks).map ElemRes.flags).flatten))
        parks := (xs.filter LaneRes.parked).map (laneRec c f ty d tk)
        need := r
        ticket := tk }
      post := fun s =>
        let s1 := modBlock { s with nextId := s.nextId + 33 } c.bid fun k =>
          { k with x := { k.x with parkSeq := k.x.parkSeq + 1 } }
        modTeam s1 c.b.core (teamOf c.b c.party) fun t => { t with ctr := { t.ctr with rsiss := t.ctr.rsiss + 1 } } }

/-- R224, R231: the exact class of a function of OP 0x09: 1 for E, 2 for T. -/
def classOf (sub : Nat) : Nat :=
  if sub = 10 ∨ sub = 11 ∨ sub = 12 then 2 else if 4 ≤ sub ∧ sub ≤ 15 then 1 else 0

/-- The function that an instruction computes in the fast stage. -/
def fnOf (c : Ctx) (o : ExtOps) (cls : Nat) : Fn :=
  { op := ((opInfo c.instr).map OpInfo.op).getD 0, sub := ((opInfo c.instr).map OpInfo.sub).getD 0
    mode := c.mode o.rm, cls := cls }

/-- R235: `fdiv`, roots, transcendental functions, `fhypot` and `fpow`. -/
def resolvedBody (o : ExtOps) (c : Ctx) : Res :=
  let sub := ((opInfo c.instr).map OpInfo.sub).getD 0
  let f := fnOf c o (if o.ty = .f64 then classOf sub else 0)
  let w := tyWidth o.ty
  let two := sub = 0 ∨ sub = 16 ∨ sub = 17
  let n := if w ≥ 32 then 1 else 32 / w
  resolvedLanes c f o.ty ⟨o.ty, w, o.d.toNat⟩ (f.cls != 0) (c.lanes.map fun k =>
    let a := c.opA o k
    let b := if two then c.opBReg o k else 0
    ⟨k, [a, b, 0], (List.range n).map fun i =>
      let x := elemAt w a i
      let y := elemAt w b i
      elemRes f o.ty (if two then [x, y] else [x]) (resolved o.ty f.mode sub x y)⟩)

/-- R235: `fdiv`. -/
def execFdiv (o : ExtOps) (s : State) : Out := issue (.fdiv o) (resolvedBody o) s
/-- R235: `frcp`. -/
def execFrcp (o : ExtOps) (s : State) : Out := issue (.frcp o) (resolvedBody o) s
/-- R235: `fsqrt`. -/
def execFsqrt (o : ExtOps) (s : State) : Out := issue (.fsqrt o) (resolvedBody o) s
/-- R235: `frsqrt`. -/
def execFrsqrt (o : ExtOps) (s : State) : Out := issue (.frsqrt o) (resolvedBody o) s
/-- R235: `fexp`. -/
def execFexp (o : ExtOps) (s : State) : Out := issue (.fexp o) (resolvedBody o) s
/-- R235: `fexp2`. -/
def execFexp2 (o : ExtOps) (s : State) : Out := issue (.fexp2 o) (resolvedBody o) s
/-- R235: `fexpm1`. -/
def execFexpm1 (o : ExtOps) (s : State) : Out := issue (.fexpm1 o) (resolvedBody o) s
/-- R235: `flog`. -/
def execFlog (o : ExtOps) (s : State) : Out := issue (.flog o) (resolvedBody o) s
/-- R235: `flog2`. -/
def execFlog2 (o : ExtOps) (s : State) : Out := issue (.flog2 o) (resolvedBody o) s
/-- R235: `flog1p`. -/
def execFlog1p (o : ExtOps) (s : State) : Out := issue (.flog1p o) (resolvedBody o) s
/-- R235: `fsin`. -/
def execFsin (o : ExtOps) (s : State) : Out := issue (.fsin o) (resolvedBody o) s
/-- R235: `fcos`. -/
def execFcos (o : ExtOps) (s : State) : Out := issue (.fcos o) (resolvedBody o) s
/-- R235: `ftan`. -/
def execFtan (o : ExtOps) (s : State) : Out := issue (.ftan o) (resolvedBody o) s
/-- R235: `fsinpi`. -/
def execFsinpi (o : ExtOps) (s : State) : Out := issue (.fsinpi o) (resolvedBody o) s
/-- R235: `fcospi`. -/
def execFcospi (o : ExtOps) (s : State) : Out := issue (.fcospi o) (resolvedBody o) s
/-- R235: `fatan`. -/
def execFatan (o : ExtOps) (s : State) : Out := issue (.fatan o) (resolvedBody o) s
/-- R235: `fhypot`. -/
def execFhypot (o : ExtOps) (s : State) : Out := issue (.fhypot o) (resolvedBody o) s
/-- R235: `fpow`. -/
def execFpow (o : ExtOps) (s : State) : Out := issue (.fpow o) (resolvedBody o) s
/-- R235: `fdiv` in f64. -/
def execFdivD (o : ExtOps) (s : State) : Out := issue (.fdivD o) (resolvedBody o) s
/-- R235: `frcp` in f64. -/
def execFrcpD (o : ExtOps) (s : State) : Out := issue (.frcpD o) (resolvedBody o) s
/-- R235: `fsqrt` in f64. -/
def execFsqrtD (o : ExtOps) (s : State) : Out := issue (.fsqrtD o) (resolvedBody o) s
/-- R235: `frsqrt` in f64. -/
def execFrsqrtD (o : ExtOps) (s : State) : Out := issue (.frsqrtD o) (resolvedBody o) s
/-- R235: `fexp` in f64. -/
def execFexpD (o : ExtOps) (s : State) : Out := issue (.fexpD o) (resolvedBody o) s
/-- R235: `fexp2` in f64. -/
def execFexp2D (o : ExtOps) (s : State) : Out := issue (.fexp2D o) (resolvedBody o) s
/-- R235: `fexpm1` in f64. -/
def execFexpm1D (o : ExtOps) (s : State) : Out := issue (.fexpm1D o) (resolvedBody o) s
/-- R235: `flog` in f64. -/
def execFlogD (o : ExtOps) (s : State) : Out := issue (.flogD o) (resolvedBody o) s
/-- R235: `flog2` in f64. -/
def execFlog2D (o : ExtOps) (s : State) : Out := issue (.flog2D o) (resolvedBody o) s
/-- R235: `flog1p` in f64. -/
def execFlog1pD (o : ExtOps) (s : State) : Out := issue (.flog1pD o) (resolvedBody o) s
/-- R235: `fsin` in f64. -/
def execFsinD (o : ExtOps) (s : State) : Out := issue (.fsinD o) (resolvedBody o) s
/-- R235: `fcos` in f64. -/
def execFcosD (o : ExtOps) (s : State) : Out := issue (.fcosD o) (resolvedBody o) s
/-- R235: `ftan` in f64. -/
def execFtanD (o : ExtOps) (s : State) : Out := issue (.ftanD o) (resolvedBody o) s
/-- R235: `fsinpi` in f64. -/
def execFsinpiD (o : ExtOps) (s : State) : Out := issue (.fsinpiD o) (resolvedBody o) s
/-- R235: `fcospi` in f64. -/
def execFcospiD (o : ExtOps) (s : State) : Out := issue (.fcospiD o) (resolvedBody o) s
/-- R235: `fatan` in f64. -/
def execFatanD (o : ExtOps) (s : State) : Out := issue (.fatanD o) (resolvedBody o) s

/-- R237: the exact sum of a dot product of `n` elements and the f32 accumulator. -/
def dotSum (ty : Ty) (n a b acc : Nat) : XSum :=
  let w := tyWidth ty
  ((List.range n).foldl (fun (x : XSum) i =>
    x.addMul (decodeF ty (bits a (w * i) w)) (decodeF ty (bits b (w * i) w))) {}).add (decodeF .f32 acc)

/-- R237: a floating dot product. -/
def dotBody (n : Nat) (o : ExtOps) (c : Ctx) : Res :=
  let f := fnOf c o 0
  resolvedLanes c f o.ty ⟨.f32, 32, o.d.toNat⟩ false (c.lanes.map fun k =>
    let a := c.opA o k
    let b := c.opBReg o k
    let z := c.rd o.c.r.toNat k
    ⟨k, [a, b, z], [sumRes f .f32 [a, b, z] (dotSum o.ty n a b z) none]⟩)

/-- R237: `fdot2`. -/
def execFdot2 (o : ExtOps) (s : State) : Out := issue (.fdot2 o) (dotBody 2 o) s
/-- R237: `fdot4`. -/
def execFdot4 (o : ExtOps) (s : State) : Out := issue (.fdot4 o) (dotBody 4 o) s

/-! ### Group sums (R219, R238) -/

/-- R238: the terms of an element over lanes, or their squares. -/
def groupSum (ty : Ty) (sq : Bool) (xs : List Nat) : XSum :=
  xs.foldl (fun (t : XSum) x => if sq then t.addMul (decodeF ty x) (decodeF ty x) else t.add (decodeF ty x)) {}

/-- The magnitude of a value. -/
def FVal.mag : FVal → FVal
  | .fin _ m e => .fin false m e
  | v => v

/-- R214: the sum of the terms' magnitudes. -/
def groupScale (ty : Ty) (sq : Bool) (xs : List Nat) : Nat :=
  (xs.foldl (fun (t : XSum) x =>
    if sq then t.addMul (decodeF ty x) (decodeF ty x) else t.add (decodeF ty x).mag) {}).s.natAbs

/-- R219: the data records of a reduction: element `e` of every lane of the mask, 0 elsewhere. DESIGN CHOICE (log 91): a data
record's KIND 2 and its copy of control word 0 have no bytes in it, all 64 of which are values; they are the head's, which
names its data records by COUNT and place. -/
def dataImages (w : Nat) (es : List Nat) (val : Nat → Nat → Nat) : List (List Byte) :=
  if w = 32 then (List.range 2).map fun j => ((List.range 16).map fun i => toBytes 4 (val (16 * j + i) 0)).flatten
  else if w = 64 then (List.range 4).map fun j => ((List.range 8).map fun i => toBytes 8 (val (8 * j + i) 0)).flatten
  else es.map fun e => ((List.range 32).map fun i => toBytes 2 (val i e)).flatten

/-- R219, R238: a group sum. -/
def groupBody (sq : Bool) (o : ExtOps) (c : Ctx) : Res :=
  let f := fnOf c o 0
  let w := tyWidth o.ty
  let n := if w ≥ 32 then 1 else 32 / w
  let pair := w == 64
  let r := if c.lanes.isEmpty then 0 else if pair then 5 else 3
  let val (k e : Nat) : Nat := if c.lanes.contains k then elemAt w (c.opA o k) e else 0
  let es := (List.range n).map fun e =>
    let xs := c.lanes.map fun k => val k e
    sumRes f o.ty xs (groupSum o.ty sq xs) (some (groupScale o.ty sq xs))
  if !recordsReady c r false then .wait
  else if c.lanes.isEmpty then .ok {
    long := some (longFor c o.d.toNat (if pair then 2 else 1))
    post := fun s =>
      modTeam (modBlock { s with nextId := s.nextId + 33 } c.bid fun k =>
        { k with x := { k.x with parkSeq := k.x.parkSeq + 1 } }) c.b.core (teamOf c.b c.party)
        fun t => { t with ctr := { t.ctr with rsiss := t.ctr.rsiss + 1 } } }
  else
    let x : LaneRes := ⟨0, [], es⟩
    let old (k : Nat) : Nat := if pair then c.rd2 o.d.toNat k else c.rd o.d.toNat k
    let word := elemsWord w (es.map ElemRes.val)
    let imgs := dataImages w ((List.range n).filter fun e => bit x.emask e) val
    let rec_ : ParkRec :=
      { id := c.s.nextId + 1
        op := f.op, sub := f.sub, mode := f.mode, ty := o.ty, dreg := o.d.toNat, emask := x.emask, kind := 1, slot := 0
        team := c.party / 8, group := c.party % 8, lane := 0, lanes := c.lanes, pair := pair
        values := c.lanes.map fun k => (k, resultWords pair word)
        flags := BitVec.ofNat 6 (orFlags ((es.filter ElemRes.parks).map ElemRes.flags))
        seq := c.b.x.parkSeq + 1, sreft := 0, places := [], ticket := none, cls := 0
        imgs := (toBytes 4 (maskOf c.lanes) ++ toBytes 8 0 ++ toBytes 8 0 ++ toBytes 4 0
          ++ controlWords f o.ty o.d.toNat x.emask 1 imgs.length (c.party / 8) (c.party % 8) 0
          ++ candBytes w es (·.1) ++ candBytes w es (·.2)) :: imgs }
    .ok {
      long := some { longFor c o.d.toNat (if pair then 2 else 1) with
        res := if !x.parked || w < 32 then
            c.lanes.map fun k => (k, resultWords pair (x.early w (old k)))
          else []
        flags := BitVec.ofNat 6 (orFlags ((es.filter fun e => !e.parks).map ElemRes.flags))
        parks := if x.parked then [rec_] else []
        need := r }
      post := fun s =>
        modTeam (modBlock { s with nextId := s.nextId + 33 } c.bid fun k =>
          { k with x := { k.x with parkSeq := k.x.parkSeq + 1 } }) c.b.core (teamOf c.b c.party)
          fun t => { t with ctr := { t.ctr with rsiss := t.ctr.rsiss + 1 } } }

/-- R238: `gsum`. -/
def execGsum (o : ExtOps) (s : State) : Out := issue (.gsum o) (groupBody false o) s
/-- R238: `gsumsq`. -/
def execGsumsq (o : ExtOps) (s : State) : Out := issue (.gsumsq o) (groupBody true o) s
/-- R238: `gsum` in f64. -/
def execGsumD (o : ExtOps) (s : State) : Out := issue (.gsumD o) (groupBody false o) s
/-- R238: `gsumsq` in f64. -/
def execGsumsqD (o : ExtOps) (s : State) : Out := issue (.gsumsqD o) (groupBody true o) s

/-! ### Group extremes, integer sum, slots, parkw -/

/-- R239: the extreme of values, and NV for a signalling NaN. -/
def extreme (ty : Ty) (big : Bool) (xs : List Nat) : Nat × Nat :=
  if tyInt ty then (xs.foldl (fun a b => if big then maxW ty a b else minW ty a b) (xs.headD 0), 0)
  else
    let fl := flagIf (xs.any fun x => (decodeF ty x).isSnan) fNV
    match xs.filter fun x => !(decodeF ty x).isNan with
    | [] => (canonNan ty, fl)
    | y :: ys => (ys.foldl (fun a b => (fextF ty big a b).1) y, fl)

/-- R239: `gmax` and `gmin`. -/
def extremeBody (big : Bool) (o : ExtOps) (c : Ctx) : Res :=
  let w := tyWidth o.ty
  let v := eachElem w fun i => extreme o.ty big (c.lanes.map fun k => elemAt w (c.opA o k) i)
  if c.lanes.isEmpty then .ok {} else putFlags c (wideTy o) o.d.toNat fun _ => v

/-- R239: `gmax`. -/
def execGmax (o : ExtOps) (s : State) : Out := issue (.gmax o) (extremeBody true o) s
/-- R239: `gmin`. -/
def execGmin (o : ExtOps) (s : State) : Out := issue (.gmin o) (extremeBody false o) s

/-- R240: the integer `gsum`. -/
def execGsumInt (o : ExtOps) (s : State) : Out :=
  issue (.gsumInt o) (fun c =>
    let v := (c.lanes.map fun k => intVal o.ty (c.rd o.a.r.toNat k)).sum
    writesOnly (c.put true o.d.toNat fun _ => wrap 64 v)) s

/-- R241: whether the fields beyond the arity are zero. -/
def arityOk (n : Nat) (o : ExtOps) : Bool := (2 ≤ n || srcZero o.b) && (3 ≤ n || srcZero o.c)

/-- R241: an element of a slot's function. -/
def slotRes (f : Fn) (p : List Byte) (ty : Ty) (xs : List Nat) : ElemRes :=
  match Config.slotSpecial p ty xs f.mode with
  | some r => { val := r.1, flags := r.2.toNat }
  | none =>
    let v := Config.slotFunction p ty xs
    let x : Exact := ⟨v.1, v.2.1, v.2.2.1, v.2.2.2, false⟩
    assay f ty xs x none (x.round ty f.mode)

/-- R241: `fprog`. -/
def fprogBody (o : ExtOps) (c : Ctx) : Res :=
    let n := bits (immU o) 0 6
    match tget c.s.front.slots n with
    | none => .causes (causeAll .ill c.sliceLanes)
    | some t =>
      if n < 24 ∨ !t.tys.contains o.ty ∨ !arityOk t.arity o then .causes (causeAll .ill c.sliceLanes)
      else
        let f : Fn := { fnOf c o (if o.ty = .f64 then t.cls else 0) with slot := n, pkg := some t.bytes }
        let w := tyWidth o.ty
        let m := if w ≥ 32 then 1 else 32 / w
        resolvedLanes c f o.ty ⟨o.ty, w, o.d.toNat⟩ (f.cls != 0) (c.lanes.map fun k =>
          let xs := [c.opA o k, if 2 ≤ t.arity then c.opBReg o k else 0, if 3 ≤ t.arity then c.opC o k else 0]
          ⟨k, xs, (List.range m).map fun i => slotRes f t.bytes o.ty ((xs.take t.arity).map fun x => elemAt w x i)⟩)

/-- R241: `fprog`. -/
def execFprog (o : ExtOps) (s : State) : Out := issue (.fprog o) (fprogBody o) s

/-- R242: `parkw`. -/
def parkwBody (o : ExtOps) (c : Ctx) : Res :=
    if (c.g.longs.any fun x => !x.done) || c.g.pend.any (fun p => p.2 != 0) then .wait else .ok {}

/-- R242: `parkw`. -/
def execParkw (o : ExtOps) (s : State) : Out := issue (.parkw o) (parkwBody o) s

end Sys2Proof.Machine
end

