-- ==== Sys2Proof/Machine/Settlement.lean ====
section
/-!
DEFINITION. Fast completion of long instructions and the path of parked records: record write, wide evaluation unit,
exact stage and settlement (R130, R218 to R230, R244).
-/
namespace Sys2Proof.Machine

/-- R218, R219: the first `n` consecutive free ring places from `ptr` on. -/
def takePlaces (cap : Nat) (used : List Nat) (ptr n : Nat) : Option (List Nat) :=
  (List.range cap).findSome? fun j =>
    let ps := (List.range n).map fun i => (ptr + j + i) % cap
    if ps.any used.contains then none else some ps

/-- R218, R219: the 64 bytes of a record's place `i`, with issue sequence and time in the first. -/
def placeBytes (r : ParkRec) (t i : Nat) (img : List Byte) : List Byte :=
  if i = 0 then img ++ toBytes 8 r.seq ++ toBytes 4 t ++ toBytes 4 0 else img

/-- R218: write one record into a block's ring. -/
def writeRecord (k : Block) (r : ParkRec) (ps : List Nat) (t cyc : Nat) : Block :=
  let k1 := (ps.zip (r.imgs.mapIdx fun i img => placeBytes r t i img)).foldl (fun (k : Block) x =>
    scrWrite k (progSize k + 64 * x.1) cyc x.2) k
  { k1 with x := { k1.x with
      park := k1.x.park ++ [{ r with places := ps, sreft := t % 2 ^ 32 }]
      parkPtr := ((ps.getLast?).getD 0 + 1) % max 1 k.cap } }

/-- R218, R221: write records in order while places allow; the rest waits. -/
def writeRecords (t cyc : Nat) : Block → Nat → List ParkRec → Block × List ParkRec
  | k, _, [] => (k, [])
  | k, avail, r :: rs =>
    let n := min r.imgs.length k.cap
    if avail < n then (k, r :: rs)
    else match takePlaces k.cap (ringUsed k) k.x.parkPtr n with
      | none => (k, r :: rs)
      | some ps => writeRecords t cyc (writeRecord k r ps t cyc) (avail - n) rs

/-- R166: the registers of a long instruction that have not been killed since its issue. -/
def LongX.kept (x : LongX) : List Nat := x.regs.filter fun r => !x.dead.contains r

/-- R166: the register writes of a long instruction's result. -/
def LongX.writes (x : LongX) : List (Nat × Nat × Nat) :=
  (x.res.map fun r => r.2.mapIdx fun i (w : Word) => (x.reg + i, r.1, w.toNat)).flatten.filter fun w => !x.dead.contains w.1

/-- R133: mark `n` lanes as pending. A destination that was dead comes to life with zeros (R163). -/
def markPending (n : Nat) (x : LongX) (g : Group) : Group :=
  if n = 0 then g
  else
    { g with
      lines := x.kept.foldl (fun ls r => match tget ls r with
        | some _ => ls
        | none => tset ls r { vals := List.replicate 32 0 }) g.lines
      pend := x.kept.foldl (fun p r => tset p r (tcount p r + n)) g.pend }

/-- R221: a long instruction after some of its records have been written. -/
def LongX.send (x : LongX) (moved rest : List ParkRec) : LongX :=
  { x with parks := rest, need := 0, sent := x.sent ++ moved.map fun r => (r.id, r.lanes) }

/-- R221, R227: the lanes of a long instruction's records: those that stand in the ring, or those that have settled. -/
def LongX.lanesSent (x : LongX) (inRing : Bool) (k : Block) : List Nat :=
  (x.sent.filter fun y => (k.x.park.any fun r => r.id == y.1) == inRing).flatMap (·.2)

/-- R221, R227: what fast completion still has to write: a lane that has settled by then keeps its result. -/
def LongX.unsettled (x : LongX) (k : Block) : LongX :=
  { x with res := x.res.filter fun r => !(x.lanesSent false k).contains r.1 }

/-- R133: the records of a long instruction, once its lanes are marked pending. -/
def markRecords (x : LongX) (k : Block) : Block :=
  { k with x := { k.x with park := k.x.park.map fun r =>
      if (x.sent.any fun y => y.1 == r.id) then { r with marked := true, dead := x.dead } else r } }

/-- R130: a long instruction that has reached fast completion stays listed while a window of it is open. -/
def closeLong (id : Nat) (xs : List LongX) : List LongX :=
  (xs.map fun y => if y.id = id ∧ !y.done then { y with done := true, res := [], parks := [], ticket := none } else y).filter
    fun y => !y.done || y.rem.any (decide <| 0 < ·)

/-- R130, R133: a group at fast completion of `x`, which leaves `n` lanes pending. -/
def completedGroup (x : LongX) (n t : Nat) (g : Group) : Group :=
  let g1 := markPending n x (writeRegs g x.writes t)
  { g1 with flags := g1.flags ||| x.flags, longs := closeLong x.id g1.longs }

/-- R444: count line expansions and lane records of a team. -/
def countDone (g : Group) (x : LongX) (moved : List ParkRec) (t : TeamCtr) : TeamCtr :=
  { t with
    lexp := t.lexp + ((writtenRegs x.writes).filter (expands g x.writes)).length
    rsrec := t.rsrec + (moved.filter fun r => r.kind == 0).length }

/-- R130, R133, R218, R221, R440: fast completion, once the latency has passed and every access of the instruction has performed.
Until then, or while records find no place or the clock of the core is stopped, nothing completes. -/
def execFastCompletion (b g id : Nat) (s : State) : Out :=
  match tget s.blocks b with
  | none => .next s
  | some k =>
    match (tget k.groups g).bind fun gr => (gr.longs.find? fun x => x.id == id && !x.done).map fun x => (gr, x) with
    | none => .next s
    | some (gr, x) =>
      if (coreOf s k.core).stopped ∨ x.left ≠ 0 ∨ (s.accesses.any fun a => a.b == b && a.party == g && a.long == some id) then .next s
      else
        let avail := ringFree k + min x.need k.cap
        let r := writeRecords (sref s) (cycleOf s k) k avail x.parks
        let moved := x.parks.take (x.parks.length - r.2.length)
        let y := x.send moved r.2
        let z := y.unsettled r.1
        let k1 := if r.2.isEmpty then { markRecords y r.1 with
            groups := tset k.groups g (completedGroup z (y.lanesSent true r.1).length (coreOf s k.core).scyc gr) }
          else { r.1 with groups := tset k.groups g { gr with
            longs := gr.longs.map fun w => if w.id = id ∧ !w.done then y else w } }
        let s1 := makeRoom k.core (teamOf k g) (rowsFor gr x.kept) s
        .next (modTeam { s1 with blocks := tset s1.blocks b k1 } k.core (teamOf k g) fun t =>
          { t with ctr := if r.2.isEmpty then countDone gr z moved t.ctr else
              { t.ctr with rsrec := t.ctr.rsrec + (moved.filter fun r => r.kind == 0).length } })

/-- The block that holds a record, and the record. -/
def findRec (s : State) (id : Nat) : Option (Nat × Block × ParkRec) :=
  s.blocks.findSome? fun x => (x.2.x.park.find? fun r => r.id == id).map fun r => (x.1, x.2, r)

/-- Change a record wherever it stands. -/
def modRec (s : State) (id : Nat) (f : ParkRec → ParkRec) : State :=
  { s with blocks := s.blocks.map fun (x : Nat × Block) => (x.1, { x.2 with x := { x.2.x with
      park := x.2.x.park.map fun r => if r.id = id then f r else r } }) }

/-- R223: the first record of a block that waits for admission, in ring order. -/
def waitingRec (k : Block) : Option ParkRec := k.x.park.find? fun r => r.stage == 0

/-- R223: the next record of a core: its blocks round-robin by slot. -/
def coreRec (s : State) (c : Nat) : Option (Nat × Block × ParkRec) :=
  let rr := (coreOf s c).weuRR
  (List.range 64).findSome? fun j =>
    (s.blocks.filter fun x => x.2.core == c).findSome? fun x =>
      if x.2.slot = (rr + 1 + j) % 64 then (waitingRec x.2).map fun r => (x.1, x.2, r) else none

/-- R223: the next record of a cluster: its cores round-robin in increasing number. -/
def clusterRec (s : State) (cl : Nat) : Option (Nat × Nat × Block × ParkRec) :=
  let rr := (clusterOf s cl).weuRR
  (List.range 96).findSome? fun j =>
    let c := 96 * cl + (rr + 1 + j) % 96
    (coreRec s c).map fun x => (c, x)

/-- R217: the scratchpad offset of a record. -/
def recOffset (k : Block) (r : ParkRec) : Nat := progSize k + 64 * r.places.headD 0

/-- R230, R418: whether the bytes of a record are poisoned. -/
def recPoisoned (k : Block) (r : ParkRec) : Bool :=
  r.places.any fun p => poisoned k.scrPoison (progSize k + 64 * p) 64

/-- R230: the cause that an uncorrectable error in a record gives its group. -/
def recCause (s : State) (k : Block) (r : ParkRec) : CauseRec :=
  { code := causeCode .ecc, addr := recOffset k r, engine := 3
    pc := ((tget k.groups (8 * r.team + r.group)).map groupPc).getD 0
    pmask := maskOf r.lanes, scyc := (coreOf s k.core).scyc % 2 ^ 32, sreft := sref s }

/-- R223, R230: admission to the wide evaluation unit. -/
def execWeuAdmission (cl : Nat) (s : State) : Out :=
  match clusterRec s cl with
  | none => .next s
  | some (c, b, k, r) =>
    let s1 := modCore (modCluster s cl fun x => { x with weuRR := c % 96 }) c fun x => { x with weuRR := k.slot }
    if recPoisoned k r then
      .next (recordLogged (modRec s1 r.id fun r => { r with stage := 5 }) b (8 * r.team + r.group) 2 (location s k.core)
        (recCause s k r))
    else .next (modCluster (modRec s1 r.id fun r => { r with stage := 1 }) cl fun x => { x with weu := x.weu ++ [r.id] })

/-- R222, R244: the wide evaluation unit decides a record, or passes it to the exact stage. -/
def execWeuDecision (cl id : Nat) (s : State) : Out :=
  if !(clusterOf s cl).weu.contains id then .next s
  else match findRec s id with
  | none => .next (modCluster s cl fun x => { x with weu := x.weu.filter (· != id) })
  | some (_, _, r) =>
    let pass := r.hard && r.cls != 0
    .next (modCluster (modRec s id fun r => { r with stage := if pass then 2 else 4 }) cl fun x =>
      { x with
        weu := x.weu.filter (· != id)
        weuPass := x.weuPass + 1
        passWait := if pass then x.passWait ++ [(id, r.cls)] else x.passWait })

/-- R224: the class that a microengine serves: 2 for T, 1 for E. -/
def engineClass (e : Nat) : Nat := if e < 2 then 2 else 1

/-- R224: a pass begins with every record that waits for its class. -/
def execExactPassStart (cl e : Nat) (s : State) : Out :=
  let x := clusterOf s cl
  let mine := (x.passWait.filter fun r => r.2 == engineClass e).map (·.1)
  match x.passes[e]? with
  | none => .next s
  | some p =>
    if p.busy || mine.isEmpty then .next s
    else .next (modCluster (applyAll s mine fun s r => modRec s r fun r => { r with stage := 3 }) cl fun x =>
      { x with
        passWait := x.passWait.filter fun r => r.2 != engineClass e
        passes := x.passes.set e { busy := true, recs := mine } })

/-- R224, R244: a pass ends and settles every record admitted to it. -/
def execExactPassEnd (cl e : Nat) (s : State) : Out :=
  match (clusterOf s cl).passes[e]? with
  | none => .next s
  | some p =>
    if !p.busy then .next s
    else .next (modCluster (applyAll s p.recs fun s r => modRec s r fun r => { r with stage := 4 }) cl fun x =>
      { x with passes := x.passes.set e {}, exPass := x.exPass + 1 })

/-- R168, R169, R171, R227: write the settled lanes of a register, together, to the resident line or to the context image. A dead
line takes a row. -/
def settleReg (s : State) (b gi reg : Nat) (vs : List (Nat × Word)) : State :=
  match (tget s.blocks b).bind fun k => (tget k.groups gi).map fun g => (k, g) with
  | none => s
  | some (k, g) =>
    let resident := match tget g.lines reg with
      | some l => l.resident
      | none => true
    let ws := vs.map fun v => (reg, v.1, v.2.toNat)
    if vs.isEmpty then s
    else if resident then
      countExpansions (modGroup (makeRoom k.core (teamOf k gi) (rowsFor g [reg]) s) b gi
        fun g => writeRegs g ws (coreOf s k.core).scyc) k gi (b01 (expands g ws reg))
    else
      let l := recOf s k
      applyAll s vs fun s v => vaWrite s l.pasid (imageVa l k.sblock gi + 128 * reg + 4 * v.1) (toBytes 4 v.2.toNat)

/-- R100, R133, R227: clear pending marks and OR flags, in the group or in its context image. -/
def settleMarks (s : State) (b gi : Nat) (regs : List Nat) (n : Nat) (flags : BitVec 6) : State :=
  match (tget s.blocks b).bind fun k => (tget k.groups gi).map fun g => (k, g) with
  | none => s
  | some (k, _) =>
    let l := recOf s k
    let va := imageVa l k.sblock gi
    let s1 := modGroup s b gi fun g =>
      { g with flags := g.flags ||| flags
               pend := regs.foldl (fun p r => tsetCount p r (tcount p r - n)) g.pend }
    if imagesOnly k then
      applyAll (imageFlags s1 k gi flags.toNat) regs fun s r =>
        vaWrite s l.pasid (va + 33632 + r) (toBytes 1 ((vaNat s l.pasid (va + 33632 + r) 1).getD 0 - n))
    else s1

/-- R218: the registers that a record settles. -/
def ParkRec.regs (r : ParkRec) : List Nat := if r.pair then [r.dreg, r.dreg + 1] else [r.dreg]

/-- R166: the registers of a record that were killed before it settles: those its record names, and, while its instruction is
short of fast completion, those that the instruction has lost. -/
def deadRegs (k : Block) (gi : Nat) (r : ParkRec) : List Nat :=
  r.dead ++ (((tget k.groups gi).bind fun g => g.longs.find? fun x => !x.done && x.sent.any fun y => y.1 == r.id).map
    LongX.dead).getD []

/-- R441: whether the write-back of a record waits for the core's clock: a line of its registers is resident. -/
def clockHolds (s : State) (k : Block) (gi : Nat) (r : ParkRec) : Bool :=
  (coreOf s k.core).stopped && k.placed && r.regs.any fun n =>
    (((tget k.groups gi).bind fun g => tget g.lines n).map Line.resident).getD true

/-- R227, R244: settle a decided record: its lanes are written, their pending marks clear, flags OR in and its places
are free. -/
def execSettlement (b id : Nat) (s : State) : Out :=
  match (tget s.blocks b).bind fun k => (k.x.park.find? fun r => r.id == id && r.stage == 4).map fun r => (k, r) with
  | none => .next s
  | some (k, r) =>
    let gi := 8 * r.team + r.group
    if clockHolds s k gi r then .next s
    else
    let dead := deadRegs k gi r
    let kept := r.regs.filter fun n => !dead.contains n
    let s1 := applyAll s kept fun s n => settleReg s b gi n (r.values.filterMap fun v => (v.2[n - r.dreg]?).map fun w => (v.1, w))
    let s2 := settleMarks s1 b gi (if r.marked then kept else []) r.lanes.length r.flags
    let s3 := modBlock s2 b fun k => { k with x := { k.x with park := k.x.park.filter fun y => y.id != id } }
    .next (modTeam s3 k.core (k.teams.getD r.team 0) fun t =>
      { t with ctr := if r.hard ∧ r.cls ≠ 0 then { t.ctr with rsex := t.ctr.rsex + 1 }
                      else { t.ctr with rsweu := t.ctr.rsweu + 1 } })

end Sys2Proof.Machine
end

