-- ==== Sys2Proof/Machine/Fills.lean ====
section
/-!
DEFINITION. Instruction fetch (R60, R124, R419), fills of register lines and the rows of a team (R162 to R172), grants
of the extended pool (R165), waking sleepers (R150) and the end of a refresh window (R346).
-/
namespace Sys2Proof.Machine

/-! ### Instruction fetch -/

/-- What a fetch at a program counter finds: an instruction word that is not in the cache, a poisoned line, or the
words. -/
inductive Fetch where
  | missing (va : Nat)
  | poisoned
  | got (ws : List Nat)
  deriving DecidableEq, Repr

/-- R124: the cached line that holds an address. -/
def icLine (k : Core) (pasid va : Nat) : Option ILine :=
  k.icache.find? fun l => l.pasid == pasid && l.line == va / 128

/-- R40: the word at an address. -/
def icWord (k : Core) (pasid va : Nat) : Option (Nat × Bool) :=
  (icLine k pasid va).map fun l => (ofBytes ((l.bytes.drop (va % 128)).take 4), l.poison)

/-- R41, R60: fetch the words of the instruction at `pc`, word 0 first. -/
def fetchAt (k : Core) (pasid pc : Nat) : Fetch :=
  match icWord k pasid pc with
  | none => .missing pc
  | some (w, p) =>
    let vs := (List.range (lenOf w)).map fun i => (pc + 4 * i, icWord k pasid (pc + 4 * i))
    match vs.find? fun v => v.2.isNone with
    | some v => .missing v.1
    | none =>
      let xs := vs.filterMap (·.2)
      if p || xs.any (·.2) then .poisoned else .got (xs.map (·.1))

/-- The sub-gangs of a group that have active lanes and wait for nothing: their lowest slice and all their slices
(R16). -/
def subGangs (g : Group) : List (Nat × List Nat) :=
  let on (k : Nat) : Bool := match g.slices[k]? with
    | some x => x.act != 0 && x.wait == .none
    | none => false
  (List.range 8).filterMap fun k =>
    let sl := (List.range 8).filter fun j => match g.slices[j]? with
      | some x => x.gang == k && on j
      | none => false
    match sl with
    | [] => none
    | j :: _ => some (j, sl)

/-- The mask of slices. -/
def sliceMask (sl : List Nat) : BitVec 8 := BitVec.ofNat 8 (maskOf sl)

/-- The program counter of a slice. -/
def slicePc (g : Group) (k : Nat) : DWord := ((g.slices[k]?).map Slice.pc).getD 0

/-- R217: whether every pinned page of a block's park ring holds a frame. -/
def ringIn (k : Block) : Bool := k.pages.all fun p => !(p.2.pinned && !p.2.resident && decide (progSize k ≤ 4096 * p.1))

/-- R405, R407: whether the handler of a stopped block runs: no later halt has stopped it. -/
def handlerRuns (k : Block) : Bool := k.h.halt == .stopped && k.h.handler.isSome && k.h.why == some .cause && !k.h.held

/-- Whether a block's parties may issue: it is placed, has its frames, and is not stopped (R125 item 7, R252, R396). -/
def mayIssue (k : Block) : Bool :=
  k.placed && !k.ended && k.started && ringIn k && !k.h.held && (k.h.halt == .running || k.h.halt == .halting || handlerRuns k)

/-- R396, R397, R413: whether a sub-gang may issue: it has not raised a cause, its group has recorded no later cause of a
halt and no second one, and its slices have skid left, or their one instruction of a step, which has no skid. -/
def gangMay (k : Block) (gi : Nat) (g : Group) (sl : List Nat) : Bool :=
  (match k.h.handler with
    | some h => h == gi
    | none => true)
  && !g.twice && (match g.cause with
    | some r => !r.second && sl.all fun j => !r.slices.getLsbD j
    | none => true)
  && sl.all fun j => match g.slices[j]? with
    | some x => (k.h.halt != .halting || decide (x.skid < 6)) && (!k.h.stepping || (x.skid == 0 && k.h.halt != .halting))
    | none => false

/-- The parties of a block that could issue now, with their program counters. -/
def parties (b : Nat) (k : Block) : List (Issuer × DWord) :=
  let gs := (k.groups.map fun g =>
    ((subGangs g.2).filter fun x => gangMay k g.1 g.2 x.2).map fun x =>
      (Issuer.group b g.1 (sliceMask x.2), slicePc g.2 x.1)).flatten
  let seq (q : Seq) (i : Issuer) : List (Issuer × DWord) :=
    if q.running && !q.hold && q.cause.isNone && k.h.halt == .running && q.wait == .none then [(i, q.pc)] else []
  if mayIssue k then gs ++ seq k.mseq (.mseq b) ++ seq k.cseq (.cseq b) else []

/-- R124: the parties of a block whose next instruction is not wholly in the cache, with the missing address. -/
def fetchMisses (s : State) (b : Nat) (k : Block) : List (Issuer × DWord × Nat) :=
  let pasid := (recOf s k).pasid
  (parties b k).filterMap fun p => match fetchAt (coreOf s k.core) pasid p.2.toNat with
    | .missing va => some (p.1, p.2, va)
    | _ => none

/-- The party number of an issuer, and the lanes and slices that report its causes. -/
def issuerParty (k : Block) : Issuer → Nat × List Nat × BitVec 8
  | .group _ g m => (g, ((setBits 8 m.toNat).map fun j => ((tget k.groups g).map fun x => actLanes x j).getD []).flatten, m)
  | .mseq _ => (mseqParty, [], 0)
  | .cseq _ => (cseqParty, [], 0)

/-- R403, R414, R419: the record of a cause that a fetch raises. -/
def fetchCause (s : State) (k : Block) (i : Issuer) (pc : DWord) (x : Cause) (addr : Nat) : CauseRec :=
  let p := issuerParty k i
  let seq := decide (32 ≤ p.1)
  { code := causeCode x, addr := addr, pc := pc, engine := 5, seq := seq
    stream := if seq then p.1 - 32 else 0xFF
    pmask := maskOf p.2.1, slices := p.2.2
    scyc := (coreOf s k.core).scyc % 2 ^ 32, sreft := sref s }

/-- R124: the least recently used line of a full cache leaves (DESIGN CHOICE, log 104: the manual names no replacement). -/
def evictILine (s : State) (c : Nat) : State :=
  let k := coreOf s c
  if k.icache.length < 512 then s
  else match k.icache with
  | [] => s
  | x :: xs =>
    let v := xs.foldl (fun a b => if b.used < a.used then b else a) x
    dropLines s c fun l => l == v

/-- R124: put a line of memory into a core's instruction cache. -/
def putILine (s : State) (c pasid va pa : Nat) : State :=
  let a := pa / 128 * 128
  let s1 := evictILine s c
  modCore s1 c fun k => { k with icache :=
    { pasid := pasid, line := va / 128
      bytes := (List.range 128).map fun j => codeByte s (dieOfCore c) pasid (va / 128 * 128 + j) (a + j)
      poison := poisoned s.mem.poison a 128, used := sref s } :: k.icache }

/-- R124, R321: whether a leaf can be fetched from. -/
def fetchable (l : Leaf) : Bool :=
  l.r && (match physKind l.pa with
    | .hbm | .lpddr | .host => true
    | _ => false)

/-- R124, R414, R440: a fill of the instruction line at `va`: for a party that misses it, or for the line after a miss. A
translation that fails raises FETCH in the party that misses. -/
def execIcacheFill (b va : Nat) (s : State) : Out :=
  match tget s.blocks b with
  | none => .next s
  | some k =>
    let c := coreOf s k.core
    let pasid := (recOf s k).pasid
    if c.stopped then .next s else
    let want := (fetchMisses s b k).find? fun m => m.2.2 / 128 == va / 128
    let ahead := c.fills.contains (b, va / 128)
    let s1 := modCore s k.core fun c => { c with fills := c.fills.filter (· != (b, va / 128)) }
    if want.isNone && !ahead || (icLine c pasid va).isSome then .next s1
    else
      let next (s : State) : State :=
        if want.isSome && (icLine c pasid (va + 128)).isNone then
          modCore s k.core fun c => { c with fills := c.fills ++ [(b, va / 128 + 1)] }
        else s
      match translate s pasid va with
      | .ok l =>
        if fetchable l then .next (next (putILine (noteWalk s1 pasid va (location s k.core)) k.core pasid va l.pa))
        else match want with
          | some m => .next (recordCause s1 b (issuerParty k m.1).1 (fetchCause s k m.1 m.2.1 .fetch m.2.2))
          | none => .next s1
      | .absent _ =>
        let s2 := noteWalk s1 pasid va (location s k.core)
        match want with
        | some m => .next (recordCause s2 b (issuerParty k m.1).1 (fetchCause s k m.1 m.2.1 .fetch m.2.2))
        | none => .next s2
      | .ats _ => .next s

/-! ### Register rows -/

/-- The instruction that a party would issue next. -/
def nextInstr (s : State) (k : Block) (pc : DWord) : Option Instr :=
  match fetchAt (coreOf s k.core) (recOf s k).pasid pc.toNat with
  | .got ws => (decodeBits (ofElems 32 ws)).toOption
  | _ => none

/-- R164: whether something needs a line to be resident: an instruction about to issue, an operand hold, `fork`, or a
blocked pop that is to write it. -/
def lineWanted (s : State) (b gi r : Nat) (k : Block) (g : Group) : Bool :=
  ((parties b k).any fun p => match p.1 with
    | .group _ j _ => j == gi && (match (nextInstr s k p.2).bind fun i => ctxOf { s with focus := some p.1 } i with
        | some c => c.named.contains r
        | none => false)
    | _ => false)
  || (g.holds.any fun h => h.1 == r) || (k.forkArr.any fun x => x.1 == gi)
  || k.x.queues.toList.any fun q => q.poppers.any fun w => w.party == gi && w.kept.contains r

/-- R164, R171, R418: a live line that something needs is filled from the image, once its team has a row for it. -/
def execLineFill (b gi r : Nat) (s : State) : Out :=
  match (tget s.blocks b).bind fun k => (tget k.groups gi).map fun g => (k, g) with
  | none => .next s
  | some (k, g) =>
    match tget g.lines r with
    | none => .next s
    | some x =>
      let l := recOf s k
      let t := teamOf k gi
      let s0 := makeRoom k.core t 1 s
      if (coreOf s k.core).stopped || x.resident || !k.placed || !lineWanted s b gi r k g || decide (1024 ≤ teamRows s0 k.core t) then .next s
      else
        match vaRead s l.pasid (imageVa l k.sblock gi + 128 * r) 128 with
        | none => .next s
        | some bs =>
          let vals := (List.range 32).map fun i => BitVec.ofNat 32 (ofBytes ((bs.drop (4 * i)).take 4))
          let s1 := modGroup s0 b gi fun g => { g with
            lines := tset g.lines r { x with
              vals := vals, resident := true, dirty := false, form := .f, used := (coreOf s k.core).scyc
              poison := x.poison || vaPoisoned s l.pasid (imageVa l k.sblock gi + 128 * r) 128 } }
          .next (modTeam s1 k.core t fun t => { t with ctr := { t.ctr with lfill := t.ctr.lfill + 1 } })

/-! ### Grants, sleepers, refresh windows -/

/-- R165: the first request of a team's queue whose block runs on it. -/
def headRequest (s : State) (c t : Nat) : Option (Nat × Nat × Nat × Nat) :=
  ((coreOf s c).teams.getD t {}).xq.find? fun q => match tget s.blocks q.1 with
    | some k => k.placed && k.core == c && k.h.halt != .preempted && teamOf k q.2.1 == t
    | none => false

/-- R165, R178: the first waiting `xacq` is granted whole when the pool holds enough lines. -/
def execXacqGrant (c t : Nat) (s : State) : Out :=
  match headRequest s c t with
  | none => .next s
  | some (b, gi, n, m) =>
    match tget s.blocks b with
    | none => .next s
    | some k =>
      if poolFree k (gi / 8) < n then .next s
      else
        let s1 := modTeam s c t fun t => { t with xq := t.xq.erase (b, gi, n, m) }
        .next (modGroup s1 b gi fun g =>
          { endWait g (BitVec.ofNat 8 m) .xacq with
            quota := g.quota + n
            asked := g.asked - n })

/-- R150: a sleeper wakes once the time has come. -/
def wakeAt (now : Nat) (w : Wait) : Wait :=
  match w with
  | .sleep till => if till ≤ now then .none else w
  | w => w

/-- R150: SLEEP_WAKE. -/
def execSleepWake (b : Nat) (w : Issuer) (s : State) : Out :=
  let now := sref s
  match w with
  | .group _ g m => .next (modGroup s b g fun x => { x with
      slices := x.slices.mapIdx fun j y => if m.getLsbD j then { y with wait := wakeAt now y.wait } else y })
  | .mseq _ => .next (modBlock s b fun k => { k with mseq := { k.mseq with wait := wakeAt now k.mseq.wait } })
  | .cseq _ => .next (modBlock s b fun k => { k with cseq := { k.cseq with wait := wakeAt now k.cseq.wait } })

/-- R346: when a bank group's refresh window has ended, the reads it stalled proceed. -/
def execWeightRefreshWindowEnd (d g : Nat) (s : State) : Out :=
  let stalled := s.accesses.filter fun a => isWeight a && a.die == d && bankGroup (a.addr - weightBase d) == g
  if inRefresh s d g then .next s else .next (dueEvents s (stalled.map fun a => .accessPerforms a.id))

end Sys2Proof.Machine
end

