-- ==== Sys2Proof/Machine/SysRegs.lean ====
section
/-!
DEFINITION. The system registers (R151 to R156).
-/
namespace Sys2Proof.Machine

/-- R431: the draw record. -/
def drawLevel (k : Cluster) : Nat := min ((k.draws.take 16).sum) (2 ^ 24 - 1)

/-- R433: whether the draw record exceeds its soft threshold. -/
def drawOver (k : Cluster) : Bool := drawLevel k > k.curth.toNat

/-- R120, R152: STIME: the integer part; 64 × SREFT before the core's first cycle. -/
def stime (s : State) (k : Core) : Nat := if k.loaded then k.frac / 65536 % 2 ^ 64 else 64 * sref s % 2 ^ 64

/-- The signed offset of PM_TOFS. -/
def tofsInt (k : Core) : Int := k.tofs.toInt

/-- R156: when bank group 0 of a die's weight store next begins a window. DESIGN CHOICE (log 129): one that begins now counts. -/
def swrefNext (s : State) (d : Nat) : Nat :=
  let b := (dieOf s d).swref.toNat
  let now := sref s
  (if now ≤ b then b else b + (now - b + 63999) / 64000 * 64000) % 2 ^ 48

/-- R155: the park records that a block's ring holds. -/
def parkUsed (b : Block) : Nat := (b.x.park.map fun r => r.places.length).sum

/-- R154: SMODE of a group. -/
def smode (c : Ctx) : Nat := c.g.drm.toNat + 8 * b01 c.l.step + 16 * b01 c.l.det + 256 * c.l.mmrev

/-- R21, R152 to R156: the value of a system register for a lane. DESIGN CHOICE (log 128): SCURR.LEVEL is that before the reading
instruction's own charge. -/
def sysValue (c : Ctx) (n lane : Nat) : Nat :=
  let k := coreOf c.s c.b.core
  let cl := clusterOf c.s (clusterOfCore c.b.core)
  match n with
  | 0x000 => lane
  | 0x001 => lane / 4
  | 0x002 => c.party % 8
  | 0x003 => c.party / 8
  | 0x004 => c.b.sblock
  | 0x005 => c.b.core % 96
  | 0x006 => c.b.core / 96 % 2
  | 0x007 => c.b.core / 192 + 256 * c.s.pkg.toNat
  | 0x010 => k.scyc % 2 ^ 64
  | 0x012 => stime c.s k
  | 0x014 => sref c.s % 2 ^ 64
  | 0x020 => c.g.flags.toNat
  | 0x021 => smode c
  | 0x022 => maskOf c.lanes
  | 0x030 => c.g.frame
  | 0x040 => 65536 * c.b.cap + parkUsed c.b
  | 0x041 => drawLevel cl + 2 ^ 31 * b01 (drawOver cl)
  | 0x042 => swrefNext c.s (dieOfCore c.b.core)
  | _ => 0

/-- R100: whether an access to SFLAGS must wait: for a long instruction, a pending lane or a parked record of the group. -/
def flagsWait (c : Ctx) : Bool :=
  (c.g.longs.any fun x => !x.done) || !c.g.pend.isEmpty || c.b.x.park.any fun r => 8 * r.team + r.group == c.party

/-- R151: `mfs`. -/
def mfsBody (o : ExtOps) (c : Ctx) : Res :=
    let n := bits (immU o) 0 12
    if n = 0x020 ∧ flagsWait c then .wait
    else writesOnly (c.put (wideTy o) o.d.toNat fun k => sysValue c n k)

/-- R151: `mfs`. -/
def execMfs (o : ExtOps) (s : State) : Out := issue (.mfs o) (mfsBody o) s

/-- R98, R102, R154: a group after a write of a system register. Read-only fields ignore it. -/
def writeSys (g : Group) (n v : Nat) : Group :=
  match n with
  | 0x020 => { g with flags := BitVec.ofNat 6 v }
  | 0x021 => if bits v 0 3 ≤ 4 then { g with drm := BitVec.ofNat 3 v } else g
  | _ => g

/-- R151: `mts`. -/
def mtsBody (o : ExtOps) (c : Ctx) : Res :=
    let n := bits (immU o) 0 12
    let vs := c.lanes.map fun k => c.rdTy o.ty o.a.r.toNat k
    if n = 0x020 ∧ flagsWait c then .wait
    else if !uniform vs then .causes (causeAll .nuni c.lanes)
    else if vs.isEmpty then .ok {}
    else .ok { post := fun s => modGroup s c.bid c.party fun g => writeSys g n (vs.headD 0) }

/-- R151: `mts`. -/
def execMts (o : ExtOps) (s : State) : Out := issue (.mts o) (mtsBody o) s

end Sys2Proof.Machine
end

