-- ==== Sys2Proof/Machine/Traps.lean ====
section
/-!
DEFINITION. The events of halting, stopping, pre-emption, swap-out and the debugger (R396 to R416), time slices and hang
detection (R405, R464), retention (R420) and placement (R23 to R25, R30).
-/
namespace Sys2Proof.Machine

/-! ### Halting and stopping -/

/-- R397: every cause but the primary group's is SECOND. -/
def markSecond (p : Option Nat) (k : Block) : Block :=
  let mark (x : Nat × Group) (r : CauseRec) : CauseRec := if p = some x.1 ∨ r.code = 0x10 then r else { r with second := true }
  { k with groups := k.groups.map fun x => (x.1, { x.2 with cause := x.2.cause.map (mark x) }) }

/-- Whether some party of a block can be halted: it runs, or its handler does. -/
def haltable (k : Block) : Bool := k.h.halt == .running || handlerRuns k

/-- Whether a party of a block has a synchronous cause. -/
def hasSyncCause (k : Block) : Bool :=
  k.mseq.cause.isSome || k.cseq.cause.isSome || k.groups.any fun x => (x.2.cause.map fun r => r.code != 0x10).getD false

/-- R396, R405, R413: a recorded cause halts its block; a block that is being stepped is halted again with DBG. Of a block that halts
for an asynchronous cause of the same cycle the synchronous one comes first: DBG and TSLICE stay pending. -/
def execBlockHalt (b : Nat) (s : State) : Out :=
  match tget s.blocks b with
  | none => .next s
  | some k =>
    if asyncNow s k && hasSyncCause k then
      let p := primaryGroup k
      .next (modBlock s b fun k => markSecond p { k with h := { k.h with
        why := some .cause, primary := p
        dbgPend := k.h.dbgPend || k.h.why == some .dbg, tslPend := k.h.tslPend || k.h.why == some .tslice } })
    else if !haltable k then .next s
    else if hasCause k then
      let p := primaryGroup k
      .next (modBlock (haltBlock s b .cause) b fun k =>
        markSecond p { k with h := { k.h with primary := p, dbgPend := k.h.dbgPend || k.h.stepping } })
    else if k.h.stepping then .next (haltBlock s b .dbg)
    else .next s

/-- R399: write the frames of some groups. HST marks the group whose cause was raised in handler state. -/
def writeFrames (s : State) (b : Nat) (gs : List Nat) (res : Bool) (hst : Option Nat) : State :=
  applyAll s gs fun s g => writeFrame s b g res (hst == some g)

/-- R398: whether every long instruction of a block's groups has reached fast completion. -/
def longsDone (k : Block) : Bool := k.groups.all fun g => g.2.longs.all LongX.done

/-- A stopped block. -/
def setStopped (s : State) (b : Nat) : State :=
  modBlock s b fun k => { k with h := { k.h with halt := .stopped, stepping := false } }

/-- R398, R399, R406: a block is stopped: the frames are written, and the handler starts unless the launch ends, the
cause is FETCH, or the debugger takes the block first. -/
def stopForCause (s : State) (b : Nat) (k : Block) : State :=
  let inHandler := match (causeGroup k).bind fun gi => tget k.groups gi with
    | some g => g.aside.isSome
    | none => false
  let gs := if (liveGroups k).isEmpty then [0] else liveGroups k
  let fetch := ((haltCause k).map fun r => r.code == causeCode .fetch).getD false
  let res := k.h.primary.isSome && !inHandler && !fetch && (recOf s k).handler != 0
  let s1 := setStopped (writeFrames s b gs res (if inHandler then causeGroup k else none)) b
  if inHandler then endLaunch s1 k.launch (0x0200 + ((haltCause k).map CauseRec.code).getD 0)
  else if fetch then dueEvents s1 [.fetchFaultSwapout b]
  else if k.h.dbgPend then s1
  else afterFrames s1 b

/-- R398: BLOCK_STOPPED. A block all of whose parties have finished meanwhile completes. -/
def execBlockStopped (b : Nat) (s : State) : Out :=
  match tget s.blocks b with
  | none => .next s
  | some k =>
    if k.h.halt ≠ .halting || !longsDone k then .next s
    else if k.h.why = some .cause then .next (stopForCause s b k)
    else if (liveGroups k).isEmpty && !k.mseq.running && !k.cseq.running then
      .next (tryComplete (goOn k |> fun k => { s with blocks := tset s.blocks b { k with
        h := { k.h with halt := .running, why := none, held := false, dbgPend := false, stepping := false } } }) b)
    else .next (setStopped (writeFrames (applyAll s (liveGroups k) fun s g => coverFrame s b g) b (liveGroups k) false none) b)

/-! ### Leaving a core and coming back -/

/-- Where the image of accumulator `n` stands in a block's backing region: from +1 MiB. The manual gives no place. -/
def accVa (l : LaunchRec) (sblock n : Nat) : Nat := backingVa l sblock + 0x100000 + 0x28000 * n

/-- R286, R412, R414, R418: write the accumulators to the backing region, their poison with them, and free their entries of the
exact store. -/
def saveAccs (s : State) (b : Nat) : State :=
  applyAll s (List.range 8) fun s n =>
    match tget s.blocks b with
    | none => s
    | some k =>
      let l := recOf s k
      let s1 := applyAll s (accImage s k.core b k n) fun s r => vaWrite s l.pasid (accVa l k.sblock n + r.1) r.2
      let bad := ((List.range 256).filter fun e => (elemOf k n e).sp).mapIdx fun i e => (i, e)
      let s2 := applyAll s1 (bad.filter fun p => (clusterOf s (clusterOfCore k.core)).spoiled.contains (storeKey b n p.2)) fun s p =>
        vaPoison s l.pasid (accVa l k.sblock n + 16384 + 576 * p.1)
      emptyAcc s2 k.core b n

/-- R286, R413: read the accumulators back. An image that fails its checks halts the block with TLIM. -/
def loadAccs (s : State) (b : Nat) : State :=
  applyAll s (List.range 8) fun s n =>
    match tget s.blocks b with
    | none => s
    | some k =>
      let l := recOf s k
      let va := accVa l k.sblock n
      match vaRead s l.pasid va 16384 with
      | none => s
      | some r =>
        let img := r ++ (vaRead s l.pasid (va + 16384) (576 * (imageSpills r).length)).getD []
        if imageBad img then
          recordCause s b mseqParty (seqRec s k 0 1 .tlim va k.mseq.pc [])
        else
          let s1 := applyAll s (imageSteps k n false img) fun s x => applyStep s k.core b 0 n x.1 x.2
          let bad := (imageSpills r).filter fun e => vaPoisoned s l.pasid (va + recField img e 56 4) 576
          modCluster s1 (clusterOfCore k.core) fun c => { c with spoiled := bad.map (storeKey b n) ++ c.spoiled }

/-- R256, R415: the pins of a block's program area are cleared. -/
def clearPins (k : Block) : Block := setPins k (pinnedPages k) false

/-- R217, R413: the pages of a block's park ring are pinned. -/
def pinRing (k : Block) : Block := setPins k (span (progSize k / 4096) (ringSize k / 4096)) true

/-- R271: the waiters of a queue whose block leaves its core: they stay in their order, and the SCYC values at which they blocked,
which the next core does not continue, go. -/
def oldWaiters (q : Queue) : Queue :=
  { q with pushers := q.pushers.map fun w => { w with since := 2 ^ 64 }, poppers := q.poppers.map fun w => { w with since := 2 ^ 64 } }

/-- R286, R412, R414: everything of a block is written to its images and backing region. -/
def saveBlock (s : State) (b : Nat) : State := saveParts (saveAccs (writeBackBlock s b) b) b

/-- R286, R413: the accumulators and the sequencer, codebook, barrier and queue state of a block are read back. -/
def loadBlock (s : State) (b : Nat) : State := loadAccs (loadParts s b) b

/-- R165: a block takes its requests for extended pools with it. -/
def takeAsks (s : State) (b : Nat) (k : Block) : State :=
  let all := (coreOf s k.core).teams.toList.flatMap fun t => (t.xq.filter fun q => q.1 == b).map (·.2)
  modCore (modBlock s b fun k => { k with x := { k.x with asks := k.x.asks ++ all } }) k.core fun c =>
    { c with teams := c.teams.map fun t => { t with xq := t.xq.filter fun q => q.1 != b } }

/-- R165: the requests that a block brought join the queues of its new teams. DESIGN CHOICE (log 133): behind those that wait there,
in the order they had. -/
def putAsks (s : State) (b : Nat) : State :=
  match tget s.blocks b with
  | none => s
  | some k =>
    modBlock (applyAll s k.x.asks fun s q => modTeam s k.core (teamOf k q.1) fun t => { t with xq := t.xq ++ [(b, q)] }) b
      fun k => { k with x := { k.x with asks := [] } }

/-- R30, R414: a block gives up its core and returns to the head of its launch's queue. One that holds its placement (`keep`) is
written back and stays in its place (log 113). -/
def swapOut (s : State) (b : Nat) (keep : Bool := false) : State :=
  match tget s.blocks b with
  | none => s
  | some k =>
    let s1 := modBlock s b fun k => { k with x := { k.x with queues := k.x.queues.map oldWaiters } }
    let s2 := modBlock (saveBlock (if keep then s else s1) b) b fun k =>
      { k with h := { k.h with halt := .swapped, primary := none, handler := none, held := false, dbgPend := false } }
    let s3 := if keep then s2 else
      modBlock (takeAsks s2 b k) b fun k => { k with placed := false, started := false, teams := [] }
    modLaunch s3 k.launch fun l => { l with swapped := b :: l.swapped }

/-- R286: whether a block has stopped, its matrix instructions have completed, and so have the drains that it handed over. -/
def atRest (s : State) (b : Nat) (k : Block) : Bool :=
  (k.h.halt == .stopped || k.h.halt == .preempted || k.h.halt == .swapped) && k.x.mops.isEmpty && !((coreOf s k.core).spillQ.any fun x => x.b == b) &&
    !((coreOf s k.core).xfers.any fun x => x.b == b && x.drain)

/-- R30: whether a block's launch is in step mode. -/
def stepMode (s : State) (k : Block) : Bool := ((tget s.launches k.launch).map fun x => x.r.step).getD false

/-- R30, R414: a block that stopped for a fetch leaves its core, and its page is requested. A page that is present and
cannot be fetched from ends the launch. DESIGN CHOICE (log 113): a block of a step-mode launch is written back and keeps its
place. -/
def execFetchFaultSwapout (b : Nat) (s : State) : Out :=
  match tget s.blocks b with
  | none => .next s
  | some k =>
    match haltCause k with
    | none => .next s
    | some r =>
      if k.h.halt ≠ .stopped || !k.placed || k.h.held || r.code ≠ causeCode .fetch then .next s
      else
        let p := (recOf s k).pasid
        match translate s p r.addr with
        | .ok l =>
          if !fetchable l then .next (endLaunch s k.launch (0x0200 + causeCode .fetch))
          else .next (if atRest s b k then swapOut s b (stepMode s k) else s)
        | _ => .next (if atRest s b k then (postRequest (swapOut s b (stepMode s k)) r.addr p false (.fetch b) (atsLeaf s p r.addr).isSome).2 else s)

/-- R386: what the live slices of a launch wait for. -/
def launchWaits (s : State) (l : Nat) : List Wait :=
  ((s.blocks.filter fun b => b.2.launch == l).map fun b =>
    (b.2.groups.map fun g => (g.2.slices.filter fun y => y.live != 0).map Slice.wait).flatten).flatten

/-- R386: whether every block of a step-mode launch has arrived at an `sbar`. -/
def allAtSbar (s : State) (l : Nat) (x : Launch) : Bool :=
  let bar (w : Wait) : Bool := match w with
    | .sbar _ => true
    | _ => false
  decide (x.next = x.r.blocks) && x.swapped.isEmpty && (launchWaits s l).all bar

/-- R31: whether every block of a step-mode launch waits at the same `sbar`. -/
def atSbar (s : State) (l : Nat) (x : Launch) : Bool :=
  allAtSbar s l x && (launchWaits s l).all fun w => some w == (launchWaits s l).head?

/-- R415: whether the front end may pre-empt a block: in step mode, only at a common `sbar` (R31). -/
def mayPreempt (s : State) (k : Block) : Bool :=
  match tget s.launches k.launch with
  | none => false
  | some x => !x.r.step || atSbar s k.launch x

/-- R405: deliver TSLICE to a block, or hold it until the handler or the debugger lets the block go on. -/
def deliverSlice (s : State) (b : Nat) : State :=
  match tget s.blocks b with
  | none => s
  | some k =>
    if k.h.halt = .running then haltBlock s b .tslice
    else if k.h.why = some .cause ∨ k.h.why = some .dbg then
      modBlock s b fun k => { k with h := { k.h with tslPend := true } }
    else s

/-- The blocks of a launch that are placed. -/
def placedOf (s : State) (l : Nat) : List (Nat × Block) :=
  s.blocks.filter fun b => b.2.launch == l && b.2.placed && !b.2.ended && !b.2.complete

/-- R412: whether a launch is held for the debugger or on its way to it. -/
def debugHeld (s : State) (l : Nat) : Bool := l != 0 && s.front.l.dbgLaunch.toNat == l

/-- R405, R31: a launch's time slice expires. -/
def execTimeSliceExpiry (l : Nat) (s : State) : Out :=
  match tget s.launches l with
  | none => .next s
  | some x =>
    let due := ((placedOf s l).filter fun b => b.2.h.halt != .preempted && b.2.h.halt != .swapped && decide (13000 * x.r.slice ≤ b.2.h.sliceUsed)).map (·.1)
    let reset (s : State) : State :=
      applyAll s due fun s b => modBlock s b fun k => { k with h := { k.h with sliceUsed := 0 } }
    if debugHeld s l || (due.isEmpty && !x.tslHeld) then .next s
    else if !x.r.step then .next (applyAll (reset s) due deliverSlice)
    else if atSbar s l x then
      .next (applyAll (modLaunch (reset s) l fun x => { x with tslHeld := false }) ((placedOf s l).map (·.1)) deliverSlice)
    else .next (modLaunch (reset s) l fun x => { x with tslHeld := true })

/-- R30, R31, R415: pre-emption: a running block is halted, and with it every block of a step-mode launch; one that has stopped
leaves its teams, or, where its launch does not hold its placement, its slot; one that has left its teams may leave its slot later. -/
def execPreempt (b : Nat) (needSlot : Bool) (s : State) : Out :=
  match tget s.blocks b with
  | none => .next s
  | some k =>
    if k.h.halt = .running then
      let all := if stepMode s k then ((placedOf s k.launch).filter fun x => x.2.h.halt == .running).map (·.1) else [b]
      if k.placed && !k.complete && mayPreempt s k && !debugHeld s k.launch then
        .next (applyAll s all fun s b => haltBlock s b .preempt)
      else .next s
    else if k.h.halt = .stopped ∧ k.h.handler = none ∧ (k.h.why = some .tslice ∨ k.h.why = some .preempt) ∧ !k.h.held then
      if needSlot && !stepMode s k then .next (if atRest s b k then swapOut s b else s)
      else .next (modBlock (applyAll s (k.groups.map (·.1)) fun s g => saveGroup s b g) b fun k =>
        clearPins { k with h := { k.h with halt := .preempted, sliceUsed := 0 } })
    else if k.h.halt = .preempted ∧ needSlot ∧ !stepMode s k ∧ !k.h.held ∧ !debugHeld s k.launch then
      .next (if atRest s b k then swapOut s b else s)
    else .next s

/-- R23, R415: the physical teams of a core that no block holds. -/
def freeTeams (s : State) (c : Nat) : List Nat :=
  (List.range 4).filter fun t => (blocksOn s c).all fun x => x.2.h.halt == .preempted || !x.2.teams.contains t

/-- R165: the requests of a block for its extended pools move with it to its new teams. -/
def moveRequests (s : State) (b core : Nat) (old new : List Nat) : State :=
  let all := ((List.range 4).map fun t =>
    (((coreOf s core).teams.getD t {}).xq.filter fun q => q.1 == b).map fun q => (t, q)).flatten
  let s1 := modCore s core fun c => { c with teams := c.teams.map fun t => { t with xq := t.xq.filter fun q => q.1 != b } }
  applyAll s1 all fun s q => modTeam s core (new.getD (old.idxOf q.1) 0) fun t => { t with xq := t.xq ++ [q.2] }

/-- R172, R416: a pre-empted block takes these teams of its core and goes on. -/
def resumeOn (s : State) (b : Nat) (k : Block) (teams : List Nat) : State :=
  let gs := (k.groups.filter fun g => !g.2.finished).map (·.1)
  let s1 := if teams = k.teams then s else applyAll s gs fun s g => evictGroup s b g
  let s2 := modBlock s1 b fun k => pinRing { k with teams := teams }
  let s3 := moveRequests s2 b k.core k.teams teams
  takeHeldSlice (resumeBlock (applyAll s3 gs fun s g => restoreGroup s b g) b) b

/-- R416: resume one block on any free teams of its core. -/
def resumeOne (s : State) (b : Nat) : Option State :=
  match tget s.blocks b with
  | none => none
  | some k =>
    let free := freeTeams s k.core
    let c := choose s 5
    let teams := if free.length < k.teams.length then none
      else if c.1 = 0 && k.teams.all free.contains then some k.teams
      else some (((free.drop c.1) ++ free.take c.1).take k.teams.length)
    if k.h.halt ≠ .preempted || k.h.held || (clusterOf s (clusterOfCore k.core)).retained then none
    else teams.map fun t => resumeOn c.2 b k t

/-- R416, R31: BLOCK_RESUME. The blocks of a step-mode launch resume together. -/
def execBlockResume (b : Nat) (s : State) : Out :=
  match tget s.blocks b with
  | none => .next s
  | some k =>
    if stepMode s k then
      let bs := ((placedOf s k.launch).filter fun x => x.2.h.halt == .preempted).map (·.1)
      .next (if (placedOf s k.launch).all (fun x => x.2.h.halt == .preempted || x.2.h.held) then
        (bs.foldl (fun r b => r.bind fun s => resumeOne s b) (some s)).getD s else s)
    else .next ((resumeOne s b).getD s)

/-! ### Placement -/

/-- R23: the load of a core. -/
def coreLoad (s : State) (c : Nat) : Nat := 4 - (freeTeams s c).length

/-- R23: the load of a cluster. -/
def clusterLoad (s : State) (cl : Nat) : Nat :=
  ((s.blocks.filter fun x => x.2.placed && !x.2.complete && clusterOfCore x.2.core == cl && x.2.h.halt != .preempted).map
    fun x => x.2.teams.length).sum

/-- R24: the free block slots of a core. -/
def freeSlots (s : State) (c : Nat) : List Nat := (List.range 4).filter fun t => (blocksOn s c).all fun x => x.2.slot != t

/-- R23: whether a core is eligible for a block of `n` teams. -/
def eligible (s : State) (dies n c : Nat) : Bool :=
  let cl := clusterOf s (clusterOfCore c)
  !(freeSlots s c).isEmpty && decide (n ≤ (freeTeams s c).length) && bit dies (dieOfCore c) && !cl.retained && !cl.offline

/-- The first entry of lowest cost. -/
def lowest (f : Nat → Nat) : List Nat → Option Nat
  | [] => none
  | x :: xs => some (xs.foldl (fun a b => if f b < f a then b else a) x)

/-- R24: the core that the distributor chooses. -/
def chooseCore (s : State) (dies n : Nat) : Option Nat :=
  let cores (cl : Nat) : List Nat := (span (96 * cl) 96).filter (eligible s dies n)
  (lowest (clusterLoad s) ((List.range 8).filter fun cl => !(cores cl).isEmpty)).bind fun cl => lowest (coreLoad s) (cores cl)

/-- R19: the groups of a block of a launch. -/
def groupsOf (r : LaunchRec) : Nat := if r.node then 1 else (r.nl + 31) / 32

/-- R19: the teams of a block of a launch. -/
def teamsOf (r : LaunchRec) : Nat := (groupsOf r + 7) / 8

/-- R19, R26, R163: a group at its start: the lanes below `nl` are live, at the kernel entry. -/
def startGroup (r : LaunchRec) (nl gi : Nat) (regs : List Nat) : Group :=
  { base := r.base
    ext := r.ext
    slices := (List.range 8).map fun k =>
      let m := BitVec.ofNat 4 (maskOf ((List.range 4).filter fun j => decide (32 * gi + 4 * k + j < nl)))
      { pc := r.entry, act := m, live := m }
    lines := regs.eraseDups.foldl (fun t n => tset t n { resident := false, dirty := false }) [] }

/-- Bytes at a virtual address; on an absent page the manual states none. -/
def initBytes (s : State) (pasid va : Nat) : List Byte :=
  (vaRead s pasid va 128).getD ((List.range 128).map fun k => Config.openByte s.tick k)

/-- R463, R465: the initialised lines of a group: register and bytes. In a node the lines of the batch come last. -/
def initLines (s : State) (x : Launch) (sb gi : Nat) : List (Nat × List Byte) :=
  let r := x.r
  let given := r.inits.map fun i => (i.1, initBytes s r.pasid (i.2 + 128 * (groupsOf r * sb + gi)))
  if r.node then
    let recs := ((x.blockRecs.find? (·.1 == sb)).map (·.2)).getD []
    let line (f : Nat × Nat × Nat → Nat) : List Byte :=
      ((List.range 32).map fun k => toBytes 4 ((recs[k]?.map f).getD 0)).flatten
    given ++ [(0, line (·.1)), (2, line fun t => t.2.1 % 2 ^ 32), (3, line fun t => t.2.1 / 2 ^ 32)]
  else given

/-- R19, R24, R163: a new block of a launch on a core. -/
def newBlock (s : State) (l : Nat) (x : Launch) (core : Nat) : State :=
  let r := x.r
  let sb := x.next
  let nl := if r.node then (((x.blockRecs.find? (·.1 == sb)).map (·.2)).getD []).length else r.nl
  let gs := List.range (groupsOf r)
  let f := fresh s
  let k : Block := {
    launch := l, sblock := sb, nl := nl, core := core, slot := (freeSlots s core).headD 0
    teams := (freeTeams s core).take (teamsOf r), scratch := r.scratch, cap := r.park
    groups := gs.map fun gi => (gi, startGroup r nl gi ((initLines s x sb gi).map (·.1)))
    h := { placedAt := s.time } }
  let s1 := applyAll f.2 gs fun s1 gi => applyAll s1 (initLines s x sb gi) fun s1 i =>
    vaWrite s1 r.pasid (imageVa r sb gi + 128 * i.1) i.2
  modLaunch { s1 with blocks := tset s1.blocks f.1 k } l fun x => { x with next := x.next + 1 }

/-- R30, R165, R414, R416: a swapped-out block on a core: its state is read back. One that kept its place takes it again, and its ring
is pinned. -/
def replaceBlock (s : State) (b core : Nat) (x : Launch) (l : Nat) : State :=
  let teams := (freeTeams s core).take (teamsOf x.r)
  let slot := (freeSlots s core).headD 0
  let s1 := modBlock s b fun k =>
    let h : BlockH := { k.h with halt := .running, why := none, sliceUsed := 0 }
    if k.placed then pinRing { k with h := h }
    else { k with placed := true, core := core, slot := slot, teams := teams, h := { h with placedAt := s.time } }
  let s2 := putAsks (modLaunch s1 l fun x => { x with swapped := x.swapped.erase b }) b
  let gs := (((tget s.blocks b).map Block.groups).getD []).map (·.1)
  takeHeldSlice (resumeBlock (loadBlock (applyAll s2 gs fun s g => restoreGroup s b g) b) b) b

/-- R470: the instruction cache of a core forgets the code of a launch's object, and that of every object of its PASID. -/
def forgetCode (s : State) (core : Nat) (r : LaunchRec) : State :=
  dropLines s core fun i => i.pasid == r.pasid && (overlap (128 * i.line) 128 r.object r.objSize
    || s.front.code.any fun c => c.1 == r.pasid && overlap (128 * i.line) 128 c.2.1 c.2.2.length)

/-- R470, R479: the object of a launch that is still to be loaded is loaded. -/
def lateLoad (s : State) (l : Nat) (x : Launch) : State :=
  match x.toLoad with
  | none => s
  | some o =>
    snapCode (loadObject (modLaunch s l fun x => { x with toLoad := none }) x.r.pasid x.r.object o) x.r.pasid

/-- R24, R412: what a launch has to place: a swapped-out block whose page has come, or its next block. -/
def waitingBlock (s : State) (l : Nat) (x : Launch) : Option (Option Nat) :=
  if debugHeld s l || x.ending.isSome then none
  else match x.swapped.find? fun b => !fetchWaits s b with
  | some b => some (some b)
  | none => if x.next < blocksDue x then some none else none

/-- R24, R30: place one block of a launch; one that holds its placement goes on where it is. -/
def placeOne (s : State) (l : Nat) : Option State :=
  match tget s.launches l with
  | none => none
  | some x =>
    match waitingBlock s l x with
    | none => none
    | some w =>
      let own := (w.bind (tget s.blocks ·)).bind fun k => if k.placed then some k.core else none
      (own.orElse fun _ => chooseCore s x.r.dies (teamsOf x.r)).map fun c =>
        let s1 := forgetCode (lateLoad s l x) c x.r
        match w with
        | some b => replaceBlock s1 b c x l
        | none => newBlock s1 l x c

/-- Place `n` blocks of a launch, or none. -/
def placeMany : Nat → State → Nat → Option State
  | 0, s, _ => some s
  | n + 1, s, l => (placeOne s l).bind fun s => placeMany n s l

/-- R25: the launch whose block is placed next: the first in the order of admission that waits for a core. -/
def nextLaunch (s : State) : Option Nat :=
  s.front.order.find? fun l => match tget s.launches l with
    | some x => (waitingBlock s l x).isSome
    | none => false

/-- R468: whether a WEIGHTS or SLOTLOAD command holds back a launch. -/
def heldBack (s : State) (l : Nat) : Bool :=
  s.front.queues.any fun q => q.2.cmds.any fun c => (c.kind == 5 || c.kind == 6) && decide (c.mark ≤ l)

/-- R24, R25, R30: BLOCK_PLACEMENT. -/
def execBlockPlacement (s : State) : Out :=
  match nextLaunch s with
  | none => .next s
  | some l =>
    match tget s.launches l with
    | none => .next s
    | some x =>
      if heldBack s l || s.front.pairDown then .next s
      else .next (((if x.r.step && x.next = 0 then placeMany x.r.blocks s l else placeOne s l)).getD s)

/-- R464, R466: a block placed for longer than its launch's limit ends the launch. -/
def execHangDetection (l : Nat) (s : State) : Out :=
  if s.front.pairDown then .next s
  else match tget s.launches l with
  | none => .next s
  | some x =>
    if (s.blocks.any fun b => b.2.launch == l && decide (13000 * x.r.lb < b.2.h.placedFor)) then .next (endLaunch s l 0x0301)
    else .next s

/-! ### The debugger -/

/-- R405, R413: a stopped block that is let go: its handler goes on or starts, a pre-emption under way stays, or it resumes. A step
holds a time-slice expiry further. -/
def letGo (s : State) (b : Nat) (k : Block) (step : Bool) : State :=
  if k.h.handler.isSome then
    modBlock s b fun k => { k with
      h := { k.h with why := some .cause }
      groups := k.groups.map fun x => (x.1, { x.2 with
        cause := keepCause x.2.cause, twice := false, slices := x.2.slices.map fun y => { y with skid := 0, waited := 0 } }) }
  else if k.h.why = some .cause then
    if ((haltCause k).map fun r => r.code == causeCode .fetch).getD false then dueEvents s [.fetchFaultSwapout b]
    else afterFrames s b
  else if step then
    modBlock (resumeBlock s b) b fun j => { j with h := { j.h with tslPend := j.h.tslPend || k.h.why == some .tslice } }
  else if k.h.why = some .tslice ∨ k.h.why = some .preempt then s
  else takeHeldSlice (resumeBlock s b) b

/-- R413: what a block does when it is let go: it is read back, then goes on. -/
def releaseBlock (s : State) (b : Nat) (step : Bool) : State :=
  match tget s.blocks b with
  | none => s
  | some k =>
    let free (h : BlockH) : BlockH := { h with held := false, dbgPend := false, stepping := step }
    if !k.h.held then s
    else if k.h.halt = .swapped then modBlock s b fun k => { k with h := free k.h }
    else if k.h.halt ≠ .stopped then loadBlock (modBlock s b fun k => pinRing { k with h := free k.h }) b
    else
      let s1 := applyAll s (k.groups.map (·.1)) fun s g => uncoverFrame (restoreGroup s b g) b g
      let s2 := modBlock s1 b fun k => pinRing { k with h := free k.h }
      let s3 := loadBlock s2 b
      letGo s3 b ((tget s3.blocks b).getD k) step

/-- R412: a stopped block is written back and stays with the debugger. One that has been swapped out in its place stands in its images
already. -/
def holdBlock (s : State) (b : Nat) : State :=
  let out := ((tget s.blocks b).map fun k => k.h.halt == .swapped).getD false
  modBlock (if out then s else saveBlock s b) b fun k => { k with h := { k.h with held := true } }

/-- Change the debugger's registers. -/
def modLog (s : State) (f : LogRegs → LogRegs) : State := { s with front := { s.front with l := f s.front.l } }

/-- R412, R413: every block of the launch is stopped and written back: STATE 2, vector 5. -/
def execDebuggerHalted (s : State) : Out :=
  let l := s.front.l.dbgLaunch.toNat
  let bs := placedOf s l
  if (s.front.l.dbgState = 1 ∨ s.front.l.dbgState = 4) ∧ bs.all (fun x => x.2.h.held || atRest s x.1 x.2) then
    let s1 := applyAll s (bs.filter fun x => !x.2.h.held) fun s x => holdBlock s x.1
    .next (raiseMsix (modLog s1 fun d => { d with dbgState := 2, dbgBusy := false }) 5)
  else .next s

/-- R411: the result of a request. -/
def dbgResult (s : State) (r : Nat) : State := modLog s fun d => { d with dbgResult := BitVec.ofNat 2 r, dbgBusy := false }

/-- R411 to R413: a write to FE_DBGREQ. -/
def dbgRequest (s : State) (v : BitVec 64) : State :=
  let n := v.toNat
  let l := n % 2 ^ 32
  let d := s.front.l
  let op := n / 2 ^ 62
  let attached := match tget s.launches l with
    | some x => x.r.debug
    | none => false
  if d.dbgBusy || bits n 52 10 != 0 then logMmio s 0x68
  else if op = 0 then s
  else if !attached then dbgResult s 1
  else if op = 1 then
    if d.dbgLaunch = 0 then modLog (debugHalt s l) fun d => { d with dbgBusy := true, dbgResult := 0 }
    else if d.dbgLaunch.toNat = l then dbgResult s 0
    else dbgResult s 3
  else if d.dbgLaunch.toNat ≠ l ∨ d.dbgState ≠ 2 then dbgResult s 2
  else if op = 2 then
    let s1 := applyAll s ((placedOf s l).map (·.1)) fun s b => releaseBlock s b false
    modLog s1 fun d => { d with dbgState := 3, dbgBusy := true, dbgResult := 0 }
  else
    match (placedOf s l).find? fun x => x.2.sblock == bits n 32 20 with
    | none => dbgResult s 2
    | some x => modLog (releaseBlock s x.1 true) fun d => { d with dbgState := 4, dbgBusy := true, dbgResult := 0 }

/-- R412: DBG_HALT. -/
def execDbgHalt (v : BitVec 64) (s : State) : Out := served s (dbgRequest s v)

/-- R413: DBG_RELEASE. -/
def execDbgRelease (v : BitVec 64) (s : State) : Out := served s (dbgRequest s v)

/-- R413: DBG_STEP. -/
def execDbgStep (v : BitVec 64) (s : State) : Out := served s (dbgRequest s v)

/-- R413: the released launch has been reloaded. -/
def execDbgReleaseComplete (s : State) : Out :=
  if s.front.l.dbgState = 3 then
    .next (modLog s fun d => { d with dbgState := 0, dbgBusy := false, dbgLaunch := 0, dbgResult := 0 })
  else .next s

/-! ### Retention -/

/-- The blocks that reside in a cluster. -/
def blocksIn (s : State) (cl : Nat) : List (Nat × Block) :=
  s.blocks.filter fun x => x.2.placed && !x.2.ended && !x.2.complete && clusterOfCore x.2.core == cl

/-- R420: a cluster enters retention: its blocks are halted, and written back once they have stopped. -/
def execRetentionEntry (cl : Nat) (s : State) : Out :=
  let bs := blocksIn s cl
  if 8 ≤ cl || (clusterOf s cl).retained then .next s
  else if bs.any fun x => haltable x.2 then
    .next (applyAll s (bs.filter fun x => haltable x.2) fun s x => haltBlock s x.1 .retention)
  else if bs.all fun x => x.2.h.held || atRest s x.1 x.2 then
    let s1 := applyAll s (bs.filter fun x => !x.2.h.held) fun s x => holdBlock s x.1
    .next (applyAll (modCluster s1 cl fun c => { c with retained := true }) (span (96 * cl) 96) fun s c =>
      modCore s c fun k => { k with stopped := true })
  else .next s

/-- R122, R440, R442: load STIME of a core, and write a step-log entry. Its clock restarts unless a relock or retention stops it
still. -/
def rescale (s : State) (core reason : Nat) : State :=
  let d := dieOfCore core
  let k := coreOf s core
  let old : Int := (stime s k : Nat)
  let new : Int := 64 * ((sref s : Int) + tofsInt k)
  let e := toBytes 8 (sref s) ++ toBytes 4 (wrap 32 (new - old)) ++ toBytes 2 (location s core % 65536) ++ toBytes 2 reason
  let die := dieOf s d
  let s1 := physWrite s (die.stepBase.toNat + 16 * die.stepHead.toNat) e
  let s2 := modDie s1 d fun x => { x with stepHead := x.stepHead + 1 }
  let still := (clusterOf s (clusterOfCore core)).retained || (match die.opStep with
    | .relock .. => true
    | _ => false)
  modCore s2 core fun k => { k with
    loaded := true, fresh := true, frac := wrap 64 new * 65536, start := s.time * (64 * 65536) / 13, stopped := still }

/-- R420: exit from retention. With a parity error the cluster stays offline until firmware has re-initialised it. -/
def execRetentionExit (cl : Nat) (parityOk : Bool) (s : State) : Out :=
  if !(clusterOf s cl).retained then .next s
  else if !parityOk then
    .next (logErr (modCluster s cl fun c => { c with offline := true }) 4 9 (location s (96 * cl)) 0 0)
  else
    let s1 := modCluster s cl fun c => { c with retained := false, offline := false }
    let s2 := applyAll s1 (span (96 * cl) 96) fun s c => rescale s c 2
    let mine := (blocksIn s cl).filter fun x => !debugHeld s x.2.launch
    .next (applyAll s2 (mine.map (·.1)) fun s b => releaseBlock s b false)

end Sys2Proof.Machine
end

