-- ==== Sys2Proof/Machine/Power.lean ====
section
/-!
DEFINITION. Operating points and relocks (R438 to R442, R122), voltage islands (R435 to R437, R445) and droop (R443).
-/
namespace Sys2Proof.Machine

/-- R446: the location word of a power event: the die, with CORE 0. -/
def dieLoc (s : State) (d : Nat) : Nat := location s (192 * d)

/-- R438: the voltage floor of a frequency, in mV. -/
def voltFloor (k : Die) (f : Nat) : Nat :=
  let i := (f - 800) / 100
  let r := (f - 800) % 100
  let a := (k.vfloor.getD i 0).toNat
  let b := (k.vfloor.getD (i + 1) 0).toNat
  if r = 0 then a else (a * (100 - r) + b * r + 99) / 100

/-- R439: why a step request is denied; 0 if it is not. -/
def denyReason (k : Die) (f v : Nat) : Nat :=
  if k.opStep ≠ .idle then 3
  else if f < 800 ∨ 2000 < f ∨ v < 450 ∨ 950 < v then 2
  else if v < voltFloor k f then 1
  else 0

/-- R440: how long the rail takes, at 25 mV per microsecond. -/
def rampTime (a b : Nat) : Nat := 40 * (max a b - min a b)

/-- R439, R440: OPERATING_POINT_REQUEST. -/
def execOperatingPointRequest (d : Nat) (v : BitVec 32) (s : State) : Out :=
  let k := dieOf s d
  let f := bits v.toNat 16 12
  let mv := bits v.toNat 0 12
  let s1 := modDie s d fun k => { k with reqFreq := BitVec.ofNat 12 f, reqVolt := BitVec.ofNat 12 mv }
  let why := denyReason k f mv
  if 4 ≤ d || !s.front.r.ready then .next s
  else if why ≠ 0 then
    .next (logErr (modDie s1 d fun k => { k with denied := true, reason := BitVec.ofNat 2 why }) 10 10 (dieLoc s d) 0
      (1 + 65536 * f))
  else
    let ramp := sref s + rampTime k.volt.toNat mv
    let next : OpStep :=
      if k.freq.toNat < f then .ramp ramp true else if f < k.freq.toNat then .relockDue else .ramp ramp false
    .next (modDie s1 d fun k => { k with
      newFreq := BitVec.ofNat 12 f, newVolt := BitVec.ofNat 12 mv, opStep := next })

/-- R441: the cores of a die whose clocks a relock stops: those that are not in retention. -/
def clockedCores (s : State) (d : Nat) : List Nat :=
  (span (192 * d) 192).filter fun c => !(clusterOf s (clusterOfCore c)).retained

/-- R440: RELOCK_START: the clocks of the die's cores stop for 1,500 ns. -/
def execRelockStart (d : Nat) (s : State) : Out :=
  let k := dieOf s d
  if k.opStep = .relockDue then
    let s1 := applyAll s (clockedCores s d) fun s c => modCore s c fun k => { k with stopped := true }
    .next (modDie s1 d fun k => { k with opStep := .relock (sref s + 1500) (decide (k.newFreq.toNat < k.freq.toNat)) })
  else .next s

/-- R122, R440, R444: RELOCK_END: STIME is loaded, and the FIFOs have stalled for 1,950 fabric cycles. -/
def execRelockEnd (d : Nat) (s : State) : Out :=
  match (dieOf s d).opStep with
  | .relock till ramp =>
    if sref s < till then .next s
    else
      let k := dieOf s d
      let next : OpStep := if ramp then .ramp (sref s + rampTime k.volt.toNat k.newVolt.toNat) false else .idle
      let s1 := modDie s d fun k => { k with freq := k.newFreq, opStep := next }
      .next (applyAll (applyAll s1 (span (192 * d) 192) fun s c => rescale s c 1) (clockedCores s d) fun s c =>
        modCore s c fun k => { k with ctr := { k.ctr with ccstall := k.ctr.ccstall + 1950 } })
  | _ => .next s

/-- R440: RAIL_RAMP_END. -/
def execRailRampEnd (d : Nat) (s : State) : Out :=
  match (dieOf s d).opStep with
  | .ramp till relock =>
    if sref s < till then .next s
    else .next (modDie s d fun k => { k with volt := k.newVolt, opStep := if relock then .relockDue else .idle })
  | _ => .next s

/-- R438: writing 1 to PM_OPSTAT.DENIED. -/
def execDeniedClear (d : Nat) (s : State) : Out := served s (modDie s d fun k => { k with denied := false, reason := 0 })

/-! ### Islands -/

/-- The cores of a die that have any state. -/
def listedCores (s : State) (p : Nat → Bool) : List Nat := (s.cores.map (·.1)).filter p

/-- R435: a write to PM_ISLCTL. With EN = 0 the islands of the die begin exit. -/
def execIslandControlWrite (d : Nat) (v : BitVec 32) (s : State) : Out :=
  let s1 := modDie s d fun k => { k with islEn := v.getLsbD 0, islDet := v.getLsbD 1 }
  if v.getLsbD 0 then served s s1
  else served s (applyAll s1 (listedCores s fun c => dieOfCore c == d) fun s c =>
    applyAll s (List.range 4) fun s t => islandExit s c t)

/-- R436: the hints of the groups that reside on a team. -/
def teamHints (s : State) (c t : Nat) : List Hint :=
  ((blocksOn s c).map fun x =>
    if x.2.h.halt = .preempted then []
    else (x.2.groups.filter fun g => !g.2.finished && teamOf x.2 g.1 == t).map fun g => g.2.hint).flatten

/-- R445: a team's sample as shares of 255. -/
def sampleShares (x : Team) : List Nat :=
  let n := x.ctr.sample.getD 0 0
  (List.range 4).map fun k => if n = 0 then 0 else 255 * x.ctr.sample.getD (k + 1) 0 / n

/-- R436: item 4. -/
def entryWanted (s : State) (c t : Nat) (det : Bool) (shares : List Nat) : Bool :=
  let hs := teamHints s c t
  (!hs.isEmpty && hs.all fun h => h == .memory || h == .wait)
    || (det && decide (192 ≤ shares.getD 0 0 + shares.getD 1 0))

/-- R436, R437, R445: a team at a sample boundary. -/
def sampleTeam (s : State) (c t : Nat) : State :=
  let d := dieOf s (dieOfCore c)
  let x := (coreOf s c).teams.getD t {}
  let shares := sampleShares x
  let s1 := modTeam s c t fun x => { x with
    ctr := { x.ctr with stallr := shares, sample := [0, 0, 0, 0, 0] } }
  let want := entryWanted s c t d.islDet shares
  let now := sref s
  if d.opStep ≠ .idle then s1
  else if x.island = .full then
    if d.islEn && want && !(teamHints s c t).contains .compute then
      modTeam s1 c t fun x => { x with island := .entering (now + 10 * (d.volt.toNat - 450)) d.volt.toNat, half := false }
    else s1
  else if want then s1
  else islandExit s1 c t

/-- R436, R445: SAMPLE_BOUNDARY: every multiple of 10,000 in SREFT. -/
def execSampleBoundary (s : State) : Out :=
  if sref s / 10000 ≤ s.sampled then .next s
  else
    let s1 := applyAll s (s.cores.map (·.1)) fun s c => applyAll s (List.range 4) fun s t => sampleTeam s c t
    .next { s1 with sampled := sref s / 10000 }

/-- R436: the entry ramp of an island ends. -/
def execNtEntryRampEnd (c t : Nat) (s : State) : Out :=
  match ((coreOf s c).teams.getD t {}).island with
  | .entering till _ => if sref s < till then .next s else .next (modTeam s c t fun x => { x with island := .nt })
  | _ => .next s

/-- R437: the exit ramp of an island ends; the team leaves the halved rate. -/
def execNtExitRampEnd (c t : Nat) (s : State) : Out :=
  match ((coreOf s c).teams.getD t {}).island with
  | .exiting till _ => if sref s < till then .next s else .next (modTeam s c t fun x => { x with island := .full, half := false })
  | _ => .next s

/-! ### Droop -/

/-- R443: enter a signature in a table of 32, in the place of the least recently matched. -/
def enterSig (t : List (Nat × Nat)) (sig now : Nat) : List (Nat × Nat) :=
  let old := t.filter fun x => x.1 != sig
  if old.length < 32 then old ++ [(sig, now)]
  else match old with
  | [] => [(sig, now)]
  | x :: xs =>
    let v := xs.foldl (fun a b => if b.2 < a.2 then b else a) x
    old.erase v ++ [(sig, now)]

/-- R443: DROOP_WARN: every team of the cluster enters its signature. -/
def execDroopWarn (cl : Nat) (s : State) : Out :=
  if 8 ≤ cl then .next s
  else .next (applyAll s (span (96 * cl) 96) fun s c =>
    modCore s c fun k => { k with teams := k.teams.map fun t =>
      { t with sigs := enterSig t.sigs (Config.signature t.hist).toNat (sref s) } })

/-- R443: DROOP_LIMIT: a pulse, or stretched cycles once the duty of the window is spent. -/
def execDroopLimit (cl : Nat) (s : State) : Out :=
  let w := sref s / 1000
  let k := clusterOf s cl
  let duty := if k.window = w then k.duty else 0
  if 8 ≤ cl then .next s
  else if duty < 12 then
    .next (modCluster s cl fun k => { k with window := w, duty := duty + 1, inj := k.inj + 1 })
  else
    .next (logErr (modCluster s cl fun k => { k with window := w, duty := duty, limited := true, crossed := sref s }) 10 10 (dieLoc s (cl / 2)) 0 2)

/-- R443: STRETCH_END: the next window has begun, or the sensor has been above limit for 100 ns, which is not before 100 ns from the last
crossing (log 116). -/
def execStretchEnd (cl : Nat) (s : State) : Out :=
  let k := clusterOf s cl
  if k.limited && (decide (k.window < sref s / 1000) || decide (k.crossed + 100 ≤ sref s)) then
    .next (modCluster s cl fun k => { k with limited := false })
  else .next s

end Sys2Proof.Machine
end

