-- ==== Sys2Proof/Machine/Registers.lean ====
section
/-!
DEFINITION. The memory-mapped registers (R11 to R13, R448 to R455), translation invalidations (R451), queues of commands
(R452, R459, R460), host accesses through BAR2 (R447), collisions of host and device atomics (R381) and requests of other
packages (R347).
-/
namespace Sys2Proof.Machine

/-- Change the registers of the front end. -/
def modFront (s : State) (f : FrontRegs → FrontRegs) : State := { s with front := { s.front with r := f s.front.r } }

/-! ### The register map -/

/-- R449: the width in bytes of a front-end control register. -/
def frontWidth (o : Nat) : Option Nat :=
  if [0x000, 0x010, 0x014, 0x030, 0x034, 0x048, 0x058, 0x05C].contains o then some 4
  else if [0x008, 0x018, 0x020, 0x028, 0x038, 0x040, 0x050, 0x060, 0x068, 0x070].contains o then some 8
  else none

/-- R455: the width in bytes of a register of a core's block. -/
def coreWidth (o : Nat) : Option Nat :=
  if o = 0 then some 4
  else if 8 ≤ o ∧ o ≤ 0x48 ∧ o % 8 = 0 then some 8
  else if 0x100 ≤ o ∧ o < 0x500 then
    if o % 0x100 = 0x68 then some 4 else if o % 0x100 < 0x68 ∧ o % 8 = 0 then some 8 else none
  else none

/-- R448, R455: the width in bytes of the register at a BAR0 offset; none where no map names one. -/
def regWidth (o : Nat) : Option Nat :=
  if o < 0x1000 then frontWidth o
  else if 0x20000 ≤ o ∧ o < 0x40000 then if o % 8 = 0 then some 8 else none
  else if 0x100000 ≤ o ∧ o < 0x108000 then
    match o % 0x1000 with
    | 0 => some 4
    | 0x8 | 0x10 | 0x18 => some 8
    | _ => none
  else if 0x180000 ≤ o ∧ o < 0x184000 then
    let r := o % 0x1000
    if r = 0x10 then some 8
    else if r = 0 ∨ r = 4 ∨ r = 8 ∨ r = 0x18 ∨ (0x40 ≤ r ∧ r ≤ 0x70 ∧ r % 4 = 0) then some 4
    else none
  else if 0x200000 ≤ o ∧ o < 0x380000 then coreWidth (o % 0x800)
  else if 0x800000 ≤ o ∧ o < 0x804000 then
    match o % 0x1000 with
    | 0 => some 8
    | 8 => some 4
    | _ => none
  else if o = 0x900000 then some 8
  else if [0x900008, 0x90000C, 0x900010].contains o then some 4
  else if 0xA00000 ≤ o ∧ o < 0xA01200 then if o % 0x100 = 0 then some 4 else none
  else none

/-- R13: whether an access of `n` bytes has the natural width and alignment of what it names. -/
def accessOk (o n : Nat) : Bool :=
  (n == 4 || n == 8) && o % n == 0
    && (regWidth o == some n
      || (List.range (n + 7)).all fun k => decide (o + k < 7) || (match regWidth (o + k - 7) with
          | some w => !overlap (o + k - 7) w o n
          | none => true))

/-- R444: the counter PM_LFORM: rows of a team by the form of their line. -/
def rowForms (s : State) (c t k : Nat) : Nat :=
  let ls := ((s.blocks.filter fun x => x.2.core == c).map fun x =>
    (x.2.groups.map fun g => if teamOf x.2 g.1 = t then (g.2.lines.filter fun l => l.2.resident).map fun l => l.2.form
      else []).flatten).flatten
  let n (x : Form) : Nat := (ls.filter (· == x)).length
  match k with
  | 0 => n .u
  | 1 => n .z16
  | 2 => n .s16
  | 3 => n .f
  | _ => 1024 - ls.length

/-- R473: FE_STATUS. -/
def statusReg (r : FrontRegs) : Nat :=
  b01 r.ready + 2 * b01 r.fail + 4 * b01 r.fault + 8 * b01 r.fwrecov + 16 * r.stage.toNat

/-- R450 to R454, R467, R411: a front-end control register. -/
def frontReg (s : State) (o : Nat) : Nat :=
  let r := s.front.r
  let l := s.front.l
  match o with
  | 0x000 => statusReg r
  | 0x008 => r.fwStage.toNat
  | 0x014 => r.fwState.toNat + 256 * r.fwReason.toNat + 65536 * r.svn.toNat
  | 0x018 => b01 r.attDone + 4096 * r.attPa.toNat
  | 0x020 => 2 ^ 30 * r.bar2.toNat
  | 0x028 => b01 r.pasidEn + 4096 * r.pasidPa.toNat
  | 0x030 => r.invalP.toNat
  | 0x034 => r.invDone.toNat + 2 ^ 31 * b01 r.invBusy
  | 0x048 => r.qSlot.toNat + 2 ^ 28 * r.qResult.toNat + 2 ^ 31 * b01 r.qBusy
  | 0x050 => b01 r.prqEn + 32768 * r.prqPa.toNat
  | 0x058 => r.prqHead.toNat
  | 0x05C => r.prqTail.toNat
  | 0x070 => l.dbgLaunch.toNat + 2 ^ 58 * l.dbgResult.toNat + 2 ^ 60 * l.dbgState.toNat + 2 ^ 63 * b01 l.dbgBusy
  | _ => 0

/-- R444, R445: a register of a team's block. -/
def teamReg (s : State) (c t o : Nat) : Nat :=
  let x := ((coreOf s c).teams.getD t {}).ctr
  if o < 0x28 then rowForms s c t (o / 8)
  else match o with
  | 0x28 => x.lfill
  | 0x30 => x.lwb
  | 0x38 => x.lexp
  | 0x40 => x.rsiss
  | 0x48 => x.rsrec
  | 0x50 => x.rsweu
  | 0x58 => x.rsex
  | 0x60 => x.ntcyc
  | _ => 2 ^ 24 * x.stallr.getD 0 0 + 65536 * x.stallr.getD 1 0 + 256 * x.stallr.getD 2 0 + x.stallr.getD 3 0

/-- R442, R444: a register of a core's block. -/
def coreReg (s : State) (c o : Nat) : Nat :=
  let k := coreOf s c
  if 0x100 ≤ o then teamReg s c ((o - 0x100) / 0x100) (o % 0x100)
  else match o with
  | 0x00 => k.tofs.toNat
  | 0x08 => k.ctr.spbank
  | 0x10 => k.ctr.spfill
  | 0x18 => k.ctr.spwait
  | 0x20 => k.ctr.mxspill
  | 0x28 => k.ctr.mxcont
  | 0x30 => k.ctr.mxqwait
  | 0x38 => k.ctr.mxevict
  | 0x40 => k.ctr.ccstall
  | _ => k.ctr.stretch

/-- R438, R440: the rail now applied, in mV: in a ramp it has gone 1 mV for every 40 ns, whole ones counted (DESIGN CHOICE, log
107). -/
def railNow (k : Die) (now : Nat) : Nat :=
  let a := k.volt.toNat
  let b := k.newVolt.toNat
  match k.opStep with
  | .ramp till _ =>
    let left := (till - now + 39) / 40
    if a ≤ b then max a (b - left) else min a (b + left)
  | _ => a

/-- R435, R438, R442: a register of a die's block. -/
def dieReg (k : Die) (now o : Nat) : Nat :=
  match o with
  | 0x00 => b01 k.islEn + 2 * b01 k.islDet
  | 0x04 => k.reqVolt.toNat + 65536 * k.reqFreq.toNat
  | 0x08 => railNow k now + 65536 * k.freq.toNat + 2 ^ 28 * k.reason.toNat + 2 ^ 30 * b01 k.denied
      + 2 ^ 31 * b01 (k.opStep != .idle)
  | 0x10 => k.stepBase.toNat
  | 0x18 => k.stepHead.toNat
  | _ => (k.vfloor.getD ((o - 0x40) / 4) 0).toNat

/-- R433, R444: a register of a cluster's block. -/
def clusterReg (k : Cluster) (o : Nat) : Nat :=
  match o with
  | 0x00 => k.curth.toNat
  | 0x08 => k.weuPass
  | 0x10 => k.exPass
  | _ => k.inj

/-- R454: a byte of the identity region: the public key, the length of the certificate, which is at most 12 KiB, and the
certificate; the rest reads 0. -/
def identityByte (o : Nat) : Byte :=
  let n := min Config.certificateLength 12288
  if o ≤ 0x700 then Config.identityKey o
  else if 0x800 ≤ o ∧ o < 0x804 then (toBytes 4 n).getD (o - 0x800) 0
  else if 0x1000 ≤ o ∧ o < 0x1000 + n then Config.certificate (o - 0x1000)
  else 0

/-- R11, R12: the value of the register at a BAR0 offset. FE_IDKEY is a region of bytes. -/
def regValue (s : State) (o : Nat) : Nat :=
  if (regWidth o).isNone then
    if 0x40000 ≤ o ∧ o < 0x44000 then
      ofBytes ((List.range 8).map fun k => identityByte (o - 0x40000 + k))
    else 0
  else if o < 0x1000 then frontReg s o
  else if o < 0x40000 then 0
  else if o < 0x108000 then clusterReg (clusterOf s (o / 0x1000 % 16)) (o % 0x1000)
  else if o < 0x184000 then dieReg (dieOf s (o / 0x1000 % 8)) (sref s) (o % 0x1000)
  else if o < 0x380000 then coreReg s ((o - 0x200000) / 0x800) (o % 0x800)
  else if o < 0x804000 then
    let k := dieOf s (o / 0x1000 % 16)
    if o % 0x1000 = 0 then 128 * (k.collPa.toNat / 128) + 2 ^ 52 * k.collCnt.toNat + 2 ^ 63 * b01 k.collValid
    else k.targets.length
  else if o < 0xA00000 then
    match o with
    | 0x900000 => s.front.l.errBase.toNat
    | 0x900008 => s.front.l.errHead.toNat
    | 0x90000C => s.front.l.errTail.toNat
    | _ => s.front.l.errDrop.toNat + 2 ^ 31 * b01 s.front.l.errOvf
  else (s.front.vcw.getD ((o - 0xA00000) / 0x100) 0).toNat

/-- R13, R473: what a host read of `n` bytes at a BAR0 offset returns. Before READY a register that is not served reads 0, which the
manual does not state (DESIGN CHOICE, log 102). -/
def mmioRead (s : State) (o n : Nat) : Nat :=
  if !accessOk o n then 2 ^ (8 * n) - 1
  else if !s.front.r.ready && o != 0x000 && o != 0x014 then 0
  else regValue s o % 2 ^ (8 * n)

/-- R13: a host read of another width or alignment is logged; no read changes a register. DESIGN CHOICE (log 102): before READY
nothing is logged. -/
def execMmioRead (o n : Nat) (s : State) : Out := .next (if s.front.r.ready && !accessOk o n then logMmio s o else s)

/-- R467: what a write to FE_FWCTL starts. -/
def fwctlEvents (v : Nat) : List Event := (if bit v 0 then [.fwVerify] else []) ++ if bit v 1 then [.fwCommit] else []

/-- R449 to R454: a write to a front-end control register. Registers with an action have an event of their own. -/
def writeFront (s : State) (o : Nat) (v : BitVec 64) : State :=
  let n := v.toNat
  match o with
  | 0x008 => modFront s fun r => { r with fwStage := v.setWidth 52 }
  | 0x010 => dueEvents s (fwctlEvents n)
  | 0x018 => dueEvents s [.attestationRequest v]
  | 0x020 => modFront s fun r => { r with bar2 := BitVec.ofNat 22 (bits n 30 22) }
  | 0x028 => modFront s fun r => { r with pasidPa := BitVec.ofNat 40 (bits n 12 40), pasidEn := bit n 0 }
  | 0x030 => modFront s fun r => { r with invalP := v.setWidth 20 }
  | 0x038 => dueEvents s [if bit n 3 then .invalidateAll v else .invalidateRange v]
  | 0x040 =>
      if s.front.r.qBusy then logMmio s 0x40
      else if n / 2 ^ 62 = 1 ∨ n / 2 ^ 62 = 2 then modFront s fun r => { r with qBusy := true, qReq := some v }
      else s
  | 0x050 => ringSwitch (modFront s fun r => { r with prqPa := BitVec.ofNat 37 (bits n 15 37), prqEn := bit n 0 })
  | 0x05C => dueEvents s [.prqTailWrite (v.setWidth 32)]
  | 0x060 => if bits n 32 2 = 1 then dueEvents s [.pagePresentResponse (n % 2 ^ 32)]
      else if bits n 32 2 = 2 then dueEvents s [.pageNotPresentResponse (n % 2 ^ 32)]
      else logMmio s 0x60
  | 0x068 => dueEvents s [.dbgHalt v]
  | _ => s

/-- R11: a write of the right width to the register at a BAR0 offset. -/
def writeReg (s : State) (o : Nat) (v : BitVec 64) : State :=
  let n := v.toNat
  if o < 0x1000 then writeFront s o v
  else if 0x20000 ≤ o ∧ o < 0x40000 then dueEvents s [.doorbellWrite ((o - 0x20000) / 8) v]
  else if 0x100000 ≤ o ∧ o < 0x108000 then
    if o % 0x1000 = 0 then modCluster s (o / 0x1000 % 16) fun k => { k with curth := v.setWidth 24 } else s
  else if 0x180000 ≤ o ∧ o < 0x184000 then
    let d := o / 0x1000 % 8
    match o % 0x1000 with
    | 0 => dueEvents s [.islandControlWrite d (v.setWidth 32)]
    | 4 => dueEvents s [.operatingPointRequest d (v.setWidth 32)]
    | 8 => if bit n 30 then dueEvents s [.deniedClear d] else s
    | _ => s
  else if 0x800000 ≤ o ∧ o < 0x804000 then
    if o % 0x1000 = 0 ∧ bit n 63 then dueEvents s [.seCollClear (o / 0x1000 % 16)] else s
  else if o = 0x90000C then { s with front := { s.front with l := { s.front.l with errTail := v.setWidth 12 } } }
  else if o = 0x900010 then if bit n 31 then dueEvents s [.errLogOvfClear] else s
  else if 0xA00000 ≤ o ∧ o < 0xA01200 then
    { s with front := { s.front with vcw := s.front.vcw.set ((o - 0xA00000) / 0x100) (v.setWidth 32) } }
  else s

/-- R11 to R13, R473: MMIO_WRITE: `width` is in bits. -/
def execMmioWrite (off width : Nat) (v : BitVec 64) (s : State) : Out :=
  if !s.front.r.ready then
    .next (if s.front.r.fwrecov && (off == 0x008 || off == 0x010) && regWidth off == some (width / 8) then writeReg s off v else s)
  else if width % 8 ≠ 0 || !accessOk off (width / 8) then .next (logMmio s off)
  else if regWidth off = some (width / 8) then .next (writeReg s off (BitVec.ofNat 64 (v.toNat % 2 ^ width)))
  else .next s

/-- R382: SE_COLL_CLEAR. -/
def execSeCollClear (d : Nat) (s : State) : Out :=
  served s (modDie s d fun k => { k with collValid := false, collCnt := 0 })

/-- R421: ERR_LOG_OVF_CLEAR. -/
def execErrLogOvfClear (s : State) : Out :=
  served s { s with front := { s.front with l := { s.front.l with errOvf := false, errDrop := 0 } } }

/-! ### Invalidations (R451) -/

/-- R451: begin an invalidation; `hit` are the cached translations it discards. -/
def invalidate (s : State) (v : Nat) (hit : TlbEntry → Bool) : State :=
  let r := s.front.r
  if r.invBusy || bits v 57 7 != 0 || bits v 0 3 != 0 then logMmio s 0x38
  else
    let p := r.invalP.toNat
    let used := (s.accesses.filter fun a => !a.scr && (((tget s.launches a.launch).map fun l => l.r.pasid == p).getD false)).map Access.id
    modFront { s with tlb := s.tlb.filter fun t => !(t.pasid == p && hit t) } fun r => { r with invBusy := true, invWait := used }

/-- R451: INVALIDATE_RANGE. -/
def execInvalidateRange (v : BitVec 64) (s : State) : Out :=
  let lo := bits v.toNat 12 45 * 4096
  served s (invalidate s v.toNat fun t => overlap t.va (2 ^ t.size) lo (4096 * (bits v.toNat 4 8 + 1)))

/-- R451: INVALIDATE_ALL. -/
def execInvalidateAll (v : BitVec 64) (s : State) : Out := served s (invalidate s v.toNat fun _ => true)

/-- R451: the accesses that used the old translations have performed. -/
def execInvalidationComplete (s : State) : Out :=
  let r := s.front.r
  if r.invBusy && r.invWait.all fun i => !s.accesses.any fun a => a.id == i then
    .next (raiseMsix (modFront s fun r => { r with invBusy := false, invDone := r.invDone + 1, invWait := [] }) 7)
  else .next s

/-! ### Queue control blocks (R459, R460) -/

/-- R459: where the QCB of a slot stands. -/
def qcbPa (s : State) (slot : Nat) : Nat := s.front.qcbBase + 64 * slot

/-- A field of a QCB. -/
def qcb (s : State) (slot o n : Nat) : Nat := physNat s (qcbPa s slot + o) n

/-- R459: whether a slot holds a valid QCB. -/
def qcbValid (s : State) (slot : Nat) : Bool := decide (slot < 16384) && bit (qcb s slot 4 4) 31

/-- R459: whether a slot is a tombstone. -/
def qcbTomb (s : State) (slot : Nat) : Bool := bit (qcb s slot 4 4) 30

/-- R459: the slots probed for a key. -/
def probes (key : Nat) : List Nat :=
  let h := (key / 4096 * 2654435761 + key % 4096) % 2 ^ 32
  (List.range 8).map fun i => (h / 2 ^ 18 + i) % 16384

/-- R459: lookup: the slot of a key among the probes, up to the first empty one. -/
def lookupQueue (s : State) (key : Nat) : List Nat → Option Nat
  | [] => none
  | x :: xs =>
    if qcbValid s x && qcb s x 0 4 == key then some x
    else if !qcbValid s x && !qcbTomb s x then none
    else lookupQueue s key xs

/-- R459: whether a descriptor is malformed. -/
def descBad (s : State) (pa : Nat) : Bool :=
  let f (o n : Nat) : Nat := physNat s (pa + o) n
  bits (f 4 4) 24 6 != 0 || bit (f 4 4) 30 || bits (f 4 4) 0 16 != 0 || f 8 8 % 64 != 0
    || !((List.range 13).any fun k => f 16 4 == 2 ^ (k + 4))
    || f 32 4 == 0 || decide (1000000 < f 32 4) || decide (f 36 4 < 100) || decide (1000000 < f 36 4)
    || f 44 20 != 0

/-- R452: the result of a queue request, which is no longer in progress. -/
def queueResult (s : State) (r slot : Nat) : State :=
  modFront s fun x => { x with qResult := BitVec.ofNat 3 r, qSlot := BitVec.ofNat 14 slot, qBusy := false, qReq := none }

/-- R452: the address of a request's descriptor. -/
def qreqPa (v : BitVec 64) : Nat := bits v.toNat 6 46 * 64

/-- R452, R459: QUEUE_CREATE. -/
def execQueueCreate (v : BitVec 64) (s : State) : Out :=
  let pa := qreqPa v
  let key := physNat s pa 4
  served s (
    if v.toNat / 2 ^ 62 ≠ 1 then s
    else if descBad s pa then queueResult s 3 0
    else if (lookupQueue s key (probes key)).isSome then queueResult s 2 0
    else match (probes key).find? fun x => !qcbValid s x with
      | none => queueResult s 1 0
      | some slot =>
        let st := physNat s (pa + 4) 4
        let s1 := physWrite s (qcbPa s slot) (physRead s pa 64)
        let s2 := physWrite s1 (qcbPa s slot + 4) (toBytes 4 (st % 2 ^ 30 + 2 ^ 31))
        let run : QueueRun := { tail := BitVec.ofNat 32 (physNat s (pa + 20) 4) }
        queueResult { s2 with front := { s2.front with queues := tset s2.front.queues slot run } } 0 slot)

/-- R459: a command of a queue's ring. -/
def ringCommand (s : State) (slot ix : Nat) : Option (List Byte) :=
  vaRead s (qcb s slot 0 4 / 4096) (qcb s slot 8 8 + 64 * (ix % qcb s slot 16 4)) 64

/-- R459: discard a command of a queue that is destroyed. -/
def discardCommand (s : State) (slot ix : Nat) : State :=
  match ringCommand s slot ix with
  | none => s
  | some bs => writeCompletion s (qcb s slot 0 4 / 4096) (ofBytes ((bs.drop 8).take 8)) 0x0302 0

/-- R452, R459: QUEUE_DESTROY: the commands that have not been admitted are discarded. -/
def execQueueDestroy (v : BitVec 64) (s : State) : Out :=
  let pa := qreqPa v
  let key := physNat s pa 4
  served s (
    if v.toNat / 2 ^ 62 ≠ 2 then s
    else if descBad s pa then queueResult s 3 0
    else match lookupQueue s key (probes key) with
      | none => queueResult s 2 0
      | some slot =>
        let run := (tget s.front.queues slot).getD {}
        let head := qcb s slot 20 4
        let n := (run.tail.toNat + 2 ^ 32 - head) % 2 ^ 32
        let s1 := applyAll s (List.range n) fun s k => discardCommand s slot (head + k)
        let s2 := applyAll s1 (run.cmds.filter fun c => c.launch.isNone) fun s c =>
          writeCompletion s (key / 4096) c.compl 0x0302 0
        let s3 := physWrite s2 (qcbPa s slot + 4) (toBytes 4 (2 ^ 30))
        queueResult { s3 with front := { s3.front with queues := tdel s3.front.queues slot } } 0 slot)

/-- R460: the rule for a tail word: it is accepted, discarded, or discarded and logged. -/
def applyTail (s : State) (slot : Nat) (v : BitVec 64) (off : Nat) : State :=
  let n := v.toNat
  let d := (bits n 32 24 + 2 ^ 24 - bits (qcb s slot 40 4) 0 24) % 2 ^ 24
  let room := (n % 2 ^ 32 + 2 ^ 32 - qcb s slot 20 4) % 2 ^ 32
  if !qcbValid s slot then s
  else if bits n 57 7 ≠ 0 then logMmio s off
  else if d = 0 ∨ 2 ^ 23 ≤ d ∨ qcb s slot 16 4 < room then s
  else
    let s1 := physWrite s (qcbPa s slot + 40) (toBytes 4 (bits n 32 24))
    let run := (tget s1.front.queues slot).getD {}
    { s1 with front := { s1.front with
      queues := tset s1.front.queues slot { run with tail := v.setWidth 32, urg := run.urg || bit n 56 } } }

/-- R460: DOORBELL_WRITE. -/
def execDoorbellWrite (slot : Nat) (v : BitVec 64) (s : State) : Out :=
  served s (if s.front.pairDown then s else applyTail s slot v (0x20000 + 8 * slot))

/-- R460: RECONCILE_PASS. -/
def execReconcilePass (s : State) : Out :=
  served s (if s.front.pairDown then s else
    applyAll s (s.front.queues.map (·.1)) fun s q => applyTail s q (BitVec.ofNat 64 (qcb s q 24 8)) (0x20000 + 8 * q))

/-! ### The host and other packages -/

/-- R381: the lines that the synchronisation engines hold among these bytes. -/
def heldLines (s : State) (pa n : Nat) : List Nat :=
  (span (pa / 128) ((pa + n + 127) / 128 - pa / 128)).filter fun l => (dieOf s (homeDie (128 * l))).held.contains l

/-- R159, R362, R377: bytes from outside the package reach memory. -/
def outsideWrite (s : State) (pa : Nat) (bs : List Byte) : State :=
  outsideCells s (bs.mapIdx fun k v => (pa + k, v))

/-- R377, R447: what a read of device memory by the host through BAR2 returns. -/
def hostRead (s : State) (pa n : Nat) : List Byte := (List.range n).map fun k => homeSeen s (pa + k)

/-- R381: ATOMIC_COLLISION: targets are retired, the line dropped and the event recorded. -/
def execAtomicCollision (d line : Nat) (s : State) : Out :=
  if !(dieOf s d).held.contains line then .next s
  else
    let s1 := applyAll s ((dieOf s d).targets.filter fun t => t.addr / 128 == line) fun s t => retireTarget s d t 0
    let s2 := modDie s1 d fun k => { k with
      held := k.held.filter (· != line)
      collPa := if k.collCnt = 0 then BitVec.ofNat 52 (128 * line) else k.collPa
      collCnt := if k.collCnt = 255 then 255 else k.collCnt + 1
      collValid := true }
    .next (logErr s2 5 8 (1024 * s.pkg.toNat + 256 * d) (128 * line) 0)

/-- R447: the new value of a host atomic. -/
def hostAtomic (op : HostOp) (n old : Nat) (data : List Byte) : Nat :=
  let a := ofBytes (data.take n)
  match op with
  | .fetchAdd => (old + a) % 2 ^ (8 * n)
  | .swap => a
  | .cas => if old = a then ofBytes ((data.drop n).take n) else old
  | .read | .write => old

/-- R447, R473: what a read of `n` bytes by the host through BAR2 returns: all ones before READY and where nothing is; the bytes of
memory or the weight store; or a register. What the window's other places return is not the package's (log 58). -/
def bar2Read (s : State) (off n : Nat) : List Byte :=
  let pa := s.front.r.bar2.toNat * 2 ^ 30 + off
  if !s.front.r.ready then List.replicate n 0xFF
  else match physKind pa with
  | .nothing => List.replicate n 0xFF
  | .regs => toBytes n (mmioRead s (pa - 0x80000000000) n)
  | .hbm | .lpddr | .weight => hostRead s pa n
  | .remote | .host => (List.range n).map fun k => Config.remoteByte s.tick (pa + k)

/-- R447, R322, R381: HOST_BAR2_ACCESS. A line that an engine holds collides first. -/
def execHostBar2Access (acc : HostAccess) (s : State) : Out :=
  let pa := s.front.r.bar2.toNat * 2 ^ 30 + acc.off
  let n := if acc.op = .write then acc.data.length else acc.len
  let wr := acc.op ≠ .read
  if !s.front.r.ready then .next s
  else match physKind pa with
  | .nothing => .next (logErr s 8 10 (1024 * s.pkg.toNat) pa 0)
  | .hbm | .lpddr =>
    let ls := heldLines s pa n
    if wr ∧ ls ≠ [] then
      .next (dueEvents s (ls.map (fun l => Event.atomicCollision (homeDie (128 * l)) l) ++ [.hostBar2Access acc]))
    else match acc.op with
    | .read => .next s
    | .write => .next (outsideWrite s pa acc.data)
    | op =>
      if n ≠ 4 ∧ n ≠ 8 then .next s
      else
        let old := ofBytes (hostRead s pa n)
        .next (outsideWrite s pa (toBytes n (hostAtomic op n old acc.data)))
  | .regs =>
    if acc.op = .write then execMmioWrite (pa - 0x80000000000) (8 * n) (BitVec.ofNat 64 (ofBytes acc.data)) s
    else execMmioRead (pa - 0x80000000000) n s
  | .weight | .remote | .host => .next s

/-- R347: KEASET_REMOTE_ACCESS: a request of another package. -/
def execKeasetRemoteAccess (acc : RemoteAccess) (s : State) : Out :=
  let mem (pa : Nat) : Bool := physKind pa == .hbm || physKind pa == .lpddr
  match acc with
  | .read _ _ => .next s
  | .write pa bs => .next (if mem pa then outsideWrite s pa bs else logErr s 8 10 (1024 * s.pkg.toNat) pa 0)
  | .add pa ty bs =>
    let n := max 1 (tyWidth ty / 8)
    if !mem pa then .next (logErr s 8 10 (1024 * s.pkg.toNat) pa 0)
    else if tyInt ty then
      let old := ofBytes (hostRead s pa n)
      .next (holdLine (outsideWrite s pa (toBytes n (atomicNew 0 ty old (ofBytes bs) 0))) pa)
    else if (List.range n).any fun k => inResidentImage s (pa + k) then .next (logErr s 7 10 (1024 * s.pkg.toNat) pa 0)
    else .next (holdLine (addTarget s 0 pa ty (({} : XSum).add (decodeF ty (ofBytes bs))) (homeDie pa)) pa)

end Sys2Proof.Machine
end

