-- ==== Sys2Proof/Machine/Shake.lean ====
section
/-!
DEFINITION. SHAKE256 with a 256-bit output, which R422, R425, R469 and R470 name (the function of FIPS 202).
-/
namespace Sys2Proof.Machine

/-- A rotation of a 64-bit lane to the left. -/
def rotl64 (x n : Nat) : Nat := (x * 2 ^ n + x / 2 ^ (64 - n)) % 2 ^ 64

/-- The offsets of the step rho, by lane x + 5y. -/
def rhoOffsets : List Nat :=
  [0, 1, 62, 28, 27, 36, 44, 6, 55, 20, 3, 10, 43, 25, 39, 41, 45, 15, 21, 8, 18, 2, 61, 56, 14]

/-- The constants of the step iota. -/
def roundConstants : List Nat :=
  [0x0000000000000001, 0x0000000000008082, 0x800000000000808A, 0x8000000080008000, 0x000000000000808B,
   0x0000000080000001, 0x8000000080008081, 0x8000000000008009, 0x000000000000008A, 0x0000000000000088,
   0x0000000080008009, 0x000000008000000A]
  ++ [0x000000008000808B, 0x800000000000008B, 0x8000000000008089, 0x8000000000008003, 0x8000000000008002,
   0x8000000000000080, 0x000000000000800A, 0x800000008000000A, 0x8000000080008081, 0x8000000000008080,
   0x0000000080000001, 0x8000000080008008]

/-- The step theta. -/
def theta (a : List Nat) : List Nat :=
  let c := (List.range 5).map fun x => ((List.range 5).map fun y => a.getD (x + 5 * y) 0).foldl (· ^^^ ·) 0
  (List.range 25).map fun i =>
    a.getD i 0 ^^^ c.getD ((i + 4) % 5) 0 ^^^ rotl64 (c.getD ((i + 1) % 5) 0) 1

/-- The steps rho and pi: lane (x, y) comes from lane (x + 3y, x). -/
def rhoPi (a : List Nat) : List Nat :=
  (List.range 25).map fun i =>
    let x := i % 5
    let j := (x + 3 * (i / 5)) % 5 + 5 * x
    rotl64 (a.getD j 0) (rhoOffsets.getD j 0)

/-- The step chi. -/
def chi (a : List Nat) : List Nat :=
  (List.range 25).map fun i =>
    let y := i / 5
    a.getD i 0 ^^^ ((2 ^ 64 - 1 - a.getD ((i + 1) % 5 + 5 * y) 0) &&& a.getD ((i + 2) % 5 + 5 * y) 0)

/-- The permutation of 24 rounds. -/
def keccakF (a : List Nat) : List Nat :=
  roundConstants.foldl (fun a rc =>
    match chi (rhoPi (theta a)) with
    | [] => []
    | l :: ls => (l ^^^ rc) :: ls) a

/-- Take in one block of 136 bytes. -/
def absorb (a : List Nat) (bs : List Byte) : List Nat :=
  keccakF ((List.range 25).map fun i => a.getD i 0 ^^^ ofBytes ((bs.drop (8 * i)).take 8))

/-- Take in `n` blocks. -/
def absorbAll : Nat → List Nat → List Byte → List Nat
  | 0, a, _ => a
  | n + 1, a, bs => absorbAll n (absorb a (bs.take 136)) (bs.drop 136)

/-- SHAKE256 with a 256-bit output. -/
def shake256 (m : List Byte) : List Byte :=
  let q := 136 - m.length % 136
  let pad : List Byte := if q = 1 then [0x9F] else 0x1F :: List.replicate (q - 2) 0 ++ [0x80]
  let a := absorbAll (m.length / 136 + 1) (List.replicate 25 0) (m ++ pad)
  (toBytes 8 (a.getD 0 0)) ++ toBytes 8 (a.getD 1 0) ++ toBytes 8 (a.getD 2 0) ++ toBytes 8 (a.getD 3 0)

end Sys2Proof.Machine
end

