-- ==== Sys2Proof/Machine/StepBarrier.lean ====
section
/-!
DEFINITION. The release of the step barrier (R386) with the digests of replicas (R422 to R425).
-/
namespace Sys2Proof.Machine

/-- R386: the parties of a launch at its step barrier: block, group and tag. -/
def sbarParties (s : State) (l : Nat) : List (Nat × Nat × Nat) :=
  ((s.blocks.filter fun b => b.2.launch == l).map fun b =>
    (b.2.groups.map fun g => ((g.2.slices.filter fun x => x.live != 0).head?.bind fun x => match x.wait with
      | .sbar t => some (b.1, g.1, t)
      | _ => none)).filterMap id).flatten

/-- R386, R31: whether every party of a launch has arrived, and nothing holds the barrier. -/
def sbarReady (s : State) (l : Nat) (x : Launch) : Bool :=
  x.r.step && allAtSbar s l x && !(sbarParties s l).isEmpty && !x.tslHeld && !x.replicaHeld && !debugHeld s l
    && (s.blocks.filter fun b => b.2.launch == l).all fun b => b.2.placed && b.2.h.halt == .running

/-- R386: a group raises BARM at its `sbar`. -/
def barmGroup (s : State) (b gi : Nat) : State :=
  match (tget s.blocks b).bind fun k => (tget k.groups gi).map fun g => (k, g) with
  | none => s
  | some (k, g) =>
    let sl := (List.range 8).filter fun j => match g.slices[j]? with
      | some x => x.live != 0
      | none => false
    let pc := groupPc g - 12
    let r : CauseRec := {
      code := causeCode .barm, pc := pc, len := 12
      words := match fetchAt (coreOf s k.core) (recOf s k).pasid pc.toNat with
        | .got ws => ws.map (BitVec.ofNat 32)
        | _ => []
      pmask := maskOf (sl.map (actLanes g)).flatten, slices := sliceMask sl
      scyc := (coreOf s k.core).scyc % 2 ^ 32, sreft := sref s }
    let back (x : Slice) : Slice := if x.live = 0 then x else { x with pc := x.pc - 12, wait := .none }
    recordCause (modGroup s b gi fun g => { g with slices := g.slices.map back }) b gi r

/-- R386: release every party of a launch. -/
def releaseStep (s : State) (l : Nat) : State :=
  let s1 := applyAll s (sbarParties s l) fun s p => modBlock s p.1 fun k => releaseWait k (.sbar p.2.2)
  modLaunch s1 l fun x => { x with sbars := x.sbars + 1, replicaHeld := false }

/-! ### Replicas -/

/-- R422: the digested buffers of a launch. -/
def digested (r : LaunchRec) : List (Nat × Nat) :=
  (List.range 16).filterMap fun e => if bit r.dmask e then r.publish[e]? else none

/-- R425: what a replica exchanges at its first step barrier. -/
def replicaId (r : LaunchRec) : List Byte :=
  r.digest ++ toBytes 1 r.count ++ toBytes 2 r.dmask ++ ((digested r).map fun b => toBytes 8 b.2).flatten

/-- R422: the chunks of the digested buffers, in order. -/
def digestChunks (r : LaunchRec) : List Nat :=
  ((digested r).map fun b => (List.range (b.2 / 65536)).map fun k => b.1 + 65536 * k).flatten

/-- R422: the digests of a replica's chunks. -/
def chunkDigests (s : State) (r : LaunchRec) : List (List Byte) :=
  (digestChunks r).map fun va => shake256 ((vaRead s r.pasid va 65536).getD [])

/-- R422: the digests of the buffers, from those of their chunks and the count of releases. -/
def bufferDigests (count : Nat) : List (Nat × Nat) → List (List Byte) → List (List Byte)
  | [], _ => []
  | b :: bs, cs =>
    let n := b.2 / 65536
    shake256 ((cs.take n).flatten ++ toBytes 8 count) :: bufferDigests count bs (cs.drop n)

/-- R423: a replica is held: the host is told, and the first chunk that differs from `other` is logged. -/
def holdReplica (s : State) (l : Nat) (x : Launch) (own other : List (List Byte)) : State :=
  let ix := ((List.range own.length).filter fun k => own[k]? != other[k]?).headD 0
  let va := (digestChunks x.r).getD ix 0
  let d := ((devicePa s x.r.pasid va).map homeDie).getD 0
  let s1 := modLaunch s l fun x => { x with replicaHeld := true }
  let s2 := raiseMsix (writeCompletion s1 x.r.pasid x.r.compl 0x0004 l) 6
  logErr s2 9 10 (1024 * s.pkg.toNat + 256 * d) va 0

/-- R422, R423: compare the digests of all replicas; `elsewhere` are those of other packages. -/
def decideStep (s : State) (n : Nat) (mine : List (Nat × Launch)) (elsewhere : List (List (List Byte))) : State :=
  let sets := (mine.map fun m => chunkDigests s m.2.r) ++ elsewhere
  let key (m : Launch) (cs : List (List Byte)) : List (List Byte) := bufferDigests (m.sbars + 1) (digested m.r) cs
  applyAll s mine fun s1 m =>
    let own := chunkDigests s m.2.r
    let same := (sets.filter fun c => key m.2 c == key m.2 own).length
    if same = n ∨ (3 ≤ n ∧ n < 2 * same) then releaseStep s1 m.1
    else holdReplica s1 m.1 m.2 own ((sets.find? fun c => key m.2 c != key m.2 own).getD [])

/-- R425, R423: the step of a replica set, once as many replicas as the count have arrived. -/
def replicaStep (s : State) (x : Launch) : State :=
  let s1 := { s with tick := s.tick + 1 }
  let set := s.launches.filter fun m => m.2.r.setNo == x.r.setNo
  let mine := set.filter fun m => sbarReady s m.1 m.2
  let far := Config.replicasElsewhere s.tick x.r.setNo
  let ids := (mine.map fun m => replicaId m.2.r) ++ far.map (·.1)
  if x.sbars = 0 ∧ (x.r.count < ids.length ∨ ids.any fun i => i != replicaId x.r) then
    applyAll s1 (set.map (·.1)) fun s l => endLaunch s l 0x0105
  else if ids.length < x.r.count then s1
  else decideStep s1 x.r.count mine (far.map (·.2))

/-- R386: SBAR_RELEASE: equal tags release every party; unequal ones raise BARM in every party. -/
def execSbarRelease (l : Nat) (s : State) : Out :=
  match tget s.launches l with
  | none => .next s
  | some x =>
    if !sbarReady s l x then .next s
    else
      let ps := sbarParties s l
      if !uniform (ps.map fun p => p.2.2) then .next (applyAll s ps fun s p => barmGroup s p.1 p.2.1)
      else if x.r.setNo ≠ 0 then .next (replicaStep s x)
      else .next (releaseStep s l)

end Sys2Proof.Machine
end

