-- ==== Sys2Proof/Machine/Loading.lean ====
section
/-!
DEFINITION. The checks of code objects (R470), launch records (R463), the static checks and the admission arithmetic of
a launch (R464).
-/
namespace Sys2Proof.Machine

/-! ### Code objects -/

/-- R470: whether bytes of a PASID are wholly mapped readable. -/
def readable (s : State) (pasid va n : Nat) : Bool :=
  (span (va / 4096) ((va + n + 4095) / 4096 - va / 4096)).all fun p => match translate s pasid (4096 * p) with
    | .ok l => fetchable l
    | _ => false

/-- R470: where the record of an entry begins. -/
def entryAt (o : List Byte) (k : Nat) : Nat := objField o 20 4 + 64 * k

/-- R68, R470: whether an entry record is outside its limits. -/
def entryRecBad (o : List Byte) (k : Nat) : Bool :=
  let e := entryAt o k
  let f (at_ n : Nat) : Nat := objField o (e + at_) n
  decide (o.length ≤ f 0 4) || decide (1 < f 4 4) || f 8 8 % 64 != 0 || decide (o.length ≤ f 8 8)
    || f 16 2 == 0 || decide (256 < f 16 2 + f 18 2) || decide (0x100000 < f 20 4)
    || decide (f 24 4 < 16) || decide (4096 < f 24 4) || f 24 4 % 16 != 0
    || decide (8 < f 28 4) || decide (o.length < f 32 4 + 16 * f 28 4) || f 36 28 != 0

/-- R470: whether the header and the tables of an object fail their checks. The digest is checked when it is loaded. -/
def objectBad (o : List Byte) (loaded : Bool) : Bool :=
  objField o 0 4 != 0x31535345 || objField o 4 2 != 1 || decide (1 < objField o 6 1)
    || !(objField o 7 1 == 1 || objField o 7 1 == 2) || objField o 80 48 != 0
    || decide (o.length < objField o 20 4 + 64 * objField o 16 4)
    || decide (o.length < objField o 28 4 + 8 * objField o 24 4)
    || decide (o.length < objField o 36 4) || decide (o.length < objField o 44 4 + 32 * objField o 40 4)
    || (List.range (objField o 16 4)).any (entryRecBad o)
    || (!loaded && shake256 (o.take 48 ++ List.replicate 32 0 ++ o.drop 80) != (o.drop 48).take 32)
    || (objField o 24 4 != 0 && (resolverStub o).isNone)
    || (objField o 40 4 != 0 && linksBad o)
    || (objField o 6 1 == 1 && (records o).any fun r => r.2.isNone)

/-- R470: the object at an address, or none where the launch is refused with 0x0106. -/
def objectAt (s : State) (pasid va : Nat) : Option (List Byte) :=
  if !readable s pasid va 128 then none
  else
    let n := (vaNat s pasid (va + 8) 8).getD 0
    if n < 128 || !readable s pasid va n then none
    else match vaRead s pasid va n with
      | none => none
      | some o => if objectBad o (isLoaded s pasid va (objDigest o)) then none else some o

/-! ### Launch records (R463) -/

/-- R463: pairs of base and length, up to `n` and up to the first length of 0. -/
def pairTable (s : State) (pasid va : Nat) : Nat → List (Nat × Nat)
  | 0 => []
  | n + 1 =>
    let b := (vaNat s pasid va 8).getD 0
    let l := (vaNat s pasid (va + 8) 8).getD 0
    if l = 0 then [] else (b, l) :: pairTable s pasid (va + 16) n

/-- R159, R463: whether an area lies in context pages. -/
def contextArea (s : State) (pasid va n : Nat) : Bool :=
  (span (va / 4096) ((va + n + 4095) / 4096 - va / 4096)).all fun p => match translate s pasid (4096 * p) with
    | .ok l => l.ctx
    | _ => false

/-- R463: a launch record of a queue, without what its code object gives. -/
def recordAt (s : State) (q pasid va : Nat) : LaunchRec :=
  let f (o n : Nat) : Nat := (vaNat s pasid (va + o) n).getD 0
  let mode := f 21 1
  let rep := f 80 8
  { pasid := pasid, queue := q
    nl := if bit mode 2 then 32 else f 12 4
    blocks := f 16 4, dies := f 20 1
    step := bit mode 0, det := bit mode 1, node := bit mode 2, debug := bit mode 3
    rt := f 22 2, handler := BitVec.ofNat 64 (f 24 8), ctxArea := f 32 8, backing := f 40 8
    publish := if f 48 8 = 0 then [] else pairTable s pasid (f 48 8) 16
    owns := if f 56 8 = 0 then [] else pairTable s pasid (f 56 8) 8
    lb := f 64 4, gather := f 68 2
    inits := (List.range (f 70 2)).map fun k =>
      ((vaNat s pasid (f 72 8 + 16 * k) 1).getD 0, (vaNat s pasid (f 72 8 + 16 * k + 8) 8).getD 0)
    setNo := bits rep 0 32, count := bits rep 32 8, dmask := bits rep 40 16, object := f 0 8
    bound := qcb s q 32 4, slice := qcb s q 36 4, prio := bits (qcb s q 4 4) 16 8 }

/-- R463: whether the context and backing areas of `n` blocks from block `b` on lie in context pages. -/
def areasOk (s : State) (r : LaunchRec) (b n : Nat) : Bool :=
  contextArea s r.pasid (r.ctxArea + 34816 * 32 * b) (34816 * 32 * n)
    && contextArea s r.pasid (r.backing + 0x400000 * b) (0x400000 * n)

/-- R463: whether a launch record is malformed (0x0105). Of a node, which names no number of blocks, the areas of block 0 are checked,
and those of a later block with its batch (DEDUCED, log 123). -/
def recordBad (s : State) (pasid va : Nat) (r : LaunchRec) : Bool :=
  let f (o n : Nat) : Nat := (vaNat s pasid (va + o) n).getD 0
  va % 64 != 0 || (vaRead s pasid va 128).isNone
    || (!r.node && (r.nl == 0 || decide (1024 < r.nl) || r.blocks == 0 || decide (2 ^ 20 < r.blocks)))
    || bits (f 20 1) 4 4 != 0 || bits (f 21 1) 4 4 != 0
    || r.lb == 0 || decide (10 ^ 8 < r.lb) || decide (256 < r.inits.length)
    || ((List.range r.inits.length).any fun k => (vaNat s pasid (f 72 8 + 16 * k + 1) 7).getD 1 != 0)
    || (r.publish.any fun p => p.1 % 65536 != 0 || p.2 % 65536 != 0)
    || bits (f 80 8) 56 8 != 0 || f 88 40 != 0
    || (r.setNo != 0 && (!r.step || decide (r.count < 2) || decide (64 < r.count)
          || (List.range 16).any fun e => bit r.dmask e && decide (r.publish.length ≤ e)))
    || !areasOk s r 0 (if r.node then 1 else r.blocks)

/-- R40, R463, R470: a launch record with what the named entry of its object gives. Bits [1:0] of the entry's address are dropped
(log 111). -/
def withEntry (r : LaunchRec) (o : List Byte) (k : Nat) (ownTable : Bool) : LaunchRec :=
  let f (at_ n : Nat) : Nat := objField o (entryAt o k + at_) n
  { r with
    entry := BitVec.ofNat 64 (nativeVa o r.object (f 8 8) / 4 * 4)
    mmrev := objField o 7 1, base := f 16 2, ext := f 18 2, scratch := f 20 4, park := f 24 4
    owns := if ownTable then r.owns
      else (List.range (f 28 4)).map fun j => (objField o (f 32 4 + 16 * j) 8, objField o (f 32 4 + 16 * j + 8) 8)
    digest := objDigest o, objSize := o.length }

/-- R162: whether the reservation of registers exceeds a team's file. -/
def regsBad (r : LaunchRec) : Bool :=
  let g := min 8 (groupsOf r)
  decide (1024 < g * r.base) || decide (1024 < g * r.base + r.ext)

/-- R217: whether scratchpad and park ring exceed 1 MiB. -/
def scratchBad (r : LaunchRec) : Bool := decide (0x100000 < roundUp 12 r.scratch + roundUp 12 (64 * r.park))

/-- R373, R378: whether the target allowance is not free on a die of the mask: 527,928 targets, less the allowances of the
launches that may run there. -/
def allowanceBad (s : State) (r : LaunchRec) : Bool :=
  (List.range 4).any fun d => bit r.dies d &&
    decide (527928 < r.rt + ((s.launches.filter fun l => bit l.2.r.dies d).map fun l => l.2.r.rt).sum)

/-- R450: whether the entry of a PASID is valid. -/
def pasidValid (s : State) (pasid : Nat) : Bool :=
  s.front.r.pasidEn && bit (physNat s (s.front.r.pasidPa.toNat * 4096 + 8 * pasid) 8) 0

/-- R464: the static checks of a LAUNCH in their order: a status, or the launch and its object. -/
def staticChecks (s : State) (q pasid va : Nat) : Except Nat (LaunchRec × List Byte) :=
  let r := recordAt s q pasid va
  let ix := (vaNat s pasid (va + 8) 4).getD 0
  if !pasidValid s pasid || recordBad s pasid va r then .error 0x0105
  else match objectAt s pasid r.object with
    | none => .error 0x0106
    | some o =>
      let r1 := withEntry r o ix ((vaNat s pasid (va + 56) 8).getD 0 != 0)
      if objField o 16 4 ≤ ix then .error 0x0105
      else if r.dies = 0 then .error 0x0107
      else if regsBad r1 then .error 0x0102
      else if scratchBad r1 then .error 0x0103
      else if allowanceBad s r1 then .error 0x0104
      else .ok (r1, o)

/-! ### Admission (R464) -/

/-- R252: the frames that a block reserves. -/
def reservation (k : Block) : Nat := ringSize k / 4096 + 16

/-- R464, R468: what a placed block, real or foreseen, holds: its core, teams, whether a slot, frames, and until when; when its launch
has ended, and the die mask of that. -/
structure Hold where
  core : Nat
  teams : Nat
  slot : Bool
  frames : Nat
  till : Nat
  ends : Nat
  dies : Nat := 0
  deriving DecidableEq, Repr

/-- R464: blocks that are still to be placed: how many, teams and frames of each, die mask, time held, whether all at once, and the
dies of the WEIGHTS and SLOTLOAD commands that hold them back (R468). -/
structure Todo where
  blocks : Nat
  teams : Nat
  frames : Nat
  dies : Nat
  lb : Nat
  whole : Bool
  after : Nat := 0
  deriving DecidableEq, Repr

/-- R23: the load of a core in the forward run. -/
def simLoad (hs : List Hold) (c : Nat) : Nat := ((hs.filter fun h => h.core == c).map Hold.teams).sum

/-- R24: the core of the forward run's next block. -/
def simCore (s : State) (hs : List Hold) (dies n : Nat) : Option Nat :=
  let ok (c : Nat) : Bool :=
    decide (simLoad hs c + n ≤ 4) && decide ((hs.filter fun h => h.core == c && h.slot).length < 4) && bit dies (dieOfCore c)
      && !(clusterOf s (clusterOfCore c)).offline
  let cores (cl : Nat) : List Nat := (span (96 * cl) 96).filter ok
  let load (cl : Nat) : Nat := ((hs.filter fun h => clusterOfCore h.core == cl).map Hold.teams).sum
  (lowest load ((List.range 8).filter fun cl => !(cores cl).isEmpty)).bind fun cl => lowest (simLoad hs) (cores cl)

/-- R252: when a block placed on a core at time `t` has its `n` frames: the blocks placed there before it that still hold theirs
leave it enough of 112. -/
def simStart (hs : List Hold) (core n t : Nat) : Option Nat :=
  let mine := hs.filter fun h => h.core == core
  lowest id ((t :: (mine.map Hold.till).filter (decide <| t < ·)).filter fun u =>
    decide (((mine.filter fun h => decide (u < h.till)).map Hold.frames).sum + n ≤ 112))

/-- Place `n` blocks at time `t` in the forward run, or none; with the latest time at which one of them, or of those before, can
start. -/
def simMany (s : State) (x : Todo) (t : Nat) : Nat → Nat × List Hold → Option (Nat × List Hold)
  | 0, r => some r
  | n + 1, r => (simCore s r.2 x.dies x.teams).bind fun c => (simStart r.2 c x.frames t).bind fun u =>
      simMany s x t n (max r.1 u
        , { core := c, teams := x.teams, slot := true, frames := x.frames, till := t + x.lb, ends := t + x.lb, dies := x.dies } :: r.2)

/-- R468: when the commands that hold back what is to be placed can take effect: every launch on a die they touch has ended. -/
def simAfter (hs : List Hold) (x : Todo) (t : Nat) : Nat :=
  ((hs.filter fun h => (h.dies &&& x.after) != 0).map Hold.ends).foldl max t

/-- R464: what is held after time `t`. -/
def holdsAt (t : Nat) (hs : List Hold) : List Hold :=
  (hs.filter fun h => decide (t < max h.till h.ends)).map fun h =>
    if t < h.till then h else { h with teams := 0, slot := false, frames := 0 }

/-- R252, R464: the forward run: when the last block of the last launch is placed and has its frames (DEDUCED, log 61). `last` is the
latest start of the blocks of the launch in hand. -/
def simRun (s : State) : Nat → Nat → Nat → List Hold → List Todo → Option Nat
  | 0, _, _, _, _ => none
  | _ + 1, t, last, _, [] => some (max t last)
  | fuel + 1, t, last, hs, x :: xs =>
    if x.blocks = 0 then simRun s fuel t (if xs.isEmpty then last else 0) hs xs
    else if x.after ≠ 0 then
      let t1 := simAfter hs x t
      simRun s fuel t1 last (holdsAt t1 hs) ({ x with after := 0 } :: xs)
    else match simMany s x t (if x.whole then x.blocks else 1) (last, hs) with
      | some r => simRun s fuel t r.1 r.2 ({ x with blocks := if x.whole then 0 else x.blocks - 1 } :: xs)
      | none =>
        match (hs.map Hold.till).filter (decide <| t < ·) with
        | [] => none
        | u :: us =>
          let t1 := us.foldl min u
          simRun s fuel t1 last (holdsAt t1 hs) (x :: xs)

/-- R464, R468: until when a resident block is taken to hold its teams, slot and frames: its placement and Lb, or the end of its time
slice; a command that waits for its launch counts its Lb. -/
def holdOf (s : State) (prio : Nat) (b : Block) : Hold :=
  let r := recOf s b
  let lim := b.h.placedAt + 13000 * r.lb
  let slice := s.time + (13000 * r.slice - b.h.sliceUsed) + 84500
  { core := b.core, teams := if b.h.halt = .preempted then 0 else b.teams.length, slot := true
    frames := reservation b
    till := if r.prio ≤ prio then min lim slice else lim
    ends := lim
    dies := r.dies }

/-- R252: the frames that a block of a launch reserves. -/
def framesOf (r : LaunchRec) : Nat := roundUp 12 (64 * r.park) / 4096 + 16

/-- R468: the dies that the WEIGHTS and SLOTLOAD commands touch that hold back launch `l`. -/
def holdDies (s : State) (l : Nat) : Nat :=
  ((s.front.queues.flatMap fun q => (q.2.cmds.filter fun c => decide (c.mark ≤ l)).map fun c =>
    if c.kind = 5 then ofBytes ((c.bytes.drop 40).take 1) else if c.kind = 6 then 15 else 0)).foldl (fun a b => a ||| b) 0

/-- R464: what is to be placed for launch `l`. -/
def todoOf (s : State) (l : Nat) (x : Launch) : Todo :=
  { after := holdDies s l
    blocks := blocksDue x - x.next, teams := teamsOf x.r, frames := framesOf x.r, dies := x.r.dies, lb := 13000 * x.r.lb
    whole := x.r.step && x.next == 0 }

/-- R464: the guaranteed placement time of blocks of a launch with this record; none if the run finds none. -/
def placementTime (s : State) (r : LaunchRec) (blocks : Nat) : Option Nat :=
  let hs := (s.blocks.filter fun b => b.2.placed).map fun b => holdOf s r.prio b.2
  let old := s.front.order.filterMap fun l => (tget s.launches l).map (todoOf s l)
  let new : Todo := {
    blocks := blocks, teams := teamsOf r, frames := framesOf r, dies := r.dies, lb := 13000 * r.lb, whole := r.step
    after := holdDies s s.front.nextLaunch }
  let todo := old ++ [new]
  simRun s (2 * (todo.map fun x => x.blocks + 2).sum + hs.length + 2) s.time 0 (holdsAt s.time hs) todo

/-- R2, R464: whether blocks are startable within an admission bound in µs from the time at which their command was read. -/
def startable (s : State) (r : LaunchRec) (blocks at_ : Nat) : Bool :=
  match placementTime s r blocks with
  | none => false
  | some t => decide (t ≤ at_ + 13000 * r.bound)

end Sys2Proof.Machine
end

