-- ==== Sys2Proof/Machine/Commands.lean ====
section
/-!
DEFINITION. The commands of the queues (R461, R462, R464, R465, R468, R425): LAUNCH, RECORD, SIGNAL, WAIT, WEIGHTS, SLOTLOAD,
FLUSH and REPLICA, the batches of nodes and the gather timer, and the end of a launch by the host.
-/
namespace Sys2Proof.Machine

/-- R461: a command at the head of a queue. -/
structure Cmd where
  pasid : Nat
  bytes : List Byte
  deriving DecidableEq, Repr

/-- A field of a command. -/
def Cmd.f (c : Cmd) (o n : Nat) : Nat := ofBytes ((c.bytes.drop o).take n)

/-- R461: the kind of a command. -/
def Cmd.kind (c : Cmd) : Nat := c.f 0 1

/-- R461: the completion address of a command. -/
def Cmd.compl (c : Cmd) : Nat := c.f 8 8

/-- R461: whether a command is malformed. -/
def Cmd.bad (c : Cmd) : Bool :=
  c.kind == 0 || decide (8 < c.kind) || decide (1 < c.f 1 1) || c.f 2 6 != 0 || c.compl % 16 != 0

/-- What a queue keeps beside its QCB. -/
def runOf (s : State) (q : Nat) : QueueRun := (tget s.front.queues q).getD {}

/-- R461, R466, R467: the command that the front end would take next from a queue: none behind a WAIT, none that is SERIAL
before all earlier ones have completed, none while the pair restarts or a recovery loader waits. -/
def headCommand (s : State) (q : Nat) : Option Cmd :=
  let run := runOf s q
  let head := qcb s q 20 4
  if !s.front.r.ready || s.front.pairDown || s.front.r.fwrecov || !qcbValid s q || run.tail.toNat == head
      || run.cmds.any (fun c => c.kind == 4) then none
  else match ringCommand s q head with
    | none => none
    | some bs =>
      let c : Cmd := ⟨qcb s q 0 4 / 4096, bs⟩
      if bit (c.f 1 1) 0 && !run.cmds.isEmpty then none else some c

/-- R461: the front end takes a command: the head of its queue advances. -/
def takeCommand (s : State) (q : Nat) : State := physWrite s (qcbPa s q + 20) (toBytes 4 (qcb s q 20 4 + 1))

/-- R461: take a command and complete it. -/
def finishCommand (s : State) (q : Nat) (c : Cmd) (status id : Nat) : State :=
  writeCompletion (takeCommand s q) c.pasid c.compl status id

/-- R461: take a command that completes later. -/
def keepCommand (s : State) (q : Nat) (c : Cmd) (l : Option Nat) : State :=
  let s1 := takeCommand s q
  let x : Command := { kind := c.kind, compl := c.compl, bytes := c.bytes, launch := l, serial := bit (c.f 1 1) 0
                       mark := s.front.nextLaunch }
  { s1 with front := { s1.front with queues := tset s1.front.queues q { runOf s1 q with cmds := (runOf s1 q).cmds ++ [x] } } }

/-- R461: a kept command completes. -/
def dropCommand (s : State) (q : Nat) (x : Command) (status : Nat) : State :=
  let s1 := writeCompletion s (qcb s q 0 4 / 4096) x.compl status 0
  { s1 with front := { s1.front with queues := tmod s1.front.queues q fun r => { r with cmds := r.cmds.erase x } } }

/-- A command of this kind at the head of a queue. -/
def commandOf (s : State) (q kind : Nat) : Option Cmd :=
  (headCommand s q).filter fun c => !c.bad && c.kind == kind

/-! ### LAUNCH -/

/-- R464: how a queue ranks in an admission pass: priority, then URG, then slot order; the lower comes first. -/
def queueRank (s : State) (q : Nat) : Nat :=
  (255 - bits (qcb s q 4 4) 16 8) * 2 ^ 16 + (if (runOf s q).urg then 0 else 2 ^ 15) + q

/-- R464: the queue whose LAUNCH an admission pass takes next. -/
def nextQueue (s : State) : Option Nat :=
  lowest (queueRank s) ((s.front.queues.map (·.1)).filter fun q => (commandOf s q 1).isSome)

/-- R464, R470: a launch is admitted. R470 has its object loaded before a block that uses it issues: whether at once, or before its
first block is placed, is a free choice (R14, R479), but an object that stays loaded is not loaded again. -/
def takeLaunch (s : State) (q : Nat) (c : Cmd) (r : LaunchRec) (o : List Byte) : State :=
  let id := s.front.nextLaunch
  let pk := if isLoaded s r.pasid r.object (objDigest o) then (0, s) else choose s 2
  let s1 := keepCommand (if pk.1 = 0 then snapCode (loadObject pk.2 r.pasid r.object o) r.pasid else pk.2) q c (some id)
  let s2 := writeCompletion s1 c.pasid c.compl 0x0001 id
  { s2 with
    launches := tset s2.launches id { r := { r with compl := c.compl }, toLoad := if pk.1 = 0 then none else some o }
    front := { s2.front with nextLaunch := id % (2 ^ 32 - 1) + 1, order := s2.front.order ++ [id] } }

/-- R464: LAUNCH: a command is checked, admitted, or refused. A malformed command of any kind is refused here. -/
def execLaunch (q : Nat) (s : State) : Out :=
  match headCommand s q with
  | none => .next s
  | some c =>
    if c.bad then .next (finishCommand s q c 0x0105 0)
    else if c.kind ≠ 1 ∨ s.front.r.fwState = 4 ∨ nextQueue s ≠ some q then .next s
    else
      let at_ := (runOf s q).readAt.getD s.time
      let s0 := { s with front := { s.front with queues := tmod s.front.queues q fun r => { r with urg := false, readAt := none } } }
      let s1 := noteAbsent s0 c.pasid (c.f 16 8) 128 (1024 * s.pkg.toNat)
      match staticChecks s1 q c.pasid (c.f 16 8) with
      | .error status =>
        .next (finishCommand (noteAbsent s1 c.pasid ((vaNat s1 c.pasid (c.f 16 8) 8).getD 0) 128 (1024 * s.pkg.toNat)) q c status 0)
      | .ok (r, o) =>
        if r.node || startable s1 r r.blocks at_ then .next (takeLaunch s1 q c r o)
        else .next (finishCommand s1 q c 0x0101 0)

/-! ### Nodes (R465) -/

/-- R465: the records of a node that has run or failed no longer keep their commands. -/
def endRecords (s : State) (l : Nat) (rs : List (Nat × Nat × Nat)) (status : Nat) : State :=
  let pasid := ((tget s.launches l).map fun x => x.r.pasid).getD 0
  let s1 := applyAll s rs fun s r => writeCompletion s pasid r.2.2 status 0
  { s1 with front := { s1.front with queues := s1.front.queues.map fun q =>
      (q.1, { q.2 with cmds := q.2.cmds.filter fun c => !(c.launch == some l && c.kind == 2 && rs.any fun r => r.2.2 == c.compl) }) } }

/-- R465: a node that has closed and whose groups have all finished completes. -/
def nodeEnd (s : State) (l : Nat) : State :=
  match tget s.launches l with
  | none => s
  | some x =>
    if x.closed && x.ending.isNone && x.records.isEmpty && decide (x.finishedBlocks = x.blockRecs.length) then
      completeLaunch s l 0
    else s

/-- R465: launch a batch of a node's records, or refuse it. -/
def nodeBatch (s : State) (l : Nat) : State :=
  match tget s.launches l with
  | none => s
  | some x =>
    let batch := x.records.take 32
    let rest := x.records.drop 32
    if batch.isEmpty || x.ending.isSome then s
    else if startable s x.r 1 s.time && areasOk s x.r x.blockRecs.length 1 then
      modLaunch s l fun x => { x with records := rest, blockRecs := x.blockRecs ++ [(x.blockRecs.length, batch)] }
    else endRecords (modLaunch s l fun x => { x with records := rest }) l batch 0x0101

/-- R465: RECORD. -/
def execRecord (q : Nat) (s : State) : Out :=
  match commandOf s q 2 with
  | none => .next s
  | some c =>
    let l := c.f 16 4
    if debugHeld s l then .next s
    else match tget s.launches l with
    | none => .next (finishCommand s q c 0x0105 0)
    | some x =>
      if !x.r.node || x.r.pasid ≠ c.pasid || x.closed || decide (65536 < c.f 32 4) then .next (finishCommand s q c 0x0105 0)
      else
        let s1 := modLaunch (keepCommand s q c (some l)) l fun x => { x with
          records := x.records ++ [(x.recNo, c.f 24 8, c.compl)]
          recNo := x.recNo + 1
          oldest := if x.records.isEmpty then s.time else x.oldest }
        .next (if x.records.length + 1 = 32 then nodeBatch s1 l else s1)

/-- R465, R466: the gather timer of a node lapses. -/
def execGatherTimer (l : Nat) (s : State) : Out :=
  match tget s.launches l with
  | none => .next s
  | some x =>
    if x.r.node && x.r.gather != 0 && !x.records.isEmpty && decide (x.oldest + 13000 * x.r.gather ≤ s.time) && !debugHeld s l
        && !s.front.pairDown
    then .next (nodeBatch s l) else .next s

/-- R461, R465: a FLUSH of a node; `close` ends it. -/
def flushNode (s : State) (q : Nat) (close : Bool) : State :=
  match commandOf s q 7 with
  | none => s
  | some c =>
    let l := c.f 16 4
    if bit (c.f 20 1) 0 ≠ close || debugHeld s l then s
    else match tget s.launches l with
    | none => finishCommand s q c 0x0105 0
    | some x =>
      if !x.r.node || x.r.pasid ≠ c.pasid || x.ending.isSome then finishCommand s q c 0x0105 0
      else
        let s1 := nodeBatch (finishCommand s q c 0 0) l
        if close then nodeEnd (modLaunch s1 l fun x => { x with closed := true }) l else s1

/-- R465: FLUSH. -/
def execFlush (q : Nat) (s : State) : Out := .next (flushNode s q false)

/-- R465: FLUSH with CLOSE. -/
def execFlushClose (q : Nat) (s : State) : Out := .next (flushNode s q true)

/-- R466, R468: a kept command of this kind, on which the pair can act. -/
def keptOf (s : State) (q kind : Nat) : Option Command :=
  if s.front.pairDown then none else (runOf s q).cmds.find? fun x => x.kind == kind

/-! ### SIGNAL and WAIT (R461) -/

/-- R461: the vector of a SIGNAL. -/
def signalVector (bs : List Byte) : Nat := ofBytes ((bs.drop 32).take 2)

/-- R461: SIGNAL: it waits for the earlier commands of its queue. -/
def execSignal (q : Nat) (s : State) : Out :=
  match commandOf s q 3 with
  | none => .next s
  | some c =>
    let v := signalVector c.bytes
    if (v ≠ 0 ∧ v < 8) ∨ 2047 < v then .next (finishCommand s q c 0x0105 0)
    else .next (keepCommand s q c none)

/-- R461: the value of a SIGNAL whose earlier commands have completed is written, and its vector raised. -/
def execSignalWrite (q : Nat) (s : State) : Out :=
  match (runOf s q).cmds with
  | [] => .next s
  | x :: _ =>
    if x.kind ≠ 3 || s.front.pairDown then .next s
    else
      let s1 := agentWrite s (qcb s q 0 4 / 4096) (ofBytes ((x.bytes.drop 16).take 8)) ((x.bytes.drop 24).take 8)
      let s2 := dropCommand s1 q x 0
      .next (if signalVector x.bytes = 0 then s2 else raiseMsix s2 (signalVector x.bytes))

/-- R461: WAIT: later commands of the queue are held back. -/
def execWait (q : Nat) (s : State) : Out :=
  match commandOf s q 4 with
  | none => .next s
  | some c => .next (keepCommand s q c none)

/-- R461: the awaited value has come. -/
def execWaitSatisfied (q : Nat) (s : State) : Out :=
  match keptOf s q 4 with
  | none => .next s
  | some x =>
    let at_ := ofBytes ((x.bytes.drop 16).take 8)
    match vaNat s (qcb s q 0 4 / 4096) at_ 8 with
    | none => .next s
    | some v => if ofBytes ((x.bytes.drop 24).take 8) ≤ v then .next (dropCommand s q x 0) else .next s

/-! ### WEIGHTS, SLOTLOAD and REPLICA -/

/-- R233, R468: whether a launch runs on one of these dies: a block of it has been placed and it has not completed. -/
def diesBusy (s : State) (dies : Nat) : Bool :=
  s.launches.any fun l => decide (0 < l.2.next) && (l.2.r.dies &&& dies) != 0

/-- A field of a kept command. -/
def Command.f (x : Command) (o n : Nat) : Nat := ofBytes ((x.bytes.drop o).take n)

/-- R345, R468: write the weight store of the dies of a mask. -/
def writeWeights (s : State) (x : Command) (bs : List Byte) : State :=
  applyAll s ((List.range 4).filter fun d => bit (x.f 40 1) d) fun s d => physWrite s (weightBase d + x.f 24 8) bs

/-- R345, R468: WEIGHTS: it is taken, and acts once no launch runs on its dies. -/
def execWeights (q : Nat) (s : State) : Out :=
  match keptOf s q 5 with
  | some x =>
    if diesBusy s (x.f 40 1) then .next s
    else match vaRead s (qcb s q 0 4 / 4096) (x.f 16 8) (x.f 32 8) with
      | none => .next (dropCommand s q x 0x0105)
      | some bs => .next (dropCommand (writeWeights s x bs) q x 0)
  | none =>
    match commandOf s q 5 with
    | none => .next s
    | some c =>
      if 0x20000000 < c.f 24 8 + c.f 32 8 ∨ 15 < c.f 40 1 then .next (finishCommand s q c 0x0105 0)
      else .next (keepCommand s q c none)

/-- R468: the bytes of a signed package at an address. -/
def packageAt (s : State) (pasid va : Nat) : Option (List Byte) :=
  (vaRead s pasid va 64).bind fun front => vaRead s pasid va (Config.packageLength front)

/-- R233: the slot that a package describes, if its header is well formed. A header that takes f64 names a class, E or T. -/
def slotOf (bs : List Byte) : Option FSlot :=
  (Config.slotHeader bs).bind fun h =>
    let tys := h.2.1.map tyOfCode
    if 1 ≤ h.1 ∧ h.1 ≤ 3 ∧ tys.all [Ty.f32, .f16, .bf16, .f64].contains ∧ (tys.contains .f64 → h.2.2.1 ≠ 0) ∧ h.2.2.1 ≤ 2 ∧ h.2.2.2 ≤ 13000 then
      some { arity := h.1, tys := tys, cls := h.2.2.1, worst := h.2.2.2, bytes := bs }
    else none

/-- R233, R468: SLOTLOAD: it is taken, and acts once no launch runs. -/
def execSlotload (q : Nat) (s : State) : Out :=
  match keptOf s q 6 with
  | some x =>
    if diesBusy s 15 then .next s
    else match packageAt s (qcb s q 0 4 / 4096) (x.f 16 8) with
      | none => .next (dropCommand s q x 0x0106)
      | some bs =>
        match Config.falconVerifies bs, slotOf bs with
        | true, some f =>
          .next (dropCommand { s with front := { s.front with slots := tset s.front.slots (x.f 24 1) f } } q x 0)
        | _, _ => .next (dropCommand s q x 0x0106)
  | none =>
    match commandOf s q 6 with
    | none => .next s
    | some c =>
      if c.f 24 1 < 24 ∨ 63 < c.f 24 1 then .next (finishCommand s q c 0x0105 0)
      else .next (keepCommand s q c none)

/-- R425: a REPLICA command with this action, or with one that does not exist. -/
def replicaCommand (s : State) (q action : Nat) (act : State → Nat → Launch → State) : State :=
  match commandOf s q 8 with
  | none => s
  | some c =>
    let l := c.f 16 4
    if c.f 20 1 ≠ 1 ∧ c.f 20 1 ≠ 2 then finishCommand s q c 0x0105 0
    else if c.f 20 1 ≠ action then s
    else match tget s.launches l with
    | none => finishCommand s q c 0x0105 0
    | some x => if x.replicaHeld then act (finishCommand s q c 0 0) l x else finishCommand s q c 0x0105 0

/-- R425: a held replica is released. -/
def execReplicaRelease (q : Nat) (s : State) : Out :=
  .next (replicaCommand s q 1 fun s l x => writeCompletion (releaseStep s l) x.r.pasid x.r.compl 0x0001 l)

/-- R425: the frames and state of a placed block are left in its images (log 117). -/
def leaveImages (s : State) (b : Nat) (k : Block) : State :=
  if k.h.halt = .preempted ∨ k.h.halt = .swapped then (if k.h.halt = .preempted then saveBlock s b else s)
  else saveBlock (writeFrames s b (liveGroups k) false none) b

/-- R425: a held replica ends; its frames and state stay in its images. -/
def execReplicaEnd (q : Nat) (s : State) : Out :=
  .next (replicaCommand s q 2 fun s l _ =>
    endLaunch (applyAll s ((placedOf s l).filter fun x => !x.2.h.held) fun s x => leaveImages s x.1 x.2) l 0x0303)

/-- R229, R462: the host ends a launch. -/
def execHostEndsLaunch (l : Nat) (s : State) : Out := .next (endLaunch s l 0x0302)

end Sys2Proof.Machine
end

