-- ==== Sys2Proof/Machine/Boot.lean ====
section
/-!
DEFINITION. Firmware (R466, R467), attestation (R469) and bring-up (R12, R473).
-/
namespace Sys2Proof.Machine

/-! ### Firmware -/

/-- R456, R473: the fields of FE_STATUS. -/
def feStatus (r : FrontRegs) : BitVec 4 × Bool × Bool × Bool × Bool := (r.stage, r.fwrecov, r.fault, r.fail, r.ready)

/-- R456: change front-end registers: vector 2 when FE_STATUS changes. -/
def modStatus (s : State) (f : FrontRegs → FrontRegs) : State :=
  let s1 := modFront s f
  if feStatus s1.front.r = feStatus s.front.r then s1 else raiseMsix s1 2

/-- R467: the fused minimum. -/
def minSvn (s : State) : BitVec 16 := s.front.fused.getD (BitVec.ofNat 16 (Config.calibrated 4))

/-- R467: the image in the boot store, which runs. -/
def bootImage (s : State) : List Byte := s.front.image.getD Config.firmwareImage

/-- R467: change FE_FWSTAT.STATE: vector 4. -/
def setFwState (s : State) (n : Nat) : State := raiseMsix (modFront s fun r => { r with fwState := BitVec.ofNat 3 n }) 4

/-- R467: the bytes of the staged image. -/
def stagedImage (s : State) : List Byte :=
  let pa := s.front.r.fwStage.toNat / 4096 * 4096
  physRead s pa (Config.packageLength (physRead s pa 4096))

/-- R467, R473: whether FE_FWCTL is served. -/
def fwServed (s : State) : Bool := s.front.r.ready || s.front.r.fwrecov

/-- R467: FE_FWCTL.VERIFY. -/
def execFwVerify (s : State) : Out :=
  if !fwServed s || s.front.r.fwState = 1 || s.front.r.fwState = 4 then .next s
  else .next (setFwState s 1)

/-- R467: why an image is rejected; 0 if it is not. DESIGN CHOICE (log 132): the format is checked first, then the signature, then the
security version. -/
def imageReason (s : State) (image : List Byte) : Nat :=
  match Config.imageVersion image with
  | none => 3
  | some v => if !Config.falconVerifies image then 1 else if v < (minSvn s).toNat then 2 else 0

/-- R466, R467: verification, which the pair does, ends. -/
def execFwVerifyComplete (s : State) : Out :=
  if s.front.r.fwState ≠ 1 || s.front.pairDown then .next s
  else
    let why := imageReason s (stagedImage s)
    .next (setFwState (modFront s fun r => { r with fwReason := BitVec.ofNat 8 why }) (if why = 0 then 2 else 3))

/-- R467: FE_FWCTL.COMMIT: after a successful verification, admissions stop. -/
def execFwCommit (s : State) : Out :=
  if !fwServed s || s.front.r.fwState ≠ 2 then .next s else .next (setFwState s 4)

/-- R467: the running launches have completed: the image is installed and the pair restarts on it, or the recovery loader
runs. -/
def execFwCommitRestart (ok : Bool) (s : State) : Out :=
  if s.front.r.fwState ≠ 4 || !s.launches.isEmpty then .next s
  else
    let image := stagedImage s
    let v := BitVec.ofNat 16 ((Config.imageVersion image).getD 0)
    let s1 := setFwState s 0
    if ok then
      let s2 := modStatus s1 fun r => { r with svn := v, fwrecov := false, fault := true }
      .next { s2 with front := { s2.front with pairDown := true, image := some image, fused := some v } }
    else .next (modStatus s1 fun r => { r with fwrecov := true })

/-- R466: PAIR_MISMATCH: the pair stops and restarts; running blocks go on. The commands at the heads of the queues may have been
read and are decided again, within bounds that count from now. -/
def execPairMismatch (s : State) : Out :=
  let s1 := modStatus s fun r => { r with fault := true }
  .next { s1 with front := { s1.front with
    pairDown := true
    queues := s1.front.queues.map fun q => (q.1, if (headCommand s q.1).isSome ∧ q.2.readAt = none then { q.2 with readAt := some s.time } else q.2) } }

/-- R466: the pair has restarted: queue state is rebuilt from the QCBs and admissions go on. -/
def execPairRestartComplete (s : State) : Out :=
  if !s.front.pairDown then .next s
  else
    let s1 := modStatus s fun r => { r with fault := false }
    let s2 := { s1 with front := { s1.front with pairDown := false } }
    .next (applyAll s2 (s2.front.queues.map (·.1)) fun s q =>
      applyTail s q (BitVec.ofNat 64 (qcb s q 24 8)) (0x20000 + 8 * q))

/-- R466: a worker is restarted and parses its item again; `workers` counts the restarts. -/
def execWorkerTimeout (w : Nat) (s : State) : Out :=
  .next { s with front := { s.front with workers := s.front.workers.modify w (· + 1) } }

/-! ### Attestation (R469) -/

/-- R454: a write to FE_ATTREQ. -/
def execAttestationRequest (v : BitVec 64) (s : State) : Out :=
  served s (modFront s fun r => { r with attPa := BitVec.ofNat 40 (bits v.toNat 12 40), attDone := false, attBusy := true })

/-- R469: the digest of the 40 loaded slot packages: each counts by its own digest, an empty slot as 32 zero bytes. -/
def slotsDigest (s : State) : List Byte :=
  shake256 ((span 24 40).map fun k => match tget s.front.slots k with
    | some f => shake256 f.bytes
    | none => List.replicate 32 0).flatten

/-- R469: the body of a report. -/
def reportBody (s : State) (nonce : List Byte) : List Byte :=
  nonce ++ shake256 Config.bootRom ++ shake256 (bootImage s) ++ slotsDigest s ++ toBytes 4 s.front.r.svn.toNat
    ++ (Config.serialNumber ++ List.replicate 12 0).take 12

/-- R469: the report is written, DONE set and vector 3 raised. -/
def execAttestationReport (s : State) : Out :=
  if !s.front.r.attBusy || s.front.pairDown then .next s
  else
    let pa := 4096 * s.front.r.attPa.toNat
    let body := reportBody s (physRead s pa 32)
    let s1 := agentPhys s (pa + 64) (body ++ (Config.falconSign (shake256 body) ++ List.replicate 1280 0).take 1280)
    .next (raiseMsix (modFront s1 fun r => { r with attDone := true, attBusy := false }) 3)

/-! ### Bring-up -/

/-- R467, R473: POWER_GOOD: the state of reset, with what the boot store and the fuses keep. The counter of free choices goes on. -/
def execPowerGood (s : State) : Out :=
  .next { State.reset with tick := s.tick, front := { State.reset.front with image := s.front.image, fused := s.front.fused } }

/-- R473: whether a configuration request completes with Configuration Request Retry Status. -/
def configRetry (s : State) : Bool := decide (s.front.r.stage.toNat ≤ 2)

/-- R12, R473: a field that calibration loads; they are numbered. -/
def cal (w n : Nat) : BitVec w := BitVec.ofNat w (Config.calibrated n)

/-- R12, R438, R442: the calibrated fields of a die. -/
def calDie (d : Nat) (k : Die) : Die :=
  { k with
    reqFreq := 1800, freq := 1800
    reqVolt := cal 12 (100 * d + 100), volt := cal 12 (100 * d + 100)
    vfloor := (List.range 13).map fun i => cal 12 (100 * d + 110 + i)
    stepBase := cal 52 (100 * d + 130), swref := cal 48 (100 * d + 131) }

/-- R122, R152: stage 3 loads the fixed offset of every core, and reloads STIME by it without a step-log entry. -/
def loadOffsets (s : State) : State :=
  { s with cores := (List.range 768).map fun c =>
      let k := { coreOf s c with tofs := cal 32 (1000 + c) }
      (c, { k with loaded := true, fresh := true, frac := wrap 64 (64 * ((sref s : Int) + tofsInt k)) * 65536 }) }

/-- R12, R421, R433, R442, R467, R473: stage 7 loads the fields marked cal and reserves the firmware's areas. -/
def loadCal (s : State) : State :=
  { modClusters (modDies s calDie) fun i k => { k with curth := cal 24 (600 + i) } with
    front := { s.front with
      qcbBase := Config.calibrated 1
      l := { s.front.l with errBase := cal 52 2 }
      r := { s.front.r with svn := (s.front.image.map fun i => BitVec.ofNat 16 ((Config.imageVersion i).getD 0)).getD (cal 16 3) } } }

/-- R473: a byte that memory initialisation sets to 0, with valid ECC. -/
def initialised (pa : Nat) : Bool := physKind pa == .hbm || physKind pa == .lpddr || physKind pa == .weight

/-- R473: stage 6: memory and the weight store are set to 0. -/
def clearMemory (s : State) : State :=
  let m := flushLog s.mem
  { s with mem := { m with
    base := m.base.filter fun c => !initialised c.1
    poison := m.poison.filter fun g => !initialised (32 * g) } }

/-- R152, R473: what the work of a stage changes. -/
def stageWork (s : State) : State :=
  if s.front.r.stage = 3 then loadOffsets s
  else if s.front.r.stage = 6 then clearMemory s
  else if s.front.r.stage = 7 then loadCal s else s

/-- R473: BRINGUP_STAGE_COMPLETE. In stage 1 it is open whether the link or the image failed. -/
def execBringupStageComplete (ok : Bool) (s : State) : Out :=
  let r := s.front.r
  if r.ready || r.fail || r.fwrecov then .next s
  else if ok then
    .next (modStatus (stageWork s) fun r => { r with stage := r.stage + 1, ready := r.stage == 7 })
  else
    let c := choose s 2
    if r.stage = 1 ∧ c.1 = 1 then .next (modStatus c.2 fun r => { r with fwrecov := true })
    else .next (modStatus c.2 fun r => { r with fail := true })

end Sys2Proof.Machine
end

