-- ==== Sys2Proof/Machine/Engines.lean ====
section
/-!
DEFINITION. The bulk copy engine: `cpy`, `mdrain` and the events of transfers (R315, R316, R323, R334 to R343, R347,
R355, R490), and the faults of engine accesses (R303, R323).
-/
namespace Sys2Proof.Machine

/-! ### Tensor shape records (R335, R336) -/

/-- A field of a tensor shape record. -/
def tsrAt (t : List Byte) (o n : Nat) : Nat := ofBytes ((t.drop o).take n)

/-- R335: the type of a record. -/
def tsrTy (t : List Byte) : Ty := tyOfCode (tsrAt t 8 1 % 16)

/-- R335: extent, stride and box size of dimension `k`. -/
def tsrExt (t : List Byte) (k : Nat) : Nat := tsrAt t (16 + 4 * k) 4
/-- R335. Dimension 0 is dense. -/
def tsrStr (t : List Byte) (k : Nat) : Nat := if k = 0 then 0 else tsrAt t (32 + 8 * k) 8
/-- R335. -/
def tsrBox (t : List Byte) (k : Nat) : Nat := tsrAt t (72 + 2 * k) 2
/-- R335. -/
def tsrRank (t : List Byte) : Nat := tsrAt t 9 1

/-- R336: whether the type has 4-bit elements. -/
def nibbleTy (t : Ty) : Bool := tyWidth t == 4

/-- R336: bytes of an element; 1 for 4-bit types. -/
def elemBytes (t : Ty) : Nat := max 1 (tyWidth t / 8)

/-- R336: TLIM of a record. `o0` is the dimension-0 origin of a `cpy`, which a drain does not check. -/
def tsrBad (t : List Byte) (o0 : Option Int) : Bool :=
  let r := tsrRank t
  tsrAt t 12 4 != 0 || tsrAt t 36 4 != 0 || tsrAt t 82 14 != 0 || tsrAt t 8 1 / 16 != 0 || tsrFlags t / 16 != 0
    || decide (r < 1) || decide (5 < r)
    || (List.range 5).any (fun k => tsrExt t k == 0 || tsrBox t k == 0
        || (decide (r ≤ k) && (tsrExt t k != 1 || tsrBox t k != 1)))
    || (nibbleTy (tsrTy t) && (tsrBox t 0 % 2 != 0 || (match o0 with
        | some o => o % 2 != 0
        | none => false)) && o0.isSome)

/-- R336: MISA of a record. -/
def tsrMisa (t : List Byte) : Bool :=
  let e := elemBytes (tsrTy t)
  tsrBase t % e != 0 || (List.range 5).any fun k => decide (k < tsrRank t) && tsrStr t k % e != 0

/-! ### Boxes and units (R337, R338, R490) -/

/-- R315, R337: the box of a transfer; a drain's is 16 × 16. -/
def boxOf (drain : Bool) (t : List Byte) (k : Nat) : Nat :=
  if drain then (if k < 2 then 16 else 1) else tsrBox t k

/-- R337: the rows of a box. -/
def boxRows (drain : Bool) (t : List Byte) : Nat := ((List.range 4).map fun k => boxOf drain t (k + 1)).foldl (· * ·) 1

/-- R337: element c1 to c4 of row `r`, c1 fastest. -/
def rowIx (drain : Bool) (t : List Byte) (r k : Nat) : Nat :=
  let below := ((List.range (k - 1)).map fun j => boxOf drain t (j + 1)).foldl (· * ·) 1
  r / below % boxOf drain t k

/-- R490: the units that a row moves in: elements, or whole global bytes of a 4-bit type. -/
def rowUnits (drain : Bool) (t : List Byte) (o0 : Int) : Nat :=
  let n := boxOf drain t 0
  if nibbleTy (tsrTy t) then ((o0 + (n : Int) - 1) / 2 - o0 / 2 + 1).toNat else n

/-- R337, R490: the elements of unit `p` of a row: position c0 and global index x0; two for a byte of nibbles. -/
def unitElems (drain : Bool) (t : List Byte) (o0 : Int) (p : Nat) : List (Nat × Int) :=
  let n := boxOf drain t 0
  if nibbleTy (tsrTy t) then
    let x := 2 * (o0 / 2 + (p : Int))
    [x, x + 1].filterMap fun x =>
      if o0 ≤ x ∧ x < o0 + (n : Int) then some ((x - o0).toNat, x) else none
  else [(p, o0 + (p : Int))]

/-- R337: the index of row `r` in dimension `k` (1 to 4). -/
def rowIndex (x : Xfer) (r k : Nat) : Int := x.org.getD k 0 + (rowIx x.drain x.tsr r k : Int)

/-- R337: whether an index of dimension `k` lies in the extent. -/
def inExt (t : List Byte) (k : Nat) (i : Int) : Bool := decide (0 ≤ i) && decide (i < (tsrExt t k : Int))

/-- R337: whether a row lies in extents 1 to 4. -/
def rowIn (x : Xfer) (r : Nat) : Bool := (List.range 4).all fun k => inExt x.tsr (k + 1) (rowIndex x r (k + 1))

/-- R337: the address of the byte that element `x0` of row `r` begins in. -/
def elemAddr (x : Xfer) (r : Nat) (x0 : Int) : Nat :=
  let e := elemBytes (tsrTy x.tsr)
  let d0 : Int := if nibbleTy (tsrTy x.tsr) then x0 / 2 else x0 * (e : Int)
  wrap 64 ((tsrBase x.tsr : Int) + d0
    + ((List.range 4).map fun k => rowIndex x r (k + 1) * (tsrStr x.tsr (k + 1) : Int)).sum)

/-- The units of a transfer. -/
def unitCount (x : Xfer) : Nat := boxRows x.drain x.tsr * rowUnits x.drain x.tsr (x.org.getD 0 0)

/-- Row and position of a unit. -/
def unitAt (x : Xfer) (u : Nat) : Nat × Nat :=
  let n := max 1 (rowUnits x.drain x.tsr (x.org.getD 0 0))
  (u / n, u % n)

/-- R338: the elements of a unit that lie in the extents: position, index. -/
def unitIn (x : Xfer) (u : Nat) : List (Nat × Int) :=
  let rp := unitAt x u
  if rowIn x rp.1 then (unitElems x.drain x.tsr (x.org.getD 0 0) rp.2).filter fun y => inExt x.tsr 0 y.2 else []

/-- R337: the global bytes of a unit, if any element of it lies in the extents. -/
def unitGlobal (x : Xfer) (u : Nat) : Option (Nat × Nat) :=
  match unitIn x u with
  | [] => none
  | y :: _ => some (elemAddr x (unitAt x u).1 y.2, elemBytes (tsrTy x.tsr))

/-- R262: the descriptor of a transfer. -/
def xferDesc (x : Xfer) : Desc := descOf (x.desc.1 + 2 ^ 32 * x.desc.2)

/-- R337: the bytes of a scratchpad row of a `cpy`. -/
def rowBytes (t : List Byte) : Nat := if nibbleTy (tsrTy t) then tsrBox t 0 / 2 else tsrBox t 0 * elemBytes (tsrTy t)

/-- R258, R337: the scratchpad bytes of a unit of a `cpy`. -/
def unitScratch (x : Xfer) (u : Nat) : List Nat :=
  let d := xferDesc x
  let rp := unitAt x u
  let e := elemBytes (tsrTy x.tsr)
  (List.range e).map fun o => rowAddr d.base d.rpitch d.rc (rowBytes x.tsr) rp.1 (rp.2 * e + o)

/-- The place of an element in `vals`. -/
def valIx (x : Xfer) (r c0 : Nat) : Nat := r * boxOf x.drain x.tsr 0 + c0

/-- R340: whether the transfer adds. -/
def xAtom (t : List Byte) : Bool := bit (tsrFlags t) 2
/-- R342: whether its global writes go to shadows. -/
def xPubl (t : List Byte) : Bool := bit (tsrFlags t) 3
/-- R338: ZF. -/
def xZf (t : List Byte) : Bool := bit (tsrFlags t) 1
/-- R338: CLIP. -/
def xClip (t : List Byte) : Bool := bit (tsrFlags t) 0

/-- R338: whether some element of the box is out of extent. -/
def anyOut (drain : Bool) (t : List Byte) (org : List Int) : Bool :=
  (List.range 5).any fun k =>
    decide (org.getD k 0 < 0) || decide ((tsrExt t k : Int) < org.getD k 0 + (boxOf drain t k : Int))

/-- R342: whether every global byte of a transfer lies in one buffer. -/
def inOneBuffer (l : LaunchRec) (x : Xfer) : Bool :=
  l.publish.any fun r => (List.range (unitCount x)).all fun u => match unitGlobal x u with
    | none => true
    | some g => inRange [r] g.1 g.2

/-- R33: the first element of a transfer that lies in no declared range. DEDUCED (log 35): each element for itself. -/
def ownedAll (l : LaunchRec) (x : Xfer) : Option Nat :=
  (List.range (unitCount x)).findSome? fun u => match unitGlobal x u with
    | none => none
    | some g => if inRange l.owns g.1 g.2 then none else some g.1

/-- R340: the types that an atomic transfer adds. -/
def atomTys : List Ty := [.f64, .f32, .f16, .bf16, .i32, .n32, .i64, .n64]

/-! ### cpy (R355) -/

/-- R355: the origin that five registers give. -/
def originOf (c : Ctx) (o : ExtOps) : List Int :=
  (span (bits (immU o) 0 8) 5).map fun r => signed 32 (c.rd r (c.lanes.headD 0))

/-- R336 to R342: the causes of a `cpy`'s record, descriptor and origin. -/
def cpyCauses (c : Ctx) (x : Xfer) (at_ : Nat) : List (Cause × Nat) :=
  let d := xferDesc x
  let t := x.tsr
  let out := anyOut false t x.org
  let g := x.dir == 1
  if tsrBad t (some (x.org.getD 0 0)) then [(.tlim, at_)]
  else
    (if tsrMisa t then [(Cause.misa, at_)] else [])
      ++ (descCauses c.b { d with tpitch := 0 } 0 (boxRows false t) (rowBytes t)).map (fun q => (q, d.base))
      ++ (if d.tpitch ≠ 0 then [(Cause.tlim, d.base)] else [])
      ++ (if out ∧ (if g then xZf t || !xClip t else !xZf t && !xClip t) then [(Cause.tlim, at_)] else [])
      ++ (if xAtom t ∧ (!g || xPubl t || !atomTys.contains (tsrTy t)) then [(Cause.tlim, at_)] else [])
      ++ (if g ∧ xPubl t ∧ !inOneBuffer c.l x then [(Cause.tlim, at_)] else [])
      ++ (if g ∧ c.l.det ∧ !xAtom t then match ownedAll c.l x with
            | some a => [(Cause.own, a)]
            | none => []
          else [])

/-- R263, R337: the causes of a descriptor pair that do not depend on a record. -/
def pairCauses (x : Xfer) : List (Cause × Nat) :=
  let d := xferDesc x
  (if d.rsv ≠ 0 ∨ d.tpitch ≠ 0 then [(Cause.tlim, d.base)] else [])
    ++ (if d.base % 16 ≠ 0 ∨ d.rpitch % 16 ≠ 0 then [(Cause.misa, d.base)] else [])

/-- R355: the transfer that a `cpy` describes. -/
def cpyXfer (c : Ctx) (o : ExtOps) (tsr : List Byte) : Xfer :=
  let v := c.rd2 o.b.r.toNat (c.lanes.headD 0)
  let rel := ordCode o == 2
  { id := c.s.nextId, b := c.bid, party := c.party, slices := BitVec.ofNat 8 (maskOf c.sl), lanes := maskOf c.lanes
    pc := c.pc, words := wordsOf c.instr, dir := bits (immU o) 12 2, scope := scopeOf o, rel := rel, tsr := tsr
    desc := (v % 2 ^ 32, v / 2 ^ 32), org := originOf c o, accepted := sref c.s
    after := if rel then (c.s.accesses.filter fun a => a.b == c.bid && a.party == c.party).map Access.id
               ++ (c.s.mem.log.filter fun w => w.who == whoOf c.bid c.party).map CWrite.id
             else [] }

/-- R263, R350: whether the operands of a `cpy` are uniform, its descriptor in every live lane. -/
def cpyUniform (c : Ctx) (o : ExtOps) : Bool :=
  oneValue c true o.a.r.toNat && oneLive c o.b.r.toNat && (span (bits (immU o) 0 8) 5).all (oneValue c false)

/-- R355: a transfer is accepted: range-scoreboard entry and descriptor queue. -/
def acceptXfer (s : State) (core : Nat) (x : Xfer) : State :=
  let d := xferDesc x
  let stop := d.stop 0 (boxRows false x.tsr) (rowBytes x.tsr)
  modCore (modBlock { s with nextId := s.nextId + 1 } x.b fun k => { k with x := { k.x with
    ranges := k.x.ranges ++ [{ out := x.dir == 1, lo := d.base, hi := stop - 1, owner := x.id }] } }) core
    fun q => { q with xfers := q.xfers ++ [x] }

/-- R355: `cpy`. -/
def cpyBody (o : ExtOps) (c : Ctx) : Res :=
    let at_ := c.rd2 o.a.r.toNat (c.lanes.headD 0)
    let eas := (pieces at_ 96).map (·.1)
    if c.lanes.isEmpty then .ok {}
    else if !cpyUniform c o then .causes (causeAll .nuni c.lanes)
    else
      let rd := ((pieces at_ 96).map fun p =>
        (globalCauses c { r := true, misa := false } 0 p.1 p.2).map fun q => (q.2.1, q.2.2)).flatten
      let cs0 := (if at_ % 32 ≠ 0 then [(Cause.misa, at_)] else []) ++ rd
      let segs := physPieces c at_ 96
      if eas.any (atsWaits c) || (rd.isEmpty && (!mayRead c.s (dieOfCore c.b.core) segs || lockedBytes c.s segs)) then .wait
      else if cs0 ≠ [] then
        let x := cpyXfer c o (engBytes c.s c.bid c.b segs)
        let cs := if rd.isEmpty then cpyCauses c x at_ else pairCauses x
        .causes ((cs0 ++ cs).map fun q => causeAll q.1 c.lanes q.2).flatten (noteLanes c eas)
      else
        let tsr := engBytes c.s c.bid c.b segs
        let x := cpyXfer c o tsr
        let cs := cpyCauses c x at_
        if cs ≠ [] then .causes (cs.map fun q => causeAll q.1 c.lanes q.2).flatten
        else if rangesFull c.b || decide (64 ≤ (coreOf c.s c.b.core).xfers.length)
            || (match c.sq with
                | some q => !q.busy.isEmpty
                | none => false) then .wait
        else .ok { post := fun s => acceptXfer (noteLanes c eas s) c.b.core x }

/-- R355: `cpy`. -/
def execCpy (o : ExtOps) (s : State) : Out := issue (.cpy o) (cpyBody o) s

/-! ### publish (R343, R356) -/

/-- R356: whether a transfer or drain of the block, on its core or on one that it has left, writes into a buffer with PUBL. -/
def publishWaits (c : Ctx) (buf : Nat × Nat) : Bool :=
  c.s.cores.any fun q => q.2.xfers.any fun x =>
    x.b == c.bid && x.dir == 1 && xPubl x.tsr && (List.range (unitCount x)).any fun u => match unitGlobal x u with
      | none => false
      | some g => overlap g.1 g.2 buf.1 buf.2

/-- R343, R356: `publish`. -/
def publishBody (o : ExtOps) (c : Ctx) : Res :=
    let va := c.globalEa o (c.lanes.headD 0)
    if c.lanes.isEmpty then .ok {}
    else if !uniform (c.lanes.map fun k => c.rd2 o.a.r.toNat k) then .causes (causeAll .nuni c.lanes)
    else match bufferOf c.l va with
      | none => .causes (causeAll .perm c.lanes va)
      | some buf =>
        if publishWaits c buf then .wait
        else
          let segs := ((pieces buf.1 buf.2).filterMap fun p => (devicePa c.s c.l.pasid p.1).map fun pa => (pa, p.2))
          .ok { post := fun s => pushAccesses s [{ gloAccess c 0 buf.1 buf.2 (.swap buf.1 buf.2) none with
            lanes := [], segs := segs, scope := scopeOf o }] }

/-- R343, R356: `publish`. -/
def execPublish (o : ExtOps) (s : State) : Out := issue (.publish o) (publishBody o) s

/-! ### mdrain (R315) -/

/-- R315: the registers of a drain: record address, row and column. -/
def drainAddr (c : Ctx) (o : ExtOps) : Nat × Int × Int :=
  let r := bits (immU o) 0 6
  (c.rd2 o.a.r.toNat 0, signed 32 (c.rd r 0), signed 32 (c.rd (r + 1) 0))

/-- R315: the transfer that a drain hands over, without its elements. -/
def drainXfer (b : Nat) (m : MatOp) : Xfer :=
  { id := m.id, b := b, party := mseqParty, pc := m.pc, words := wordsOf m.instr, dir := 1, tsr := m.tsr
    org := [m.col0, m.row0, 0, 0, 0], drain := true, sourceRead := true }

/-- R315, R336: the checks of a drain's record. -/
def drainBad (l : LaunchRec) (b : Nat) (m : MatOp) (o : ExtOps) : Option Cause :=
  let t := m.tsr
  let x := drainXfer b m
  if tsrBad t none || decide (tsrRank t < 2) || tsrAt t 8 1 % 16 != tyCode o.ty
      || (anyOut true t x.org && !xClip t)
      || (xAtom t && (!([Ty.f64, .f32, .f16, .bf16].contains o.ty) || o.rm != .rn || o.sat || xPubl t))
      || (xPubl t && !inOneBuffer l x) then some .tlim
  else if tsrMisa t then some .misa
  else none

/-- R315, R336, R404: what a drain's record and its address come to: TLIM stands above MISA. -/
def drainCause (l : LaunchRec) (b : Nat) (m : MatOp) (o : ExtOps) : Option Cause :=
  match drainBad l b m o with
  | some .tlim => some .tlim
  | x => if m.addr % 32 ≠ 0 then some .misa else x

/-- R315: `mdrain`. Its record is read and checked at issue; a page that is not present, or that forbids the read, stops
the engine there (R303), unless the address is misaligned, which stands above it (R404). -/
def execMdrain (o : ExtOps) (s : State) : Out :=
  issue (.mdrain o) (fun c =>
    let a := drainAddr c o
    let m : MatOp := { newOp c with
      acc := o.d.toNat, addr := a.1, row0 := a.2.1, col0 := a.2.2, mode := c.mode o.rm, read := true }
    match engRead c.s c.b a.1 96 with
    | .ok segs =>
      let m1 := { m with tsr := engBytes c.s c.bid c.b segs }
      let cs := (drainCause c.l c.bid m1 o).toList ++ if engPoison c.s c.b a.1 96 then [Cause.ecc] else []
      if cs ≠ [] then .causes (cs.map fun q => causeAll q [0] a.1).flatten
      else .ok { post := pushOp c m1 }
    | .ats _ => .ok { post := pushOp c { m with stalled := some 0 } }
    | _ =>
      if a.1 % 32 ≠ 0 then .causes (causeAll .misa [0] a.1)
      else .ok { post := pushOp c { m with stalled := some 0 } }) s

/-- R315: elements of an accumulator as a drain hands them over: values and flags. -/
def drainVals (s : State) (core b : Nat) (k : Block) (m : MatOp) (o : ExtOps) : List (Nat × Nat) :=
  (List.range 256).map fun e => XSum.value (elemSum s core b m.acc e (elemOf k m.acc e)) o.ty m.mode o.sat

/-- R315, R376: the exact sums that an adding drain hands over. -/
def drainExact (s : State) (core b : Nat) (k : Block) (m : MatOp) : List (Int × Bool × XFlags) :=
  (List.range 256).map fun e =>
    let x := elemSum s core b m.acc e (elemOf k m.acc e)
    (toStore x, x.nz, x.fl)

/-- R101: flags of the matrix stream reach every group that has not exited: the group, and its context image where the block is
not resident. -/
def matrixFlags (s : State) (b f : Nat) : State :=
  let s1 := modBlock s b fun k => { k with groups := k.groups.map fun g =>
    (g.1, if groupLive g.2 then { g.2 with flags := g.2.flags ||| BitVec.ofNat 6 f } else g.2) }
  match tget s.blocks b with
  | none => s1
  | some k => if imagesOnly k then applyAll s1 (liveGroups k) fun s g => imageFlags s k g f else s1

/-- R303: read a stalled drain's record once its page is present, and check it. -/
def drainReplay (s : State) (b : Nat) (k : Block) (m : MatOp) (o : ExtOps) : State :=
  match engRead s k m.addr 96 with
  | .ok segs =>
    let m1 := { m with tsr := engBytes s b k segs, stalled := none }
    if engPoison s k m.addr 96 then matRaise s b k m 1 .ecc m.addr else
    match drainCause (recOf s k) b m1 o with
    | some q => matRaise s b k m 0 q m.addr
    | none => modOp s b m.id fun _ => m1
  | _ => s

/-- R315, R316, R334: whether a drain can hand its tile over: its record is read, its accumulator is settled and in order, and the
queue has a place. -/
def drainReady (s : State) (b : Nat) (k : Block) (q : MatOp) : Bool :=
  (match q.instr with
    | .mdrain _ => true
    | _ => false)
    && !q.tsr.isEmpty && inOrder k q.id && !accBusy s k.core b q.acc && decide ((coreOf s k.core).xfers.length < 64)

/-- R29, R315, R316, R418: a drain reads its accumulator and hands its tile to the bulk copy engine, in its turn. -/
def execDrainHandover (b m : Nat) (s : State) : Out :=
  match tget s.blocks b with
  | none => .next s
  | some k =>
    match k.x.mops.find? fun q => q.id == m with
    | none => .next s
    | some q =>
      match q.instr with
      | .mdrain o =>
        if q.tsr.isEmpty then .next (if q.stalled.isNone ∨ q.stalled = some 0 then drainReplay s b k q o else s)
        else if (coreOf s k.core).drain ≠ some (b, m) || !drainReady s b k q then .next s
        else
          let l := recOf s k
          let atom := xAtom q.tsr
          let x := drainXfer b q
          match (if l.det ∧ !atom then ownedAll l x else none) with
          | some a => .next (matRaise s b k q 0 .own a)
          | none =>
            if accSpoiled s k.core b q.acc then .next (matRaise s b k q 1 .ecc 0) else
            let vs := drainVals s k.core b k q o
            let x1 := if atom then { x with exact := drainExact s k.core b k q, accepted := sref s }
              else { x with vals := vs.map (·.1), accepted := sref s }
            let s1 := modCore s k.core fun c => { c with xfers := c.xfers ++ [x1], drain := none }
            let s2 := if atom then s1 else matrixFlags s1 b (orFlags (vs.map (·.2)))
            let s3 := if bit (immU o) 6 then emptyAcc s2 k.core b q.acc else useAcc s2 k.core b k q.acc
            .next (tryComplete (dropOp s3 b m) b)
      | _ => .next s

/-! ### Transfers -/

/-- R334: the first transfer that has not started starts, while fewer than four are in service. -/
def execTransferStart (c : Nat) (s : State) : Out :=
  let xs := (coreOf s c).xfers
  match xs.find? fun x => !x.started with
  | none => .next s
  | some x =>
    if (xs.filter Xfer.started).length < 4 then .next (modXfer s c x.id fun y => { y with started := true }) else .next s

/-- R266, R355: whether a transfer may read its scratchpad source. -/
def sourceMay (s : State) (k : Block) (x : Xfer) : Bool :=
  let d := xferDesc x
  let n := d.stop 0 (boxRows false x.tsr) (rowBytes x.tsr) - d.base
  x.started && !x.sourceRead && x.dir == 1 && x.stalled.isNone && x.after.all (fun i => performedAt s i x.scope)
    && (List.range (boxRows false x.tsr)).all (fun r => pagesIn k (d.base + r * d.rpitch) (rowBytes x.tsr))
    && !k.x.ranges.any fun r => !r.out && decide (r.owner < x.id) && overlap d.base n r.lo (r.hi + 1 - r.lo)

/-- R337: the elements of a transfer's source. -/
def sourceVals (k : Block) (x : Xfer) : List Nat :=
  let d := xferDesc x
  let w := tyWidth (tsrTy x.tsr)
  ((List.range (boxRows false x.tsr)).map fun r =>
    let row := ofBytes ((List.range (rowBytes x.tsr)).map fun o =>
      rdCell k.scr (rowAddr d.base d.rpitch d.rc (rowBytes x.tsr) r o))
    (List.range (tsrBox x.tsr 0)).map fun c => bits row (w * c) w).flatten

/-- R266: the last source byte of a copy or `stt` is read, and its OUT entry retires. -/
def execSourceReadDone (b x : Nat) (s : State) : Out :=
  match tget s.blocks b with
  | none => .next s
  | some k =>
    match xferOf s k.core x with
    | none => .next (tileSourceRead s b x)
    | some y =>
      let d := xferDesc y
      let n := d.stop 0 (boxRows false y.tsr) (rowBytes y.tsr) - d.base
      if y.b ≠ b || !sourceMay s k y then .next s
      else if poisoned k.scrPoison d.base n then .next (xferRaise s k.core y .ecc d.base)
      else
        let s1 := modXfer s k.core x fun z => { z with sourceRead := true, vals := sourceVals k y }
        .next (modBlock s1 b fun k =>
          let k1 := touchPages k d.base n (cycleOf s k) false
          { k1 with x := { k1.x with ranges := k1.x.ranges.filter fun r => r.owner != x } })

/-- R342: what the copy of a chunk's front meets, before the first write to its shadow. -/
def frontHit (s : State) (k : Block) (va : Nat) : EngHit :=
  if ((chunkOf s k.launch va).map Chunk.dirty).getD false then .ok []
  else engRange s (recOf s k).pasid (va / 65536 * 65536) 65536 false false false false

/-- What the global side of a unit meets. -/
def unitHit (s : State) (k : Block) (x : Xfer) (u : Nat) : EngHit :=
  match unitGlobal x u with
  | none => .ok []
  | some g =>
    if x.dir = 2 then
      if g.1 + g.2 ≤ 0x20000000 then .ok [(weightBase (dieOfCore k.core) + g.1, g.2)] else .denied g.1 none
    else if x.dir = 1 ∧ xPubl x.tsr then
      match frontHit s k g.1 with
      | .ok _ => engRange s (recOf s k).pasid g.1 g.2 false true false false
      | e => e
    else engRange s (recOf s k).pasid g.1 g.2 (x.dir == 0 || xAtom x.tsr) (x.dir == 1) (!x.drain)
      (xAtom x.tsr && !tyInt (tsrTy x.tsr))

/-- The physical ranges of a unit; empty while it cannot be reached. -/
def unitSegs (s : State) (k : Block) (x : Xfer) (u : Nat) : List (Nat × Nat) :=
  match unitHit s k x u with
  | .ok segs => segs
  | _ => []

/-- R334: whether an earlier-accepted transfer of the engine still has to write these bytes. -/
def laterWins (s : State) (k : Block) (x : Xfer) (segs : List (Nat × Nat)) : Bool :=
  ((coreOf s k.core).xfers.takeWhile fun y => y.id != x.id).any fun y =>
    y.dir == 1 && (match tget s.blocks y.b with
      | none => false
      | some j => (List.range (unitCount y)).any fun u => !y.moved.contains u && segsMeet (unitSegs s j y u) segs)

/-- R258, R266, R302: whether a unit's scratchpad bytes may be written: no earlier entry, footprint, access or operand read
holds them. -/
def scratchFree (s : State) (k : Block) (x : Xfer) (u : Nat) : Bool :=
  (unitScratch x u).all fun a => pagesIn k a 1
    && !(k.x.ranges.any fun r => decide (r.owner < x.id) && overlap a 1 r.lo (r.hi + 1 - r.lo))
    && !earlierHolds s x.b k x.id a 1

/-- R340, R490: whether a unit's write reads its global bytes too: an integer addition, or a byte of 4-bit elements. -/
def unitReads (x : Xfer) : Bool := x.dir != 1 || (xAtom x.tsr && tyInt (tsrTy x.tsr)) || nibbleTy (tsrTy x.tsr)

/-- Whether a unit of a transfer may move now. -/
def unitMay (s : State) (k : Block) (x : Xfer) (u : Nat) : Bool :=
  let d := dieOfCore k.core
  !x.moved.contains u && (x.dir == 1 || x.after.all fun i => performedAt s i x.scope)
    && (match unitHit s k x u with
        | .ok segs =>
          !lockedBytes s segs
            && (!unitReads x || mayRead s d segs)
            && (if x.dir = 1 then !laterWins s k x segs && upToDate s.mem d (blankCells segs) && ((xAtom x.tsr && !tyInt (tsrTy x.tsr)) || targetsKnown s d segs) else scratchFree s k x u)
            && (x.dir != 2 || segs.all fun g => !inRefresh s d (bankGroup (g.1 - weightBase d)))
        | _ => false)

/-- R338, R490: the scratchpad byte of a unit after a read of its global bytes. -/
def mergeUnit (x : Xfer) (u : Nat) (old new : List Byte) : List Byte :=
  let ins := unitIn x u
  if nibbleTy (tsrTy x.tsr) then
    let o := ofBytes old
    let n := ofBytes new
    let part (h : Nat) : Nat :=
      if ins.any fun y => y.2 % 2 == (h : Int) then bits n (4 * h) 4
      else if xZf x.tsr then 0 else bits o (4 * h) 4
    toBytes 1 (part 0 + 16 * part 1)
  else if !ins.isEmpty then new
  else if xZf x.tsr then old.map fun _ => 0
  else old

/-- A unit of a read moves: global or weight store to scratchpad. -/
def moveIn (s : State) (k : Block) (x : Xfer) (u : Nat) (bs : List Byte) : State :=
  let at_ := unitScratch x u
  let old := at_.map (rdCell k.scr)
  let new := mergeUnit x u old bs
  modBlock s x.b fun k => (at_.zip new).foldl (fun k c => scrWrite k c.1 (cycleOf s k) [c.2]) k

/-- R342: the shadow of a chunk, made ready for a write: the first since its swap copies the front. -/
def dirtyChunk (s : State) (pasid launch va : Nat) : Chunk :=
  let base := va / 65536 * 65536
  match chunkOf s launch va with
  | some c => if c.dirty then c else { c with dirty := true, shadow := wrCells [] 0 ((vaRead s pasid base 65536).getD []) }
  | none => { launch := launch, va := base, shadow := wrCells [] 0 ((vaRead s pasid base 65536).getD []), dirty := true }

/-- R342: write a byte to its chunk's shadow. -/
def shadowByte (s : State) (pasid launch va : Nat) (v : Byte) : State :=
  let c := dirtyChunk s pasid launch va
  { s with chunks := { c with shadow := wrCell c.shadow (va % 65536) v }
      :: s.chunks.filter fun d => !(d.launch == launch && d.va == va / 65536 * 65536) }

/-- R341: a byte of a chunk's shadow. -/
def shadowRead (s : State) (pasid launch va : Nat) : Byte := rdCell (dirtyChunk s pasid launch va).shadow (va % 65536)

/-- R490: a unit's global bytes after a write of its elements in the extents. -/
def unitBytes (x : Xfer) (u : Nat) (old : List Byte) : List Byte :=
  let ty := tsrTy x.tsr
  let r := (unitAt x u).1
  let val (y : Nat × Int) : Nat := x.vals.getD (valIx x r y.1) 0
  match unitIn x u with
  | [] => old
  | y :: ys =>
    if nibbleTy ty then
      let o := ofBytes old
      let part (h : Nat) : Nat := match (y :: ys).find? fun z => z.2 % 2 == (h : Int) with
        | some z => val z % 16
        | none => bits o (4 * h) 4
      toBytes 1 (part 0 + 16 * part 1)
    else toBytes (elemBytes ty) (val y)

/-- R340, R376: the terms of an adding unit. -/
def unitTerm (x : Xfer) (u : Nat) : XSum :=
  let r := (unitAt x u).1
  match unitIn x u with
  | [] => {}
  | y :: _ =>
    if x.drain then
      let e := x.exact.getD (valIx x r y.1) (0, false, {})
      { s := e.1, e := -2176, nz := e.2.1, fl := e.2.2 }
    else ({} : XSum).add (decodeF (tsrTy x.tsr) (x.vals.getD (valIx x r y.1) 0))

/-- The write access that a transfer's unit makes. -/
def unitAccess (k : Block) (x : Xfer) (segs : List (Nat × Nat)) : Access :=
  { id := x.id, b := x.b, party := x.party, die := dieOfCore k.core, core := k.core, op := .read, len := 0, segs := segs
    launch := k.launch, scope := x.scope }

/-- R334, R360: a write of a transfer enters the views. It stands in the log under its transfer, not its party (R367). -/
def unitWrite (s : State) (k : Block) (x : Xfer) (segs : List (Nat × Nat)) (bs : List Byte) : State :=
  writeAs s (unitAccess k x segs) (whoXfer x.b x.party) bs

/-- R347: a request to another package. -/
def remoteSend (s : State) (q : RemoteReq) : State :=
  { s with front := { s.front with remote := s.front.remote ++ [q] } }

/-- R490: the nibbles of its global byte that a unit of 4-bit elements writes, as bits; 3 for other types. -/
def unitNibbles (x : Xfer) (u : Nat) : Nat :=
  if nibbleTy (tsrTy x.tsr) then maskOf ((unitIn x u).map fun y => (y.2 % 2).toNat) else 3

/-- The value of the first element of a unit in the extents. -/
def unitVal (x : Xfer) (u : Nat) : Nat := x.vals.getD (valIx x (unitAt x u).1 ((unitIn x u).headD (0, 0)).1) 0

/-- R347, R490: what a unit sends to another package: its bytes, the nibbles of them that it writes, or what it adds there. -/
def remoteWrite (x : Xfer) (u pa : Nat) : RemoteReq :=
  let ty := tsrTy x.tsr
  let t := unitTerm x u
  { write := true, pa := pa, data := unitBytes x u [0], nibbles := unitNibbles x u
    add := if !xAtom x.tsr then none
      else if tyInt ty then some (ty, unitVal x u, false, {}) else some (ty, toStore t, t.nz, t.fl) }

/-- A unit of a write moves: scratchpad, or a drain's tile, to global memory. -/
def moveOut (s : State) (k : Block) (x : Xfer) (u : Nat) (segs : List (Nat × Nat)) : State :=
  let l := recOf s k
  match unitGlobal x u, segs with
  | some g, p :: _ =>
    let ty := tsrTy x.tsr
    if physKind p.1 = .remote then remoteSend s (remoteWrite x u p.1)
    else if xAtom x.tsr then
      if tyInt ty then
        let sys := onSysatom s l.pasid g.1
        let a := { unitAccess k x segs with op := .redInt 0 ty (unitVal x u), sysatom := sys }
        let v := toBytes g.2 (atomicNew 0 ty (ofBytes (engBytes s x.b k segs)) (unitVal x u) 0)
        let s1 := writeAs s a (whoXfer x.b x.party) v
        if sys then s1 else holdLine s1 p.1
      else match overRt s k.launch l.rt [(p.1, g.2, g.1)] with
        | some a => xferRaise s k.core x .tlim a
        | none => holdLine (coreAdds s k.core k.launch p.1 ty (unitTerm x u)) p.1
    else if xPubl x.tsr then
      let old := (List.range g.2).map fun o => shadowRead s l.pasid k.launch (g.1 + o)
      applyAll s ((unitBytes x u old).mapIdx fun o v => (g.1 + o, v)) fun s c =>
        shadowByte s l.pasid k.launch c.1 c.2
    else unitWrite s k x segs (unitBytes x u (engBytes s x.b k segs))
  | _, _ => s

/-- R360: an element of a transfer moves; which of those that may is a free choice (R367). -/
def unitMoves (s : State) (core : Nat) (x : Xfer) (k : Block) : State :=
  let us := (List.range (unitCount x)).filter (unitMay s k x)
  if !x.started || x.stalled.isSome || (x.dir == 1 && !x.sourceRead) then s
  else match us with
    | [] => s
    | u0 :: _ =>
      let pk := choose s us.length
      let u := us.getD pk.1 u0
      let segs := unitSegs s k x u
      let s1 := modXfer pk.2 core x.id fun y => { y with moved := y.moved ++ [u] }
      if x.dir = 1 then moveOut s1 k x u segs
      else if segs.any fun g => poisoned s.mem.poison g.1 g.2 then xferRaise s1 core x .ecc ((segs.headD (0, 0)).1)
      else
        let rem := segs.any fun g => physKind g.1 == .remote
        let bs := if rem then
            (segs.map fun g => (List.range g.2).map fun o => Config.remoteByte s1.tick (g.1 + o)).flatten
          else engBytes s1 x.b k segs
        let s2 := if rem then
            { remoteSend s1 { write := false, pa := (segs.headD (0, 0)).1, data := [] } with tick := s1.tick + 1 }
          else s1
        moveIn s2 k x u bs

/-- R361: an access performs: one of a party, or an element of a transfer. -/
def execAccessPerforms (x : Nat) (s : State) : Out :=
  match s.cores.findSome? fun c => (c.2.xfers.find? fun y => y.id == x).map fun y => (c.1, y) with
  | none => .next (laneAccessPerforms x s)
  | some (core, y) =>
    match tget s.blocks y.b with
    | none => .next s
    | some k => .next (unitMoves s core y k)

/-- R339: a transfer whose units have all moved completes; its entry retires. -/
def execTransferComplete (c x : Nat) (s : State) : Out :=
  match xferOf s c x with
  | none => .next s
  | some y =>
    if y.started && (y.dir != 1 || y.sourceRead) && (List.range (unitCount y)).all y.moved.contains then
      let s1 := modCore s c fun k => { k with xfers := k.xfers.filter fun z => z.id != x }
      let s2 := modBlock s1 y.b fun k => { k with x := { k.x with ranges := k.x.ranges.filter fun r => r.owner != x } }
      .next (tryComplete s2 y.b)
    else .next s

/-! ### Faults of engine accesses (R303, R323) -/

/-- The first unit of a transfer that meets a fault, with what it meets. -/
def xferHit (s : State) (x : Xfer) : EngHit :=
  match tget s.blocks x.b with
  | none => .ok []
  | some k =>
    if !x.started || x.stalled.isSome || (x.dir == 1 && !x.sourceRead) then .ok []
    else (List.range (unitCount x)).foldl (fun h u =>
      match h with
      | .ok _ | .ats _ => if x.moved.contains u then h else unitHit s k x u
      | e => e) (.ok [])

/-- What a matrix instruction's access meets; the bytes it writes are `acst`'s. -/
def matHit (s : State) (b : Nat) (k : Block) (m : MatOp) : EngHit :=
  let p := (recOf s k).pasid
  match m.instr with
  | .mdrain _ => if m.tsr.isEmpty then engRead s k m.addr 96 else .ok []
  | .acld _ => if inOrder k m.id then match imageBytes s b k m.addr with
      | .error e => e
      | .ok _ => .ok []
    else .ok []
  | .acst _ => if inOrder k m.id && !accBusy s k.core b m.acc then
      engRange s p m.addr (imageLen k m.acc) false true false false else .ok []
  | .lutld _ => if inOrder k m.id then engRead s k m.addr 32 else .ok []
  | _ =>
    if m.read then .ok []
    else
      match (m.foot.map fun f => pagesOf f.1 f.2).flatten.find? fun q =>
          (match tget k.pages q with
            | some y => !y.resident && y.written
            | none => false)
          && (vaRead s p (backingVa (recOf s k) k.sblock + 4096 * q) 4096).isNone with
      | some q => .absent (backingVa (recOf s k) k.sblock + 4096 * q)
      | none => .ok []

/-- Whether an engine reference writes the bytes it faults on. -/
def hitWrites (m : MatOp) : Bool :=
  match m.instr with
  | .acst _ => true
  | _ => false

/-- R323, R458: a fault of a transfer: a host page that has failed ends it, any other page is requested. -/
def xferFault (s : State) (core : Nat) (x : Xfer) (va : Nat) : State :=
  match tget s.blocks x.b with
  | none => s
  | some k =>
    let p := (recOf s k).pasid
    if k.ended then xferRaise s core x .xlat va
    else if (atsLeaf s p va).isSome then forgetAts (xferRaise s core x .xlat va) p va
    else
      let r := postRequest (modXfer (noteBad s p va (location s core)) core x.id fun y => { y with stalled := some s.front.nextTag }) va p (x.dir == 1)
        (.xfer core x.id) false
      r.2

/-- R303, R458: the same for a matrix instruction. -/
def matFault (s : State) (b : Nat) (k : Block) (m : MatOp) (va : Nat) : State :=
  let p := (recOf s k).pasid
  if k.ended then matRaise s b k m 1 .xlat va
  else if (atsLeaf s p va).isSome then forgetAts (matRaise s b k m 1 .xlat va) p va
  else (postRequest (modOp (noteBad s p va (location s k.core)) b m.id fun o => { o with stalled := some s.front.nextTag }) va p (hitWrites m)
    (.mat b m.id) false).2

/-- R303, R323: an engine's access meets a page that is not present. -/
def execEngineTranslationFault (e : EngRef) (s : State) : Out :=
  match e with
  | .transfer c x => match xferOf s c x with
    | none => .next s
    | some y => match xferHit s y with
      | .absent va => .next (xferFault s c y va)
      | _ => .next s
  | .matrix b m => match tget s.blocks b with
    | none => .next s
    | some k => match k.x.mops.find? fun o => o.id == m && (o.stalled.isNone || o.stalled == some 0) with
      | none => .next s
      | some o => match matHit s b k o with
        | .absent va => .next (matFault s b k o va)
        | _ => .next s

/-- R322: log an access to an address that holds nothing. -/
def logNothing (s : State) (core : Nat) : Option Nat → State
  | none => s
  | some pa => logErr s 8 10 (location s core) pa 0

/-- R303, R323: an engine's access meets a page whose attributes forbid it. -/
def execEnginePermissionFault (e : EngRef) (s : State) : Out :=
  match e with
  | .transfer c x => match xferOf s c x with
    | none => .next s
    | some y => match xferHit s y with
      | .denied va pa => .next (xferRaise (logNothing s c pa) c y .perm va)
      | _ => .next s
  | .matrix b m => match tget s.blocks b with
    | none => .next s
    | some k => match k.x.mops.find? fun o => o.id == m && (o.stalled.isNone || o.stalled == some 0) with
      | none => .next s
      | some o => match matHit s b k o with
        | .denied va pa => .next (matRaise (logNothing s k.core pa) b k o 1 .perm va)
        | _ => .next s

end Sys2Proof.Machine
end

