-- ==== Sys2Proof/Machine/Ready.lean ====
section
/-!
DEFINITION. The issue conditions of single instructions (R125 item 6): what the entry of an instruction makes it wait for beyond
its operands, and how such a wait counts (R129, R445).
-/
namespace Sys2Proof.Machine

/-- Whether an instruction waits. -/
def Res.holds : Res → Bool
  | .wait => true
  | _ => false

/-- R125 item 6: the bodies of the instructions whose entries give them an issue condition of their own. -/
def ownBody : Instr → Option (Ctx → Res)
  | .exit g => some (exitBody g)
  | .tret => some tretBody
  | .brkpt => some brkptBody
  | .xrel o => some (xrelBody o)
  | .mfs o => some (mfsBody o)
  | .mts o => some (mtsBody o)
  | .parkw o => some (parkwBody o)
  | .fprog o => some (fprogBody o)
  | .fdot2 o => some (dotBody 2 o)
  | .fdot4 o => some (dotBody 4 o)
  | .gsum o | .gsumD o => some (groupBody false o)
  | .gsumsq o | .gsumsqD o => some (groupBody true o)
  | .fdiv o | .frcp o | .fsqrt o | .frsqrt o | .fexp o | .fexp2 o | .fexpm1 o | .flog o | .flog2 o | .flog1p o | .fsin o
  | .fcos o | .ftan o | .fsinpi o | .fcospi o | .fatan o | .fhypot o | .fpow o | .fdivD o | .frcpD o | .fsqrtD o
  | .frsqrtD o | .fexpD o | .fexp2D o | .fexpm1D o | .flogD o | .flog2D o | .flog1pD o | .fsinD o | .fcosD o | .ftanD o
  | .fsinpiD o | .fcospiD o | .fatanD o => some (resolvedBody o)
  | .ld o => some (ldBody o)
  | .st o => some (stBody o)
  | .ldacq o => some (ldacqBody o)
  | .strel o => some (strelBody o)
  | .cflush o => some (cflushBody o)
  | .xprobe o => some (xprobeBody o)
  | .atomOp o => some (atomOpBody o)
  | .atomXchg o => some (atomXchgBody o)
  | .atomCas o => some (atomCasBody o)
  | .redInt o => some (redIntBody o)
  | .redFloat o => some (redFloatBody o)
  | .redget o => some (redgetBody o)
  | .ldt o => some (tileBody true o)
  | .stt o => some (tileBody false o)
  | .publish o => some (publishBody o)
  | .cpy o => some (cpyBody o)
  | .fence o => some (fenceBody o)
  | .bar o => some fun c => barBody c o true
  | .barv o => some fun c => barBody c o false
  | .sbar o => some (sbarBody o)
  | .mbarv o => some (mbarvBody o)
  | .join o => some (joinBody o)
  | .qpush o => some (qpushBody o)
  | .qpop o => some (qpopBody o)
  | .qtry o => some (qtryBody o)
  | .mmaSp o => some (mmaSpBody false o)
  | .mmazSp o => some (mmaSpBody true o)
  | .mmaReg o => some (mmaRegBody false o)
  | .mmazReg o => some (mmaRegBody true o)
  | .lutsw o => some (lutswBody o)
  | _ => none

/-- R125 item 6: whether an instruction's own issue condition holds it back. -/
def ownHolds (c : Ctx) : Bool :=
  match ownBody c.instr with
  | some f => (f c).holds
  | none => false

/-- Whether an instruction is `xprobe`. -/
def isXprobe : Instr → Bool
  | .xprobe _ => true
  | _ => false

/-- R447: whether an instruction waits for the translation of a host page: it would not wait had the host none. -/
def asksHost (c : Ctx) (pasid page : Nat) : Bool :=
  !isXprobe c.instr && c.l.pasid == pasid && gangFree c && dataReady c && ownHolds c
    && !ownHolds { c with s := { c.s with ats := ⟨pasid, page, 0, 0, 0, 0⟩ :: c.s.ats } }

/-- R323, R447: whether what an engine meets is a wait for a host page. -/
def EngHit.asks (s : State) (pasid page : Nat) : EngHit → Bool
  | .ats va => (atsLeaf s pasid va).map (· / 4096) == some page
  | _ => false

/-- R458, R359: whether something other than `xprobe` waits for the translation of a host page: an instruction, a fetch, a
transfer or a matrix instruction. -/
def hostAsked (s : State) (pasid page : Nat) : Bool :=
  s.blocks.any fun b => (recOf s b.2).pasid == pasid
    && (((parties b.1 b.2).any fun p =>
          ((nextInstr s b.2 p.2).bind fun i => ctxOf { s with focus := some p.1 } i).any fun c => asksHost c pasid page)
      || ((fetchMisses s b.1 b.2).any fun m => (atsLeaf s pasid m.2.2).map (· / 4096) == some page)
      || ((coreOf s b.2.core).xfers.any fun x => x.b == b.1 && (xferHit s x).asks s pasid page)
      || b.2.x.mops.any fun m => (matHit s b.1 b.2 m).asks s pasid page)

/-- R447, R458, R359: the host's completion of an ATS translation request for a virtual address: `ans` is the host page,
or none where the request fails: a page request goes to the host, unless an `xprobe` alone asked. -/
def execAtsTranslationCompletion (pasid va : Nat) (ans : Option Nat) (s : State) : Out :=
  match atsLeaf s pasid va with
  | none => .next s
  | some iova =>
    let page := iova / 4096
    if (atsFind s pasid iova).isSome || priPending s pasid page then .next s
    else match ans with
      | some h => .next { s with ats := ⟨pasid, page, 12, 0, 0x8000000000000 / 4096 + h % 2 ^ 39, 12⟩ :: s.ats }
      | none =>
        if hostAsked s pasid page then .next (postRequest s va pasid false (.ats pasid page) true).2
        else .next { s with ats := ⟨pasid, page, 1, 0, 0, 0⟩ :: s.ats }

/-- R61, R125: whether a party's next instruction could issue in this cycle, apart from the issue intervals: it is ready, or
its encoding is undefined. -/
def couldIssue (c : Ctx) : Bool :=
  gangFree c && ((genericCauses c).any (fun x => x.2.1 == .ill) || (dataReady c && !ownHolds c))

/-- R129, R370: whether a wait on an instruction's own condition counts as switch-waiting. A fence that finds no free token, an
access that waits for a translation and an instruction that waits for the debugger do not. -/
def ownSwitch (c : Ctx) : Bool :=
  match c.instr with
  | .exit _ | .xrel _ | .mfs _ | .mts _ | .parkw _ | .fprog _ | .publish _ | .bar _ | .barv _ | .sbar _ | .mbarv _ | .qpush _
  | .qpop _ | .tret => true
  | .ldt _ | .stt _ | .cpy _ => rangesFull c.b || decide (64 ≤ (coreOf c.s c.b.core).xfers.length)
  | i => match opInfo i with
    | some f => f.space == .ext && (f.op == 8 || f.op == 9 || f.op == 10)
    | none => false

/-- R445: the class of a wait on an instruction's own condition: 1 memory, 2 synchronisation, 3 resolution, 4 anything else. A queue
instruction whose slot waits for a page or for accesses of its group waits on memory. -/
def ownClass (c : Ctx) : Nat :=
  match c.instr with
  | .exit _ | .xrel _ | .mfs _ | .mts _ | .parkw _ | .tret => 3
  | .bar _ | .barv _ | .sbar _ | .mbarv _ => 2
  | .qpush _ | .qpop _ | .qtry _ | .ld _ | .st _ | .ldacq _ | .strel _ | .cflush _ | .xprobe _ | .atomOp _ | .atomXchg _ | .atomCas _
  | .redInt _ | .redFloat _ | .redget _ | .ldt _ | .stt _ | .cpy _ | .publish _ => 1
  | _ => 4

/-- R218 to R221: the instructions that write park records. -/
def usesRecords (i : Instr) : Bool :=
  match i with
  | .fdot2 _ | .fdot4 _ | .gsum _ | .gsumD _ | .gsumsq _ | .gsumsqD _ => true
  | i => match opInfo i with
    | some f => f.space == .ext && (f.op == 8 || f.op == 9 || (f.op == 10 && f.sub == 2))
    | none => false

/-- The instructions that wait for the long instructions of their group. -/
def awaitsLongs (i : Instr) : Bool :=
  match i with
  | .exit _ | .xrel _ | .parkw _ => true
  | i => readsFlags i

end Sys2Proof.Machine
end

