-- ==== Sys2Proof/Machine/Cycles.lean ====
section
/-!
DEFINITION. The passing of cycles: a core cycle with the choice of what issues (R114 to R129, R213, R252, R443 to R445),
a fabric cycle with the matrix sequencers (R29, R118, R121, R284, R325, R431), and the issue of words that encode no
instruction (R61).
-/
namespace Sys2Proof.Machine

/-! ### The length of a cycle -/

/-- R114: the period of a class in eighths of T0. -/
def paceEighths : Pace → Nat
  | .p0 => 8 | .p1 => 11 | .p2 => 14 | .p3 => 18

/-- R114: the number of a class. -/
def paceNo : Pace → Nat
  | .p0 => 0 | .p1 => 1 | .p2 => 2 | .p3 => 3

/-- R116: the slower of two classes. -/
def slower (p q : Pace) : Pace := if paceNo p < paceNo q then q else p

/-- R116, R443: the class that the present cycle of a core takes its length from. -/
def cyclePace (k : Core) (limited : Bool) : Pace :=
  if limited || decide (0 < k.stretch) then .p3 else k.resident.foldl (fun p x => slower p x.2.1) .p0

/-- R120: the length of a cycle in 2^-22 ns: the class's multiple of T0, off by at most 0.1 % by its calibration. -/
def cycleLength (core freq : Nat) (p : Pace) : Nat :=
  64 * 65536 * 1000 * paceEighths p * (999000 + min (Config.periodError core (paceNo p) freq) 2000) / (8 * freq * 1000000)

/-- R114, R116: the true length of a cycle in 2^-22 ns. -/
def trueLength (freq : Nat) (p : Pace) : Nat := 64 * 65536 * 1000 * paceEighths p / (8 * freq)

/-- The reference time in 2^-22 ns. -/
def nowFine (s : State) : Nat := s.time * (64 * 65536) / 13

/-- R116, R120: whether the present cycle of a core has lasted its length. A core whose clock is stopped has none. -/
def cycleOver (s : State) (core : Nat) : Bool :=
  let k := coreOf s core
  let len := if k.begun then
      trueLength (dieOf s (dieOfCore core)).freq.toNat (cyclePace k (clusterOf s (clusterOfCore core)).limited)
    else 0
  !k.stopped && decide (k.start + len ≤ nowFine s)

/-- R117: whether a team has an issue opportunity in the cycle that begins. -/
def stepsNow (t : Team) : Bool := t.island == .full || !t.half

/-- R117, R119, R120, R443, R444: the cycle in progress ends and the next begins. -/
def nextCycle (k : Core) (core freq now : Nat) (limited : Bool) : Core :=
  let p := cyclePace k limited
  let stretched := limited || decide (0 < k.stretch)
  { k with
    scyc := if k.begun then (k.scyc + 1) % 2 ^ 64 else k.scyc
    begun := true
    loaded := true
    fresh := false
    frac :=
      if !k.loaded then 64 * now * 65536
      else if k.fresh || !k.begun then k.frac
      else (k.frac + cycleLength core freq p) % 2 ^ 80
    start := if k.begun then k.start + trueLength freq p else k.start
    stretch := if k.match_ then 16 else k.stretch - 1
    match_ := false
    drain := none
    ctr := if k.begun && stretched then { k.ctr with stretch := k.ctr.stretch + 1 } else k.ctr
    resident := k.resident.filterMap fun x =>
      let on := ((k.teams[x.1]?).map stepsNow).getD true
      if !on then some x else if x.2.2 ≤ 1 then none else some (x.1, x.2.1, x.2.2 - 1)
    teams := k.teams.map fun t =>
      if stepsNow t then
        { t with
          gap := t.gap - 1
          iv := (t.iv.map fun v => (v.1, v.2.1, v.2.2 - 1)).filter fun v => decide (0 < v.2.2) }
      else t }

/-- R134: the results of a group come one step nearer. -/
def nearer (g : Group) : Group :=
  { g with
    just := []
    busy := (g.busy.map fun b => (b.1, b.2 - 1)).filter fun b => decide (0 < b.2)
    longs := g.longs.map fun x => { x with left := x.left - 1 } }

/-- R117, R134: every group on a team that takes a step. -/
def stepGroups (s : State) (core : Nat) : State :=
  let ts := (coreOf s core).teams
  { s with blocks := s.blocks.map fun x =>
      if x.2.core = core ∧ x.2.placed then
        (x.1, { x.2 with groups := x.2.groups.map fun g =>
          if ((ts[teamOf x.2 g.1]?).map stepsNow).getD false then (g.1, nearer g.2) else g })
      else x }

/-! ### Starting a block (R252) -/

/-- R252: the blocks of a core that have not started, in the order of their placement. -/
def unstarted (s : State) (core : Nat) : List (Nat × Block) :=
  ((blocksOn s core).filter fun x => !x.2.started).mergeSort fun a b => decide (a.2.h.placedAt ≤ b.2.h.placedAt)

/-- R252: whether the first block that waits may take its reservation. -/
def startBlocks (s : State) (core : Nat) : State :=
  match unstarted s core with
  | [] => s
  | x :: _ =>
    let held := (((blocksOn s core).filter fun y => y.2.started).map fun y => reservation y.2).sum
    if held + reservation x.2 ≤ 112 then modBlock s x.1 fun k => pinRing { k with started := true } else s

/-! ### What is ready (R125) -/

/-- A gang as the scheduler sees it: who it is, its block, group and slices, its next instruction (none where the word
encodes none or the line is poisoned), its wait count and active lanes. -/
structure Cand where
  who : Issuer
  b : Nat
  g : Nat
  sl : List Nat
  instr : Option Instr
  waited : Nat
  lanes : Nat
  deriving DecidableEq, Repr

/-- The opcode's figures, those of the simplest instruction where there is none. -/
def Cand.info (c : Cand) : OpInfo :=
  (c.instr.bind opInfo).getD
    { space := .base, op := 0, sub := 0, pace := .p0, interval := 1, latency := 1, worst := 0, residence := 1, weight := 1 }

/-- A gang in a cycle: whether it is ready, whether it is switch-waiting (R129) and what it waits for (R445): 0 nothing, 1
memory, 2 synchronisation, 3 resolution, 4 anything else. -/
structure GangNow where
  c : Cand
  ready : Bool
  switch : Bool
  why : Nat
  deriving DecidableEq, Repr

/-- R213: the resolved operations: OP 0x08 and 0x09, and `fprog`. -/
def isResolved (f : OpInfo) : Bool := f.space == .ext && (f.op == 8 || f.op == 9 || (f.op == 10 && f.sub == 2))

/-- R125 item 4, R213: whether the team's last issues hold an opcode back. -/
def intervalHolds (t : Team) (f : OpInfo) : Bool :=
  (t.iv.any fun v => v.1 == opKey f && v.2.1 == f.sub) || (decide (0 < t.gap) && isResolved f)

/-- R129: whether an instruction waits for an operand, a pending lane, a window or a place in the scoreboard. -/
def waitsForData (c : Ctx) : Bool :=
  let u := c.use
  ((u.reads ++ u.writes ++ u.kills).any fun r => tcount c.g.busy r != 0 || tcount c.g.pend r != 0)
    || (c.g.longs.any fun x => !x.done && c.sl.any fun k => x.slices.getLsbD k && x.rem.getD k 0 == 0)
    || (isLong c.instr && !boardOpen c.g)

/-- R445: the class of an instruction that data hold back. -/
def dataClass (c : Ctx) : Nat :=
  let u := c.use
  let mem := (c.g.longs.any fun x => !x.done && !x.acc.isEmpty && c.sl.any fun k => x.slices.getLsbD k && x.rem.getD k 0 == 0)
    || ((u.reads ++ u.writes ++ u.kills).any fun r => ((tget c.g.lines r).map fun l => !l.resident).getD false)
  let res := (c.g.longs.any fun x => !x.done && c.sl.any fun k => x.slices.getLsbD k && x.rem.getD k 0 == 0)
    || ((u.reads ++ u.writes).any fun r => tcount c.g.pend r != 0)
  if mem then 1 else if res then 3 else 4

/-- R125: the state of the gang of an issuer. -/
def gangNow (s : State) (t : Team) (b : Nat) (k : Block) (gi : Nat) (g : Group) (who : Issuer) (sl : List Nat) : GangNow :=
  let c0 : Cand := {
    who := who, b := b, g := gi, sl := sl, instr := none
    waited := ((g.slices[sl.headD 0]?).map Slice.waited).getD 0
    lanes := (sl.map fun j => (actLanes g j).length).sum }
  let known := match fetchAt (coreOf s k.core) (recOf s k).pasid (slicePc g (sl.headD 0)).toNat with
    | .missing _ => none
    | .poisoned => some none
    | .got ws => some (decodeBits (ofElems 32 ws)).toOption
  match known with
  | none => { c := c0, ready := false, switch := true, why := 4 }
  | some i =>
    match ctxOf { s with focus := some who } (i.getD (.nop none)) with
    | none => { c := c0, ready := false, switch := false, why := 4 }
    | some c =>
      let c1 := { c0 with instr := i, lanes := if i.isSome then c.lanes.length else c0.lanes }
      let free := if i.isSome then couldIssue c else gangFree c
      if free && roomFor s k.core (teamOf k gi) (rowsFor g c.use.writes) then
        if i.isSome && intervalHolds t c1.info then { c := c1, ready := false, switch := false, why := 4 }
        else { c := c1, ready := true, switch := false, why := 0 }
      else if dataReady c && free then { c := c1, ready := false, switch := false, why := 1 }
      else if dataReady c then { c := c1, ready := false, switch := ownSwitch c, why := ownClass c }
      else { c := c1, ready := false, switch := waitsForData c, why := dataClass c }

/-- R125: the gangs of a physical team that wait for no event. -/
def teamGangs (s : State) (core team : Nat) : List GangNow :=
  let t := (coreOf s core).teams.getD team {}
  ((blocksOn s core).map fun x =>
    (parties x.1 x.2).filterMap fun p => match p.1 with
      | .group _ gi m =>
        if teamOf x.2 gi = team then (tget x.2.groups gi).map fun g => gangNow s t x.1 x.2 gi g p.1 (setBits 8 m.toNat)
        else none
      | _ => none).flatten

/-- R129, R445: the class of a wait for an event: 1 memory, 2 synchronisation, 4 anything else. -/
def waitClass (w : Wait) : Nat :=
  match w with
  | .none => 0
  | .swap _ => 1
  | .fork | .join => 4
  | _ => 2

/-- R129, R445: the waits for events of the groups of a team: block, group and class. -/
def teamWaits (s : State) (core team : Nat) : List (Nat × Nat × Nat) :=
  ((blocksOn s core).map fun x =>
    (x.2.groups.map fun g =>
      if teamOf x.2 g.1 = team then
        (g.2.slices.filter fun y => y.wait != .none && y.act != 0).map fun y => (x.1, g.1, waitClass y.wait)
      else []).flatten).flatten

/-! ### The scheduler (R126, R127, R129) -/

/-- R126: a step narrows the candidates only where one survives it. -/
def narrow (p : Cand → Bool) (cs : List Cand) : List Cand := if cs.any p then cs.filter p else cs

/-- R126: step 0. -/
def ageOverride (cs : List Cand) : List Cand := narrow (fun c => decide (64 ≤ c.waited)) cs

/-- R126: step 1. -/
def classBatch (prev : Pace) (cs : List Cand) : List Cand :=
  if (cs.any fun c => c.info.pace != prev && decide (16 ≤ c.waited)) then cs else narrow (fun c => c.info.pace == prev) cs

/-- R126: the charge of a candidate's issue. -/
def Cand.charge (c : Cand) : Nat := c.info.weight * c.lanes

/-- R126: step 2. -/
def currentStep (hot : Bool) (cs : List Cand) : List Cand :=
  if hot then cs.filter fun c => cs.all fun d => decide (c.charge ≤ d.charge) else cs

/-- R126: step 3. -/
def ageStep (cs : List Cand) : List Cand := cs.filter fun c => cs.all fun d => decide (d.waited ≤ c.waited)

/-- R126: step 4. -/
def slotStep (cs : List Cand) : Option Cand :=
  cs.find? fun c => cs.all fun d => decide (c.g < d.g) || (c.g == d.g && decide (c.sl.headD 0 ≤ d.sl.headD 0))

/-- R126: the pick. -/
def pickFirst (prev : Pace) (hot : Bool) (cs : List Cand) : Option Cand :=
  slotStep (ageStep (currentStep hot (classBatch prev (ageOverride cs))))

/-- R127: the instructions that never issue beside another. -/
def issuesAlone (i : Instr) : Bool :=
  match i with
  | .trap .. | .tret | .brkpt | .fork .. | .join .. | .mbarv .. | .mbarw .. => true
  | i => match opInfo i with
    | some f => f.space == .ext && [0x01, 0x0B, 0x0C, 0x0E, 0x0F].contains f.op
    | none => true

/-- R127: whether the issue of one of two gangs of a block would hold the other back in the same cycle: both write park records, or, in
one group, both take the last place of the scoreboard, or one waits for the group's long instructions while the other is one. They
are taken one after the other (log 114). -/
def pairConflict (s : State) (a b : Cand) : Bool :=
  match a.instr, b.instr, (tget s.blocks a.b).bind fun k => tget k.groups a.g with
  | some i, some j, some g =>
    a.b == b.b && (usesRecords i && usesRecords j
      || a.g == b.g && (isLong i && isLong j && !boardOpen { g with longs := ({ id := 0, reg := 0, nregs := 0 } : LongX) :: g.longs }
        || isLong i && awaitsLongs j || isLong j && awaitsLongs i))
  | _, _, _ => false

/-- R127: whether two gangs may issue in one cycle. -/
def mayPair (s : State) (a b : Cand) : Bool :=
  !pairConflict s a b &&
  match a.instr, b.instr with
  | some i, some j =>
    a.info.pace == b.info.pace && a.sl.all (fun k => !b.sl.contains k) && !issuesAlone i && !issuesAlone j
      && (!(opKey a.info == opKey b.info && a.info.sub == b.info.sub) || a.info.interval == 1)
      && !(isResolved a.info && isResolved b.info)
  | _, _ => false

/-- R126, R127: what a team of a free-mode or step-mode launch issues. -/
def pickFree (s : State) (prev : Pace) (hot : Bool) (cs : List Cand) : List Cand :=
  match pickFirst prev hot cs with
  | none => []
  | some a => a :: (slotStep (ageStep (currentStep hot (ageOverride (cs.filter (mayPair s a)))))).toList

/-- R127, R129: what a team issues from its running group. -/
def pickRunning (s : State) (cs : List Cand) : List Cand :=
  match slotStep cs with
  | none => []
  | some a => a :: (slotStep (cs.filter (mayPair s a))).toList

/-- R129: whether a group is no longer there to run on a core: it has finished, or its block has left its teams. -/
def leftTeam (s : State) (core : Nat) (r : Nat × Nat) : Bool :=
  match (blocksOn s core).find? fun x => x.1 == r.1 with
  | none => true
  | some x => x.2.h.halt == .preempted || ((tget x.2.groups r.2).map Group.finished).getD true

/-- R129: the running group for this opportunity. With none ready the team has none, and takes the lowest that becomes ready. A
running group that has left (`left`) gives way. -/
def runningGroup (t : Team) (left : Nat × Nat → Bool) (gs : List GangNow) (ws : List (Nat × Nat × Nat)) (ready : List Cand) :
    Option (Nat × Nat) :=
  let lowestOf (cs : List Cand) : Option (Nat × Nat) := (slotStep cs).map fun c => (c.b, c.g)
  let gone (c : Cand) : Bool := t.yielded.any fun y => y.1 == c.b && y.2.1 == c.g
  let fresh := match lowestOf (ready.filter fun c => !gone c) with
    | some r => some r
    | none => lowestOf ready
  match t.running with
  | none => fresh
  | some r =>
    let mine := gs.filter fun g => (g.c.b, g.c.g) == r
    let yields (c : Cand) : Bool := t.yielded.any fun y => y.1 == c.b && y.2.1 == c.g && c.sl.contains y.2.2
    let on := mine.any fun g => g.ready && !yields g.c
    let waits := (mine.any fun g => g.switch || yields g.c) || (ws.any fun w => (w.1, w.2.1) == r) || left r
    if on || !waits then some r else fresh

/-- R149: whether a gang has just yielded. -/
def hasYielded (t : Team) (c : Cand) : Bool :=
  t.yielded.any fun y => y.1 == c.b && y.2.1 == c.g && c.sl.contains y.2.2

/-- R118, R284: whether a sequencer can issue its next instruction: it is fetched, and the sequencer is ready for it. A word that
encodes nothing, or is poisoned, raises its cause. -/
def seqReady (s : State) (b : Nat) (k : Block) (who : Issuer) (pc : DWord) : Bool :=
  ((parties b k).any fun p => p.1 == who)
    && (match fetchAt (coreOf s k.core) (recOf s k).pasid pc.toNat with
      | .missing _ => false
      | _ => true)
    && (match ctxOf { s with focus := some who } ((nextInstr s k pc).getD (.nop none)) with
      | none => false
      | some c => if (nextInstr s k pc).isSome then couldIssue c else gangFree c)

/-- Whether an instruction hands a descriptor to the bulk copy engine. -/
def isCpy (i : Option Instr) : Bool :=
  match i with
  | some (.cpy _) => true
  | _ => false

/-- R29: whether a candidate's descriptor, if it has one, has its turn. -/
def turnOk (turn : Option Issuer) (c : Cand) : Bool := !isCpy c.instr || turn == some c.who

/-- R125: the wait counts of a team's gangs after the pick. -/
def countWaits (gs : List GangNow) (picked : List Cand) (s : State) : State :=
  applyAll s gs fun s g =>
    let on := picked.contains g.c
    let count (j : Nat) (y : Slice) : Slice :=
      if g.c.sl.contains j then { y with waited := if g.ready && !on then y.waited + 1 else 0 } else y
    modGroup s g.c.b g.c.g fun x => { x with slices := x.slices.mapIdx count }

/-- R445: the class of an opportunity in which nothing issued: an index of the sample's counts. -/
def idleClass (gs : List GangNow) (ws : List (Nat × Nat × Nat)) : Nat :=
  let has (n : Nat) : Bool := (gs.any fun g => g.why == n) || ws.any fun w => w.2.2 == n
  if has 1 then 1 else if has 2 then 2 else if has 3 then 3 else 4

/-- R163, R171: make room for the rows that the picked instructions take, beside those of the ones before; one that finds none does
not issue. -/
def takeRows (core team taken : Nat) : List Cand → State → List Cand × State
  | [], s => ([], s)
  | c :: cs, s =>
    let n := taken + match (tget s.blocks c.b).bind fun k => tget k.groups c.g, c.instr.bind (ctxOf { s with focus := some c.who }) with
      | some g, some x => rowsFor g x.use.writes
      | _, _ => 0
    if roomFor s core team n then
      let r := takeRows core team n cs (makeRoom core team n s)
      (c :: r.1, r.2)
    else takeRows core team taken cs s

/-- R165, R396: co-issued instructions in the order of their lowest slices. -/
def bySlice (cs : List Cand) : List Cand := cs.mergeSort fun a b => decide (a.sl.headD 0 ≤ b.sl.headD 0)

/-- R129: the deterministic-mode block that holds a team. -/
def detBlock (s : State) (core team : Nat) : Option (Nat × Block) :=
  (blocksOn s core).find? fun x => x.2.teams.contains team && x.2.h.halt != .preempted && (recOf s x.2).det

/-- What a team finds at an issue opportunity: its gangs and waits, its running group, and what it issues. -/
structure TeamPick where
  gs : List GangNow
  ws : List (Nat × Nat × Nat)
  run : Option (Nat × Nat)
  best : List Cand

/-- R125 to R129: the pick of a team, among the candidates that `allow` lets issue. While a handler runs, its group stands in for the
running group, which stays (log 115). -/
def teamPick (s : State) (core team : Nat) (allow : Cand → Bool) : TeamPick :=
  let t := (coreOf s core).teams.getD team {}
  let gs := teamGangs s core team
  let ws := teamWaits s core team
  let ready := (gs.filter GangNow.ready).map GangNow.c
  match detBlock s core team with
  | some x =>
    let run := runningGroup t (leftTeam s core) gs ws ready
    let on := if handlerRuns x.2 then x.2.h.handler.map fun h => (x.1, h) else run
    { gs := gs, ws := ws, run := if handlerRuns x.2 then t.running else run
      best := pickRunning s (ready.filter fun c => some (c.b, c.g) == on && allow c) }
  | none =>
    { gs := gs, ws := ws, run := none
      best := pickFree s t.prev (drawOver (clusterOf s (clusterOfCore core))) (ready.filter fun c => !hasYielded t c && allow c) }

/-- R29: the parties that ask the copy engine to accept a descriptor in this cycle, with their slots: the copy sequencer of each block,
then a drain of it (R316), then the groups whose teams would issue a `cpy`, the lowest team first. DEDUCED (log 73): which of several
parties of one slot comes first. A drain is named by its matrix sequencer. -/
def cpyAsks (s : State) (core : Nat) : List (Issuer × Nat × Option (Nat × Nat)) :=
  let seqs := (blocksOn s core).filterMap fun x =>
    if isCpy (nextInstr s x.2 x.2.cseq.pc) && seqReady s x.1 x.2 (.cseq x.1) x.2.cseq.pc then some (Issuer.cseq x.1, x.2.slot, none)
    else none
  let drains := (blocksOn s core).filterMap fun x =>
    (x.2.x.mops.find? fun q => drainReady s x.1 x.2 q).map fun q => (Issuer.mseq x.1, x.2.slot, some (x.1, q.id))
  let teams := (List.range 4).filter fun t => stepsNow ((coreOf s core).teams.getD t {})
  let gangs := teams.flatMap fun t =>
    ((teamPick s core t fun _ => true).best.filter fun c => isCpy c.instr).filterMap fun c =>
      (tget s.blocks c.b).map fun k => (c.who, k.slot, none)
  seqs ++ drains ++ gangs

/-- R29, R334: the one that has the copy engine's turn: round robin over the block slots, in the order of `cpyAsks` within a block. -/
def cpyTurn (s : State) (core : Nat) : Option (Issuer × Nat × Option (Nat × Nat)) :=
  let all := cpyAsks s core
  let rr := (coreOf s core).copyRR
  (span (rr + 1) 4).findSome? fun j => all.find? fun x => x.2.1 == j % 4

/-- R29, R316: the turn is taken: the slot is noted, and a drain that has it is due. -/
def takeTurn (core : Nat) (turn : Option (Issuer × Nat × Option (Nat × Nat))) (s : State) : State :=
  match turn with
  | none => s
  | some x =>
    let s1 := modCore s core fun k => { k with copyRR := x.2.1, drain := x.2.2 }
    match x.2.2 with
    | none => s1
    | some d => dueEvents s1 [.drainHandover d.1 d.2]

/-- R125 to R129, R445: an issue opportunity of a team. A `cpy` that has not the turn stays ready and waits: its wait count goes on
(log 73). -/
def teamStep (turn : Option Issuer) (core team : Nat) (s : State) : State :=
  let t := (coreOf s core).teams.getD team {}
  let p := teamPick s core team (turnOk turn)
  let det := (detBlock s core team).isSome
  let rows := takeRows core team 0 p.best s
  let picked := rows.1
  let s1 := countWaits (p.gs.map fun g => { g with ready := g.ready && (det || !hasYielded t g.c) }) picked rows.2
  let s2 := modTeam s1 core team fun t => { t with
    running := p.run
    yielded := []
    ctr := { t.ctr with
      sample :=
        let n := t.ctr.sample.modify 0 (· + 1)
        if picked.isEmpty then n.modify (idleClass p.gs p.ws) (· + 1) else n } }
  { s2 with issueQ := s2.issueQ ++ (bySlice picked).map Cand.who }

/-- R117, R444: every team of the core, at its own rate. -/
def teamCycle (turn : Option Issuer) (core : Nat) (s : State) (team : Nat) : State :=
  let t := (coreOf s core).teams.getD team {}
  let s1 := if stepsNow t then teamStep turn core team s else s
  if t.island = .full then s1
  else modTeam s1 core team fun t => { t with half := !t.half, ctr := { t.ctr with ntcyc := t.ctr.ntcyc + 1 } }

/-- R220: the place of a physical team in the order of issue: in deterministic mode its logical index. -/
def teamKey (s : State) (core t : Nat) : Nat :=
  match detBlock s core t with
  | some x => x.2.teams.idxOf t
  | none => t

/-- R220: the order in which the teams of a core issue (log 89). -/
def teamOrder (s : State) (core : Nat) : List Nat :=
  (List.range 4).mergeSort fun a b => decide (teamKey s core a ≤ teamKey s core b)

/-- R284: the copy sequencers issue at most one instruction each. -/
def copySequencers (turn : Option Issuer) (core : Nat) (s : State) : State :=
  let on := (blocksOn s core).filter fun x =>
    seqReady s x.1 x.2 (.cseq x.1) x.2.cseq.pc
      && (!isCpy (nextInstr s x.2 x.2.cseq.pc) || turn == some (.cseq x.1))
  { s with issueQ := s.issueQ ++ on.map fun x => .cseq x.1 }

/-- R266: whether an instruction takes an entry of the range scoreboard. -/
def wantsEntry (i : Option Instr) : Bool :=
  match i with
  | some (.cpy _) | some (.ldt _) | some (.stt _) => true
  | _ => false

/-- R261, R266: whether something issued, or to issue, on a core waits on the range scoreboard: a scratchpad access, a queue
instruction whose slot a copy holds, or an instruction that finds no free entry. -/
def rangeWaits (s : State) (core : Nat) : Bool :=
  (s.accesses.any fun a => a.scr && match tget s.blocks a.tgt with
    | some k => k.core == core && rangeHolds k a
    | none => false)
    || (blocksOn s core).any fun x => slotWaits x.2 || (parties x.1 x.2).any fun p =>
      let i := nextInstr s x.2 p.2
      p.1 != .mseq x.1 && ((rangesFull x.2 && wantsEntry i) || tryWaits x.2 i)

/-- R261: count a cycle in which something waits on the range scoreboard. -/
def countRangeWait (s : State) (core : Nat) : State :=
  if rangeWaits s core then modCore s core fun k => { k with ctr := { k.ctr with spwait := k.ctr.spwait + 1 } } else s

/-- R116 to R120, R125 to R129: CORE_CYCLE: a cycle of a core ends and the next begins; what issues in it stands in the
queue of issues. -/
def execCoreCycle (core : Nat) (s : State) : Out :=
  if 768 ≤ core || (coreOf s core).stopped then .next s
  else
    let cl := clusterOf s (clusterOfCore core)
    let freq := (dieOf s (dieOfCore core)).freq.toNat
    let s1 := stepGroups (modCore s core fun k => nextCycle k core freq (sref s) cl.limited) core
    let s2 := startBlocks s1 core
    let s3 := applyAll s2 (blocksOn s2 core) fun s x =>
      if x.2.forkArr.isEmpty then s else modBlock s x.1 forkCheck
    let turn := cpyTurn s3 core
    let who := turn.map (·.1)
    .next (copySequencers who core
      ((teamOrder s3 core).foldl (teamCycle who core) (takeTurn core turn (countRangeWait s3 core))))

/-! ### The fabric cycle -/

/-- R118, R284: the blocks of a core whose matrix sequencer can issue, with its instruction. -/
def matrixReady (s : State) (core : Nat) : List (Nat × Block × Option Instr) :=
  (blocksOn s core).filterMap fun x =>
    if seqReady s x.1 x.2 (.mseq x.1) x.2.mseq.pc then some (x.1, x.2, nextInstr s x.2 x.2.mseq.pc) else none

/-- Whether an instruction takes a place in the matrix engine. -/
def takesEngine (i : Option Instr) : Bool := (i.map matrixOnly).getD false

/-- R299, R300: whether a product that has issued waits for room in the spill queue. -/
def actWaits (s : State) (b : Nat) (k : Block) : Bool :=
  k.x.mops.any fun m => m.read && !m.acted && inOrder k m.id && (match productOf m.instr with
    | none => false
    | some (o, z) => !(z && (accOf k m.acc).any (fun x => x.2.sp) && accBusy s k.core b m.acc)
        && decide (1024 < (coreOf s k.core).spillQ.length + (foresee k m o z).1))

/-- R299: whether a product waits on the spill queue. -/
def waitsOnQueue (c : Ctx) : Bool :=
  dataReady c && (match c.instr with
    | .mmaReg o => queueShort c (regOp c o) o false
    | .mmazReg o => queueShort c (regOp c o) o true
    | .mmaSp o => queueShort c (spOp c o) o false
    | .mmazSp o => queueShort c (spOp c o) o true
    | _ => false)

/-- R299, R300: whether some stream of a core has a product that waits on the spill queue, to issue or to act. -/
def queueWaits (s : State) (core : Nat) : Bool :=
  (blocksOn s core).any fun x => actWaits s x.1 x.2 ||
    ((parties x.1 x.2).any fun p => p.1 == .mseq x.1)
      && (((nextInstr s x.2 x.2.mseq.pc).bind fun i => ctxOf { s with focus := some (.mseq x.1) } i).map waitsOnQueue).getD false

/-- R29, R284, R299, R300: the matrix sequencers of a core issue: one instruction each, and one of them to the engine. A matrix cycle
in which a product waits on the spill queue is counted. -/
def matrixCycle (s0 : State) (core : Nat) : State :=
  let k := coreOf s0 core
  let s := if !k.stopped && queueWaits s0 core then
      modCore s0 core fun k => { k with ctr := { k.ctr with mxqwait := k.ctr.mxqwait + 1 } }
    else s0
  let all := if k.stopped then [] else matrixReady s core
  let plain := (all.filter fun x => !takesEngine x.2.2).map fun x => Issuer.mseq x.1
  let turn := if k.matBusy ≤ 1 then
      (span (k.matRR + 1) 4).findSome? fun j => all.find? fun x => takesEngine x.2.2 && x.2.1.slot == j % 4
    else none
  let s1 := modCore s core fun k => { k with matBusy := k.matBusy - 1 }
  match turn with
  | none => { s1 with issueQ := s1.issueQ ++ plain }
  | some x =>
    let s2 := modCore s1 core fun k => { k with matRR := x.2.1.slot }
    { s2 with issueQ := s2.issueQ ++ plain ++ [.mseq x.1] }

/-- R436, R440: what the passing of time makes due: a sample boundary, and the ends of relocks and ramps. -/
def dueByTime (s : State) : List Event :=
  let stepsOver (d : Nat) : List Event := match (dieOf s d).opStep with
    | .ramp till _ => if till ≤ sref s then [.railRampEnd d] else []
    | .relock till _ => if till ≤ sref s then [.relockEnd d] else []
    | _ => []
  (if s.sampled < sref s / 10000 then [.sampleBoundary] else []) ++ (List.range 4).flatMap stepsOver

/-- R443: whether a cluster runs stretched cycles in a window that has ended. -/
def windowOver (now : Nat) (c : Cluster) : Bool := c.limited && decide (c.window < now / 1000)

/-- R118, R121, R325, R431, R436, R440, R443, R464: FABRIC_CYCLE. -/
def execFabricCycle (s : State) : Out :=
  let s1 : State := { s with
    time := s.time + 10
    fabric := s.fabric + 1
    blocks := s.blocks.map fun x =>
      if x.2.placed && !x.2.complete && x.2.h.halt != .preempted && x.2.h.halt != .swapped && !x.2.h.held then
        (x.1, { x.2 with h := { x.2.h with placedFor := x.2.h.placedFor + 10, sliceUsed := x.2.h.sliceUsed + 10 } })
      else x }
  let s2 := (s1.cores.map (·.1)).foldl matrixCycle (modClusters s1 fun _ c => { c with draws := 0 :: c.draws.take 15 })
  let ended := (List.range 8).filter fun j => windowOver (sref s2) (clusterOf s2 j)
  .next (dueEvents s2 (ended.map Event.stretchEnd ++ dueByTime s2))

/-! ### Words that encode no instruction -/

/-- R61: UNDEFINED_ENCODING: the party that issues these words raises ILL. -/
def execUndefinedEncoding (ws : List (BitVec 32)) (s : State) : Out :=
  match ctxOf s (.nop none) with
  | none => .fault .noIssuer
  | some c =>
    if !gangFree c then .next s
    else
    let r := causeRec c (causeAll .ill c.sliceLanes) (c.b.h.halt == .halting && !asyncNow s c.b)
    .next (recordCause (firstIssue c) c.bid c.party { r with words := ws, len := 4 * ws.length })

end Sys2Proof.Machine
end

