-- ==== Sys2Proof/Machine/Choices.lean ====
section
/-!
DEFINITION. What the machine does when no agent outside it acts: the fetch of the next instruction that was picked (R124,
R419), the device events that are due or could happen, and the free choice among them (R14, R361, R367); and a machine
with one instruction placed where it fetches next.
-/
namespace Sys2Proof.Machine

/-- spec/95: a device event as a step of the machine. -/
def runEvent (e : Event) (s : State) : Out :=
  match e with
  | .mmioRead off n => Sys2Proof.Machine.execMmioRead off n s
  | .fastCompletion b g x => Sys2Proof.Machine.execFastCompletion b g x s
  | .weuAdmission cl => Sys2Proof.Machine.execWeuAdmission cl s
  | .weuDecision cl r => Sys2Proof.Machine.execWeuDecision cl r s
  | .exactPassStart cl e => Sys2Proof.Machine.execExactPassStart cl e s
  | .exactPassEnd cl e => Sys2Proof.Machine.execExactPassEnd cl e s
  | .settlement b r => Sys2Proof.Machine.execSettlement b r s
  | .icacheFill b va => Sys2Proof.Machine.execIcacheFill b va s
  | .lineFill b g r => Sys2Proof.Machine.execLineFill b g r s
  | .pageRefill b p => Sys2Proof.Machine.execPageRefill b p s
  | .tileLockGrant cl => Sys2Proof.Machine.execTileLockGrant cl s
  | .transferStart c => Sys2Proof.Machine.execTransferStart c s
  | .transferComplete c x => Sys2Proof.Machine.execTransferComplete c x s
  | .engineTranslationFault e => Sys2Proof.Machine.execEngineTranslationFault e s
  | .enginePermissionFault e => Sys2Proof.Machine.execEnginePermissionFault e s
  | .drainHandover b m => Sys2Proof.Machine.execDrainHandover b m s
  | .spillContributionAdd c => Sys2Proof.Machine.execSpillContributionAdd c s
  | .queueWaiterResume b q => Sys2Proof.Machine.execQueueWaiterResume b q s
  | .namedBarrierRelease b n => Sys2Proof.Machine.execNamedBarrierRelease b n s
  | .matrixBarrierRelease b n => Sys2Proof.Machine.execMatrixBarrierRelease b n s
  | .xacqGrant c t => Sys2Proof.Machine.execXacqGrant c t s
  | .sleepWake b w => Sys2Proof.Machine.execSleepWake b w s
  | .fwaitRelease b g => Sys2Proof.Machine.execFwaitRelease b g s
  | .sbarRelease l => Sys2Proof.Machine.execSbarRelease l s
  | .weightRefreshWindowEnd d k => Sys2Proof.Machine.execWeightRefreshWindowEnd d k s
  | .syncRoundEnd d => Sys2Proof.Machine.execSyncRoundEnd d s
  | .blockHalt b => Sys2Proof.Machine.execBlockHalt b s
  | .blockStopped b => Sys2Proof.Machine.execBlockStopped b s
  | .timeSliceExpiry l => Sys2Proof.Machine.execTimeSliceExpiry l s
  | .preempt b needSlot => Sys2Proof.Machine.execPreempt b needSlot s
  | .fetchFaultSwapout b => Sys2Proof.Machine.execFetchFaultSwapout b s
  | .blockResume b => Sys2Proof.Machine.execBlockResume b s
  | .blockPlacement => Sys2Proof.Machine.execBlockPlacement s
  | .hangDetection l => Sys2Proof.Machine.execHangDetection l s
  | .gatherTimer l => Sys2Proof.Machine.execGatherTimer l s
  | .retentionEntry cl => Sys2Proof.Machine.execRetentionEntry cl s
  | .retentionExit cl parityOk => Sys2Proof.Machine.execRetentionExit cl parityOk s
  | .hostBar2Access acc => Sys2Proof.Machine.execHostBar2Access acc s
  | .atomicCollision d line => Sys2Proof.Machine.execAtomicCollision d line s
  | .doorbellWrite slot v => Sys2Proof.Machine.execDoorbellWrite slot v s
  | .reconcilePass => Sys2Proof.Machine.execReconcilePass s
  | .launch q => Sys2Proof.Machine.execLaunch q s
  | .record q => Sys2Proof.Machine.execRecord q s
  | .signal q => Sys2Proof.Machine.execSignal q s
  | .signalWrite q => Sys2Proof.Machine.execSignalWrite q s
  | .wait q => Sys2Proof.Machine.execWait q s
  | .waitSatisfied q => Sys2Proof.Machine.execWaitSatisfied q s
  | .weights q => Sys2Proof.Machine.execWeights q s
  | .slotload q => Sys2Proof.Machine.execSlotload q s
  | .flush q => Sys2Proof.Machine.execFlush q s
  | .flushClose q => Sys2Proof.Machine.execFlushClose q s
  | .replicaRelease q => Sys2Proof.Machine.execReplicaRelease q s
  | .replicaEnd q => Sys2Proof.Machine.execReplicaEnd q s
  | .queueCreate v => Sys2Proof.Machine.execQueueCreate v s
  | .queueDestroy v => Sys2Proof.Machine.execQueueDestroy v s
  | .invalidateRange v => Sys2Proof.Machine.execInvalidateRange v s
  | .invalidateAll v => Sys2Proof.Machine.execInvalidateAll v s
  | .invalidationComplete => Sys2Proof.Machine.execInvalidationComplete s
  | .pagePresentResponse tag => Sys2Proof.Machine.execPagePresentResponse tag s
  | .pageNotPresentResponse tag => Sys2Proof.Machine.execPageNotPresentResponse tag s
  | .fwVerify => Sys2Proof.Machine.execFwVerify s
  | .fwCommit => Sys2Proof.Machine.execFwCommit s
  | .attestationRequest v => Sys2Proof.Machine.execAttestationRequest v s
  | .attestationReport => Sys2Proof.Machine.execAttestationReport s
  | .dbgHalt v => Sys2Proof.Machine.execDbgHalt v s
  | .debuggerHalted => Sys2Proof.Machine.execDebuggerHalted s
  | .dbgRelease v => Sys2Proof.Machine.execDbgRelease v s
  | .dbgStep v => Sys2Proof.Machine.execDbgStep v s
  | .operatingPointRequest d v => Sys2Proof.Machine.execOperatingPointRequest d v s
  | .relockStart d => Sys2Proof.Machine.execRelockStart d s
  | .relockEnd d => Sys2Proof.Machine.execRelockEnd d s
  | .railRampEnd d => Sys2Proof.Machine.execRailRampEnd d s
  | .deniedClear d => Sys2Proof.Machine.execDeniedClear d s
  | .islandControlWrite d v => Sys2Proof.Machine.execIslandControlWrite d v s
  | .sampleBoundary => Sys2Proof.Machine.execSampleBoundary s
  | .ntEntryRampEnd c t => Sys2Proof.Machine.execNtEntryRampEnd c t s
  | .ntExitRampEnd c t => Sys2Proof.Machine.execNtExitRampEnd c t s
  | .droopWarn cl => Sys2Proof.Machine.execDroopWarn cl s
  | .droopLimit cl => Sys2Proof.Machine.execDroopLimit cl s
  | .stretchEnd cl => Sys2Proof.Machine.execStretchEnd cl s
  | .seCollClear d => Sys2Proof.Machine.execSeCollClear d s
  | .errLogOvfClear => Sys2Proof.Machine.execErrLogOvfClear s
  | .mmioWrite off width v => Sys2Proof.Machine.execMmioWrite off width v s
  | .powerGood => Sys2Proof.Machine.execPowerGood s
  | .bringupStageComplete ok => Sys2Proof.Machine.execBringupStageComplete ok s
  | .pairMismatch => Sys2Proof.Machine.execPairMismatch s
  | .workerTimeout w => Sys2Proof.Machine.execWorkerTimeout w s
  | .undefinedEncoding ws => Sys2Proof.Machine.execUndefinedEncoding ws s
  | .coreCycle c => Sys2Proof.Machine.execCoreCycle c s
  | .fabricCycle => Sys2Proof.Machine.execFabricCycle s
  | .accessPerforms x => Sys2Proof.Machine.execAccessPerforms x s
  | .causalWriteApply d x => Sys2Proof.Machine.execCausalWriteApply d x s
  | .matrixOperandRead b m => Sys2Proof.Machine.execMatrixOperandRead b m s
  | .matrixInstructionComplete b m => Sys2Proof.Machine.execMatrixInstructionComplete b m s
  | .sourceReadDone b x => Sys2Proof.Machine.execSourceReadDone b x s
  | .hostEndsLaunch l => Sys2Proof.Machine.execHostEndsLaunch l s
  | .priResponse tag ok => Sys2Proof.Machine.execPriResponse tag ok s
  | .atsTranslationCompletion pasid va ans => Sys2Proof.Machine.execAtsTranslationCompletion pasid va ans s
  | .atsInvalidation pasid va pages => Sys2Proof.Machine.execAtsInvalidation pasid va pages s
  | .prqTailWrite v => Sys2Proof.Machine.execPrqTailWrite v s
  | .keasetRemoteAccess acc => Sys2Proof.Machine.execKeasetRemoteAccess acc s
  | .fwVerifyComplete => Sys2Proof.Machine.execFwVerifyComplete s
  | .fwCommitRestart ok => Sys2Proof.Machine.execFwCommitRestart ok s
  | .pairRestartComplete => Sys2Proof.Machine.execPairRestartComplete s
  | .dbgReleaseComplete => Sys2Proof.Machine.execDbgReleaseComplete s

/-! ### Storage errors (R417 to R419, R421) -/

/-- R421: the unit of memory that holds a granule. -/
def memoryUnit (pa : Nat) : Option Nat :=
  match physKind pa with
  | .hbm => some 5
  | .lpddr => some 6
  | .weight => some 7
  | _ => none

/-- R402, R421: the die of a byte of memory. -/
def memoryDie (pa : Nat) : Nat :=
  match physKind pa with
  | .weight => (pa - weightBase 0) / 0x20000000
  | _ => homeDie pa

/-- R421: unit, location and address of the data that an error struck; none if there is no such data. -/
def siteOf (s : State) : Config.ErrorSite → Option (Nat × Nat × Nat)
  | .register b g r => (tget s.blocks b).bind fun k => ((tget k.groups g).bind fun x => tget x.lines r).bind fun l =>
      if l.resident then some (1, location s k.core, 0) else none
  | .scratchpad b n => (tget s.blocks b).bind fun k => (tget k.pages (n / 128)).bind fun p =>
      if p.resident then some (2, location s k.core, 32 * n) else none
  | .memory u n => (memoryUnit (32 * n)).bind fun v =>
      if u = v ∨ u = 3 ∨ (u = 8 ∧ v ≠ 7) then some (u, 1024 * s.pkg.toNat + 256 * memoryDie (32 * n), 32 * n) else none
  | .icache c n => ((coreOf s c).icache[n]?).map fun l => (4, location s c, 128 * l.line)
  | .accumulator cl n => ((clusterOf s cl).store[n]?).map fun e =>
      (3, 1024 * s.pkg.toNat + 256 * (cl / 2) + 128 * (cl % 2), Config.entryPlace cl e.1)

/-- R418, R419: data with an uncorrectable error is poisoned. -/
def poisonSite (s : State) : Config.ErrorSite → State
  | .register b g r => modGroup s b g fun x => { x with lines := tmod x.lines r fun l => { l with poison := true } }
  | .scratchpad b n => modBlock s b fun k => { k with scrPoison := if k.scrPoison.contains n then k.scrPoison else n :: k.scrPoison }
  | .memory _ n => { s with mem := { s.mem with poison := if s.mem.poison.contains n then s.mem.poison else n :: s.mem.poison } }
  | .icache c n => modCore s c fun k => { k with icache := k.icache.modify n fun l => { l with poison := true } }
  | .accumulator cl n => modCluster s cl fun k => { k with spoiled := ((k.store[n]?).map (·.1)).toList ++ k.spoiled }

/-- R417, R230: a soft error: one that is corrected changes no value and is logged as type CE, by which it is counted; another
poisons its data. -/
def strike (s : State) (e : Config.SoftError) : State :=
  match siteOf s e.site with
  | none => s
  | some u => if e.corrected then logErr s 1 u.1 u.2.1 u.2.2 (e.position % 2 ^ 32) else poisonSite s e.site

/-- R417: a soft error may strike at any time: before any device event that nothing has made due, as an opaque choice says (log
101). -/
def struck (s : State) : State :=
  match Config.softError s.tick with
  | none => s
  | some e => strike s e

/-! ### What could happen -/

/-- The wait of every party of a block: party number, slice and wait. -/
def partyWaits (k : Block) : List (Nat × Nat × Wait) :=
  (k.groups.map fun g => g.2.slices.mapIdx fun j y => (g.1, j, y.wait)).flatten
    ++ [(mseqParty, 0, k.mseq.wait), (cseqParty, 0, k.cseq.wait)]

/-- R150: the sleepers of a block. -/
def sleepers (b : Nat) (k : Block) : List Issuer :=
  let sleeps (w : Wait) : Bool := match w with
    | .sleep _ => true
    | _ => false
  (k.groups.filterMap fun g =>
      let m := maskOf ((List.range 8).filter fun j => ((g.2.slices[j]?).map fun y => sleeps y.wait).getD false)
      if m = 0 then none else some (.group b g.1 (BitVec.ofNat 8 m)))
    ++ (if sleeps k.mseq.wait then [.mseq b] else []) ++ (if sleeps k.cseq.wait then [.cseq b] else [])

/-- The events of one block's groups and sequencers. -/
def partyEvents (s : State) (b : Nat) (k : Block) : List Event :=
  List.flatten [
    k.groups.flatMap fun g => List.flatten [
      (g.2.longs.filter fun x => !x.done).map fun x => Event.fastCompletion b g.1 x.id,
      (g.2.lines.filter fun l => !l.2.resident).map fun l => Event.lineFill b g.1 l.1,
      if g.2.fences.isEmpty then [] else [Event.fwaitRelease b g.1]],
    (fetchMisses s b k).map fun m => Event.icacheFill b m.2.2,
    (sleepers b k).map fun w => Event.sleepWake b w,
    (partyWaits k).filterMap fun w => match w.2.2 with
      | .bar n _ | .barw n => some (Event.namedBarrierRelease b n)
      | .mbarw n => some (Event.matrixBarrierRelease b n)
      | .queue q => some (Event.queueWaiterResume b q)
      | _ => none]

/-- The events of one block's other parts. -/
def blockEvents (s : State) (b : Nat) (k : Block) : List Event :=
  List.flatten [
    (k.x.park.filter fun r => r.stage == 4).map fun r => Event.settlement b r.id,
    ((List.range ((progSize k + ringSize k) / 4096)).filter fun p => pageWanted s b p k).map fun p => Event.pageRefill b p,
    k.x.mops.flatMap fun m =>
      [Event.matrixOperandRead b m.id, Event.matrixInstructionComplete b m.id, Event.drainHandover b m.id
        , Event.engineTranslationFault (.matrix b m.id), Event.enginePermissionFault (.matrix b m.id)],
    k.x.ranges.map fun r => Event.sourceReadDone b r.owner,
    if k.h.stepping then [Event.blockHalt b] else [],
    [Event.blockStopped b, Event.preempt b false, Event.preempt b true, Event.blockResume b],
    if k.h.halt = .stopped then [Event.fetchFaultSwapout b] else []]

/-- The events of a core. -/
def coreEvents (c : Nat) (k : Core) : List Event :=
  List.flatten [
    (List.range 4).map fun t => Event.xacqGrant c t,
    [Event.transferStart c, Event.spillContributionAdd c],
    k.xfers.flatMap fun x =>
      [Event.transferComplete c x.id, Event.accessPerforms x.id, Event.sourceReadDone x.b x.id
        , Event.engineTranslationFault (.transfer c x.id), Event.enginePermissionFault (.transfer c x.id)],
    k.fills.map fun f => Event.icacheFill f.1 (128 * f.2),
    (List.range 4).flatMap fun t => [Event.ntEntryRampEnd c t, Event.ntExitRampEnd c t]]

/-- The events of a cluster. -/
def clusterEvents (cl : Nat) (k : Cluster) : List Event :=
  List.flatten [
    [Event.weuAdmission cl, Event.tileLockGrant cl],
    k.weu.map fun r => Event.weuDecision cl r,
    (List.range 4).flatMap fun e => [Event.exactPassStart cl e, Event.exactPassEnd cl e],
    if k.limited then [Event.stretchEnd cl] else []]

/-- The events of a die. -/
def dieEvents (d : Nat) : List Event :=
  List.flatten [
    [Event.syncRoundEnd d, Event.relockStart d, Event.relockEnd d, Event.railRampEnd d],
    (List.range 64).map fun p => Event.weightRefreshWindowEnd d p]

/-- The events of accesses and of writes that some die has not applied. -/
def memoryEvents (s : State) : List Event :=
  List.flatten [
    s.accesses.map fun a => Event.accessPerforms a.id,
    s.mem.log.flatMap fun w => ((List.range 4).filter fun d => !w.applied.contains d).map fun d => Event.causalWriteApply d w.id]

/-- The events of one command queue. -/
def queueEvents (q : Nat) : List Event :=
  [.launch q, .record q, .signal q, .signalWrite q, .wait q, .waitSatisfied q, .weights q, .slotload q, .flush q
   , .flushClose q, .replicaRelease q, .replicaEnd q]

/-- The events of the front end. -/
def frontEvents (s : State) : List Event :=
  List.flatten [
    s.launches.flatMap fun l =>
      [Event.sbarRelease l.1, Event.timeSliceExpiry l.1, Event.hangDetection l.1, Event.gatherTimer l.1],
    s.front.queues.flatMap fun q => queueEvents q.1,
    (s.front.r.qReq.toList).map fun v => if v.toNat / 2 ^ 62 = 1 then Event.queueCreate v else Event.queueDestroy v,
    [Event.blockPlacement, Event.invalidationComplete, Event.debuggerHalted, Event.dbgReleaseComplete
      , Event.fwVerifyComplete, Event.fwCommitRestart true, Event.fwCommitRestart false, Event.attestationReport
      , Event.pairRestartComplete, Event.reconcilePass, Event.sampleBoundary, Event.bringupStageComplete true
      , Event.bringupStageComplete false]]

/-- R14: every device event that could happen next without an agent outside the package. One whose condition does not hold
leaves the machine as it is (log 7). -/
def couldHappen (s : State) : List Event :=
  List.flatten [
    if (List.range 768).any (cycleOver s) then [] else [Event.fabricCycle],
    ((List.range 768).filter (cycleOver s)).map fun c => Event.coreCycle c,
    s.blocks.flatMap fun x => partyEvents s x.1 x.2 ++ blockEvents s x.1 x.2,
    s.cores.flatMap fun c => coreEvents c.1 c.2,
    (List.range 8).flatMap fun j => clusterEvents j (clusterOf s j),
    (List.range 4).flatMap dieEvents,
    memoryEvents s, frontEvents s]

/-- R14, R361, R417: which of them happens is a free choice, and whether a soft error strikes first. -/
def nextEvent (s : State) : Event × State :=
  let s1 := struck s
  let es := couldHappen s1
  let r := choose s1 es.length
  (es.getD r.1 .fabricCycle, r.2)

/-! ### Fetching what was picked -/

/-- What an issuer that was picked finds. -/
inductive Fetched where
  | stale
  | poison
  | undefined (ws : List Word)
  | instr (i : Instr)
  deriving DecidableEq, Repr

/-- R124, R125: fetch for a party that may still issue. -/
def fetchFor (s : State) (p : Issuer) : Fetched :=
  let b := match p with
    | .group b _ _ => b
    | .mseq b => b
    | .cseq b => b
  match tget s.blocks b with
  | none => .stale
  | some k =>
    match (parties b k).find? fun x => x.1 == p with
    | none => .stale
    | some x =>
      match fetchAt (coreOf s k.core) (recOf s k).pasid x.2.toNat with
      | .missing _ => .stale
      | .poisoned => .poison
      | .got ws =>
        match decodeBits (ofElems 32 ws) with
        | .ok i => .instr i
        | .error _ => .undefined (ws.map (BitVec.ofNat 32))

/-- R419: the poisoned lines that hold a byte of the instruction at an address are known to raise ECC. -/
def metPoison (s : State) (core pasid pc : Nat) : State :=
  let n := (icWord (coreOf s core) pasid pc).map fun w => lenOf w.1
  modCore s core fun c => { c with icache := c.icache.map fun l =>
    if l.poison && l.pasid == pasid && overlap (128 * l.line) 128 pc (4 * n.getD 1) then { l with ran := true } else l }

/-- R419: the issue of an instruction in a poisoned line: a consumption of an uncorrectable error. -/
def poisonedFetch (s : State) (p : Issuer) : State :=
  let b := match p with
    | .group b _ _ => b
    | .mseq b => b
    | .cseq b => b
  match tget s.blocks b with
  | none => s
  | some k =>
    match (parties b k).find? fun x => x.1 == p with
    | none => s
    | some x =>
      if ((ctxOf s (.nop none)).map fun c => !gangFree c).getD false then s
      else recordLogged (metPoison s k.core (recOf s k).pasid x.2.toNat) b (issuerParty k p).1 4 (location s k.core) (fetchCause s k p x.2 .ecc x.2.toNat)

/-! ### One instruction, placed where the machine fetches next -/

/-- Where `placed` puts an instruction. -/
def placedVa : Nat := 0x10000

/-- A group of 32 live lanes at an address. -/
def placedGroup (va : Nat) : Group :=
  { slices := List.replicate 8 { pc := BitVec.ofNat 64 va, act := 0xF, live := 0xF } }

/-- The launch of a machine with one instruction placed: one block of one group. -/
def placedLaunch : Launch :=
  { r := { pasid := 1, entry := BitVec.ofNat 64 placedVa }, next := 1 }

/-- The block of a machine with one instruction placed; its group stands at the instruction, and its matrix sequencer when
that is to issue it. -/
def placedBlock (seq : Bool) : Block :=
  { launch := 1, sblock := 0, nl := 32, started := true, teams := [0], groups := [(0, placedGroup placedVa)], forked := seq
    mseq := { pc := BitVec.ofNat 64 placedVa, running := seq } }

/-- The machine with the bytes of one instruction in the instruction cache of core 0, and the party that issues it picked. -/
def placed (s : State) (bytes : List Byte) (p : Issuer) : State :=
  { s with
    launches := [(1, placedLaunch)]
    blocks := [(1, placedBlock (p == .mseq 1))]
    cores := [(0, { icache := [{ pasid := 1, line := placedVa / 128, bytes := (bytes ++ List.replicate 128 0).take 128 }] })]
    focus := none
    issueQ := [p]
    agenda := [] }

/-- Who issues a placed instruction: a matrix sequencer where only one accepts it (R62). -/
def placedParty (w : Nat) : Issuer :=
  match decodeBits w with
  | .ok i => if matrixOnly i then .mseq 1 else .group 1 0 0xFF
  | .error _ => .group 1 0 0xFF

end Sys2Proof.Machine
end

