-- ==== Sys2Proof/Machine/Dispatch.lean ====
section
/-!
DEFINITION. The meaning of every row of the opcode table.
-/
namespace Sys2Proof.Machine

def exec (i : Instr) (s : State) : Host.Outcome State Fault Refusal :=
  match i with
  | .nop g => Sys2Proof.Machine.execNop g s
  | .movBase o => Sys2Proof.Machine.execMovBase o s
  | .moviBase g d v => Sys2Proof.Machine.execMoviBase g d v s
  | .moviBaseLiteral g d v => Sys2Proof.Machine.execMoviBaseLiteral g d v s
  | .moviI64 g d v => Sys2Proof.Machine.execMoviI64 g d v s
  | .addBase o => Sys2Proof.Machine.execAddBase o s
  | .subBase o => Sys2Proof.Machine.execSubBase o s
  | .mulBase o => Sys2Proof.Machine.execMulBase o s
  | .andBase o => Sys2Proof.Machine.execAndBase o s
  | .orBase o => Sys2Proof.Machine.execOrBase o s
  | .xorBase o => Sys2Proof.Machine.execXorBase o s
  | .andnBase o => Sys2Proof.Machine.execAndnBase o s
  | .notBase o => Sys2Proof.Machine.execNotBase o s
  | .shlBase o => Sys2Proof.Machine.execShlBase o s
  | .shrBase o => Sys2Proof.Machine.execShrBase o s
  | .sarBase o => Sys2Proof.Machine.execSarBase o s
  | .minI32Base o => Sys2Proof.Machine.execMinI32Base o s
  | .maxI32Base o => Sys2Proof.Machine.execMaxI32Base o s
  | .minN32Base o => Sys2Proof.Machine.execMinN32Base o s
  | .maxN32Base o => Sys2Proof.Machine.execMaxN32Base o s
  | .negBase o => Sys2Proof.Machine.execNegBase o s
  | .absBase o => Sys2Proof.Machine.execAbsBase o s
  | .popcBase o => Sys2Proof.Machine.execPopcBase o s
  | .clzBase o => Sys2Proof.Machine.execClzBase o s
  | .faddBase o => Sys2Proof.Machine.execFaddBase o s
  | .fsubBase o => Sys2Proof.Machine.execFsubBase o s
  | .fmulBase o => Sys2Proof.Machine.execFmulBase o s
  | .fnegBase o => Sys2Proof.Machine.execFnegBase o s
  | .bra g off => Sys2Proof.Machine.execBra g off s
  | .braLiteral g v => Sys2Proof.Machine.execBraLiteral g v s
  | .brx g a la => Sys2Proof.Machine.execBrx g a la s
  | .call g d v => Sys2Proof.Machine.execCall g d v s
  | .calli o => Sys2Proof.Machine.execCalli o s
  | .ret g a la => Sys2Proof.Machine.execRet g a la s
  | .jn => Sys2Proof.Machine.execJn s
  | .regang => Sys2Proof.Machine.execRegang s
  | .exit g => Sys2Proof.Machine.execExit g s
  | .yield => Sys2Proof.Machine.execYield s
  | .kill d => Sys2Proof.Machine.execKill d s
  | .trap n => Sys2Proof.Machine.execTrap n s
  | .tret => Sys2Proof.Machine.execTret s
  | .brkpt => Sys2Proof.Machine.execBrkpt s
  | .sleep o => Sys2Proof.Machine.execSleep o s
  | .mfs o => Sys2Proof.Machine.execMfs o s
  | .mts o => Sys2Proof.Machine.execMts o s
  | .phint o => Sys2Proof.Machine.execPhint o s
  | .mov o => Sys2Proof.Machine.execMov o s
  | .movi o => Sys2Proof.Machine.execMovi o s
  | .sel o => Sys2Proof.Machine.execSel o s
  | .xacq o => Sys2Proof.Machine.execXacq o s
  | .xrel o => Sys2Proof.Machine.execXrel o s
  | .shfl o => Sys2Proof.Machine.execShfl o s
  | .bcast o => Sys2Proof.Machine.execBcast o s
  | .perm o => Sys2Proof.Machine.execPerm o s
  | .vote o => Sys2Proof.Machine.execVote o s
  | .rdlane o => Sys2Proof.Machine.execRdlane o s
  | .wrlane o => Sys2Proof.Machine.execWrlane o s
  | .pack o => Sys2Proof.Machine.execPack o s
  | .unpack o => Sys2Proof.Machine.execUnpack o s
  | .swz o => Sys2Proof.Machine.execSwz o s
  | .add o => Sys2Proof.Machine.execAdd o s
  | .sub o => Sys2Proof.Machine.execSub o s
  | .addc o => Sys2Proof.Machine.execAddc o s
  | .subb o => Sys2Proof.Machine.execSubb o s
  | .sadd o => Sys2Proof.Machine.execSadd o s
  | .ssub o => Sys2Proof.Machine.execSsub o s
  | .and o => Sys2Proof.Machine.execAnd o s
  | .or o => Sys2Proof.Machine.execOr o s
  | .xor o => Sys2Proof.Machine.execXor o s
  | .andn o => Sys2Proof.Machine.execAndn o s
  | .not o => Sys2Proof.Machine.execNot o s
  | .lfn o => Sys2Proof.Machine.execLfn o s
  | .lfnD o => Sys2Proof.Machine.execLfnD o s
  | .shl o => Sys2Proof.Machine.execShl o s
  | .shr o => Sys2Proof.Machine.execShr o s
  | .sar o => Sys2Proof.Machine.execSar o s
  | .rol o => Sys2Proof.Machine.execRol o s
  | .ror o => Sys2Proof.Machine.execRor o s
  | .fsh o => Sys2Proof.Machine.execFsh o s
  | .bfx o => Sys2Proof.Machine.execBfx o s
  | .bfi o => Sys2Proof.Machine.execBfi o s
  | .popc o => Sys2Proof.Machine.execPopc o s
  | .clz o => Sys2Proof.Machine.execClz o s
  | .ctz o => Sys2Proof.Machine.execCtz o s
  | .brev o => Sys2Proof.Machine.execBrev o s
  | .min o => Sys2Proof.Machine.execMin o s
  | .max o => Sys2Proof.Machine.execMax o s
  | .abs o => Sys2Proof.Machine.execAbs o s
  | .neg o => Sys2Proof.Machine.execNeg o s
  | .cmp o => Sys2Proof.Machine.execCmp o s
  | .mul o => Sys2Proof.Machine.execMul o s
  | .mulhi o => Sys2Proof.Machine.execMulhi o s
  | .mad o => Sys2Proof.Machine.execMad o s
  | .madw o => Sys2Proof.Machine.execMadw o s
  | .dot4 o => Sys2Proof.Machine.execDot4 o s
  | .mul64 o => Sys2Proof.Machine.execMul64 o s
  | .mulhi64 o => Sys2Proof.Machine.execMulhi64 o s
  | .mad64 o => Sys2Proof.Machine.execMad64 o s
  | .idiv o => Sys2Proof.Machine.execIdiv o s
  | .irem o => Sys2Proof.Machine.execIrem o s
  | .idiv64 o => Sys2Proof.Machine.execIdiv64 o s
  | .irem64 o => Sys2Proof.Machine.execIrem64 o s
  | .fadd o => Sys2Proof.Machine.execFadd o s
  | .fsub o => Sys2Proof.Machine.execFsub o s
  | .fmul o => Sys2Proof.Machine.execFmul o s
  | .fma o => Sys2Proof.Machine.execFma o s
  | .fmin o => Sys2Proof.Machine.execFmin o s
  | .fmax o => Sys2Proof.Machine.execFmax o s
  | .fcmp o => Sys2Proof.Machine.execFcmp o s
  | .fcvt o => Sys2Proof.Machine.execFcvt o s
  | .icvt o => Sys2Proof.Machine.execIcvt o s
  | .fcvti o => Sys2Proof.Machine.execFcvti o s
  | .frnd o => Sys2Proof.Machine.execFrnd o s
  | .fscale o => Sys2Proof.Machine.execFscale o s
  | .fcvtMx o => Sys2Proof.Machine.execFcvtMx o s
  | .faddD o => Sys2Proof.Machine.execFaddD o s
  | .fsubD o => Sys2Proof.Machine.execFsubD o s
  | .fmulD o => Sys2Proof.Machine.execFmulD o s
  | .fmaD o => Sys2Proof.Machine.execFmaD o s
  | .fminD o => Sys2Proof.Machine.execFminD o s
  | .fmaxD o => Sys2Proof.Machine.execFmaxD o s
  | .fcmpD o => Sys2Proof.Machine.execFcmpD o s
  | .fcvtD o => Sys2Proof.Machine.execFcvtD o s
  | .icvtD o => Sys2Proof.Machine.execIcvtD o s
  | .fcvtiD o => Sys2Proof.Machine.execFcvtiD o s
  | .frndD o => Sys2Proof.Machine.execFrndD o s
  | .fscaleD o => Sys2Proof.Machine.execFscaleD o s
  | .fneg o => Sys2Proof.Machine.execFneg o s
  | .fsgn o => Sys2Proof.Machine.execFsgn o s
  | .fclass o => Sys2Proof.Machine.execFclass o s
  | .fexpo o => Sys2Proof.Machine.execFexpo o s
  | .fdiv o => Sys2Proof.Machine.execFdiv o s
  | .frcp o => Sys2Proof.Machine.execFrcp o s
  | .fsqrt o => Sys2Proof.Machine.execFsqrt o s
  | .frsqrt o => Sys2Proof.Machine.execFrsqrt o s
  | .fexp o => Sys2Proof.Machine.execFexp o s
  | .fexp2 o => Sys2Proof.Machine.execFexp2 o s
  | .fexpm1 o => Sys2Proof.Machine.execFexpm1 o s
  | .flog o => Sys2Proof.Machine.execFlog o s
  | .flog2 o => Sys2Proof.Machine.execFlog2 o s
  | .flog1p o => Sys2Proof.Machine.execFlog1p o s
  | .fsin o => Sys2Proof.Machine.execFsin o s
  | .fcos o => Sys2Proof.Machine.execFcos o s
  | .ftan o => Sys2Proof.Machine.execFtan o s
  | .fsinpi o => Sys2Proof.Machine.execFsinpi o s
  | .fcospi o => Sys2Proof.Machine.execFcospi o s
  | .fatan o => Sys2Proof.Machine.execFatan o s
  | .fhypot o => Sys2Proof.Machine.execFhypot o s
  | .fpow o => Sys2Proof.Machine.execFpow o s
  | .fdot2 o => Sys2Proof.Machine.execFdot2 o s
  | .fdot4 o => Sys2Proof.Machine.execFdot4 o s
  | .gsum o => Sys2Proof.Machine.execGsum o s
  | .gsumsq o => Sys2Proof.Machine.execGsumsq o s
  | .fdivD o => Sys2Proof.Machine.execFdivD o s
  | .frcpD o => Sys2Proof.Machine.execFrcpD o s
  | .fsqrtD o => Sys2Proof.Machine.execFsqrtD o s
  | .frsqrtD o => Sys2Proof.Machine.execFrsqrtD o s
  | .fexpD o => Sys2Proof.Machine.execFexpD o s
  | .fexp2D o => Sys2Proof.Machine.execFexp2D o s
  | .fexpm1D o => Sys2Proof.Machine.execFexpm1D o s
  | .flogD o => Sys2Proof.Machine.execFlogD o s
  | .flog2D o => Sys2Proof.Machine.execFlog2D o s
  | .flog1pD o => Sys2Proof.Machine.execFlog1pD o s
  | .fsinD o => Sys2Proof.Machine.execFsinD o s
  | .fcosD o => Sys2Proof.Machine.execFcosD o s
  | .ftanD o => Sys2Proof.Machine.execFtanD o s
  | .fsinpiD o => Sys2Proof.Machine.execFsinpiD o s
  | .fcospiD o => Sys2Proof.Machine.execFcospiD o s
  | .fatanD o => Sys2Proof.Machine.execFatanD o s
  | .gsumD o => Sys2Proof.Machine.execGsumD o s
  | .gsumsqD o => Sys2Proof.Machine.execGsumsqD o s
  | .gmax o => Sys2Proof.Machine.execGmax o s
  | .gmin o => Sys2Proof.Machine.execGmin o s
  | .fprog o => Sys2Proof.Machine.execFprog o s
  | .parkw o => Sys2Proof.Machine.execParkw o s
  | .gsumInt o => Sys2Proof.Machine.execGsumInt o s
  | .lds o => Sys2Proof.Machine.execLds o s
  | .sts o => Sys2Proof.Machine.execSts o s
  | .ldsg o => Sys2Proof.Machine.execLdsg o s
  | .stss o => Sys2Proof.Machine.execStss o s
  | .atomsOp o => Sys2Proof.Machine.execAtomsOp o s
  | .atomsXchg o => Sys2Proof.Machine.execAtomsXchg o s
  | .atomsCas o => Sys2Proof.Machine.execAtomsCas o s
  | .sppin o => Sys2Proof.Machine.execSppin o s
  | .spfree o => Sys2Proof.Machine.execSpfree o s
  | .qinit o => Sys2Proof.Machine.execQinit o s
  | .qpush o => Sys2Proof.Machine.execQpush o s
  | .qpop o => Sys2Proof.Machine.execQpop o s
  | .qtry o => Sys2Proof.Machine.execQtry o s
  | .qallow o => Sys2Proof.Machine.execQallow o s
  | .fork o => Sys2Proof.Machine.execFork o s
  | .join o => Sys2Proof.Machine.execJoin o s
  | .mmaReg o => Sys2Proof.Machine.execMmaReg o s
  | .mmaSp o => Sys2Proof.Machine.execMmaSp o s
  | .mmazReg o => Sys2Proof.Machine.execMmazReg o s
  | .mmazSp o => Sys2Proof.Machine.execMmazSp o s
  | .acld o => Sys2Proof.Machine.execAcld o s
  | .acst o => Sys2Proof.Machine.execAcst o s
  | .mdrain o => Sys2Proof.Machine.execMdrain o s
  | .lutld o => Sys2Proof.Machine.execLutld o s
  | .lutsw o => Sys2Proof.Machine.execLutsw o s
  | .mbarv o => Sys2Proof.Machine.execMbarv o s
  | .mbarw o => Sys2Proof.Machine.execMbarw o s
  | .ld o => Sys2Proof.Machine.execLd o s
  | .st o => Sys2Proof.Machine.execSt o s
  | .ldt o => Sys2Proof.Machine.execLdt o s
  | .stt o => Sys2Proof.Machine.execStt o s
  | .ldw o => Sys2Proof.Machine.execLdw o s
  | .cpy o => Sys2Proof.Machine.execCpy o s
  | .publish o => Sys2Proof.Machine.execPublish o s
  | .prf o => Sys2Proof.Machine.execPrf o s
  | .cflush o => Sys2Proof.Machine.execCflush o s
  | .xprobe o => Sys2Proof.Machine.execXprobe o s
  | .fence o => Sys2Proof.Machine.execFence o s
  | .fwait o => Sys2Proof.Machine.execFwait o s
  | .ldacq o => Sys2Proof.Machine.execLdacq o s
  | .strel o => Sys2Proof.Machine.execStrel o s
  | .atomOp o => Sys2Proof.Machine.execAtomOp o s
  | .atomXchg o => Sys2Proof.Machine.execAtomXchg o s
  | .atomCas o => Sys2Proof.Machine.execAtomCas o s
  | .redInt o => Sys2Proof.Machine.execRedInt o s
  | .redFloat o => Sys2Proof.Machine.execRedFloat o s
  | .redget o => Sys2Proof.Machine.execRedget o s
  | .bar o => Sys2Proof.Machine.execBar o s
  | .barv o => Sys2Proof.Machine.execBarv o s
  | .barw o => Sys2Proof.Machine.execBarw o s
  | .sbar o => Sys2Proof.Machine.execSbar o s
  | .fastCompletion b g x => Sys2Proof.Machine.execFastCompletion b g x s
  | .weuAdmission cl => Sys2Proof.Machine.execWeuAdmission cl s
  | .weuDecision cl r => Sys2Proof.Machine.execWeuDecision cl r s
  | .exactPassStart cl e => Sys2Proof.Machine.execExactPassStart cl e s
  | .exactPassEnd cl e => Sys2Proof.Machine.execExactPassEnd cl e s
  | .settlement b r => Sys2Proof.Machine.execSettlement b r s
  | .icacheFill b va => Sys2Proof.Machine.execIcacheFill b va s
  | .lineFill b g r => Sys2Proof.Machine.execLineFill b g r s
  | .pageRefill b p => Sys2Proof.Machine.execPageRefill b p s
  | .tileLockGrant cl => Sys2Proof.Machine.execTileLockGrant cl s
  | .transferStart c => Sys2Proof.Machine.execTransferStart c s
  | .transferComplete c x => Sys2Proof.Machine.execTransferComplete c x s
  | .engineTranslationFault e => Sys2Proof.Machine.execEngineTranslationFault e s
  | .enginePermissionFault e => Sys2Proof.Machine.execEnginePermissionFault e s
  | .drainHandover b m => Sys2Proof.Machine.execDrainHandover b m s
  | .spillContributionAdd c => Sys2Proof.Machine.execSpillContributionAdd c s
  | .queueWaiterResume b q => Sys2Proof.Machine.execQueueWaiterResume b q s
  | .namedBarrierRelease b n => Sys2Proof.Machine.execNamedBarrierRelease b n s
  | .matrixBarrierRelease b n => Sys2Proof.Machine.execMatrixBarrierRelease b n s
  | .xacqGrant c t => Sys2Proof.Machine.execXacqGrant c t s
  | .sleepWake b w => Sys2Proof.Machine.execSleepWake b w s
  | .fwaitRelease b g => Sys2Proof.Machine.execFwaitRelease b g s
  | .sbarRelease l => Sys2Proof.Machine.execSbarRelease l s
  | .weightRefreshWindowEnd d k => Sys2Proof.Machine.execWeightRefreshWindowEnd d k s
  | .syncRoundEnd d => Sys2Proof.Machine.execSyncRoundEnd d s
  | .blockHalt b => Sys2Proof.Machine.execBlockHalt b s
  | .blockStopped b => Sys2Proof.Machine.execBlockStopped b s
  | .timeSliceExpiry l => Sys2Proof.Machine.execTimeSliceExpiry l s
  | .preempt b needSlot => Sys2Proof.Machine.execPreempt b needSlot s
  | .fetchFaultSwapout b => Sys2Proof.Machine.execFetchFaultSwapout b s
  | .blockResume b => Sys2Proof.Machine.execBlockResume b s
  | .blockPlacement => Sys2Proof.Machine.execBlockPlacement s
  | .hangDetection l => Sys2Proof.Machine.execHangDetection l s
  | .gatherTimer l => Sys2Proof.Machine.execGatherTimer l s
  | .retentionEntry cl => Sys2Proof.Machine.execRetentionEntry cl s
  | .retentionExit cl parityOk => Sys2Proof.Machine.execRetentionExit cl parityOk s
  | .hostBar2Access acc => Sys2Proof.Machine.execHostBar2Access acc s
  | .atomicCollision d line => Sys2Proof.Machine.execAtomicCollision d line s
  | .doorbellWrite slot v => Sys2Proof.Machine.execDoorbellWrite slot v s
  | .reconcilePass => Sys2Proof.Machine.execReconcilePass s
  | .launch q => Sys2Proof.Machine.execLaunch q s
  | .record q => Sys2Proof.Machine.execRecord q s
  | .signal q => Sys2Proof.Machine.execSignal q s
  | .signalWrite q => Sys2Proof.Machine.execSignalWrite q s
  | .wait q => Sys2Proof.Machine.execWait q s
  | .waitSatisfied q => Sys2Proof.Machine.execWaitSatisfied q s
  | .weights q => Sys2Proof.Machine.execWeights q s
  | .slotload q => Sys2Proof.Machine.execSlotload q s
  | .flush q => Sys2Proof.Machine.execFlush q s
  | .flushClose q => Sys2Proof.Machine.execFlushClose q s
  | .replicaRelease q => Sys2Proof.Machine.execReplicaRelease q s
  | .replicaEnd q => Sys2Proof.Machine.execReplicaEnd q s
  | .queueCreate v => Sys2Proof.Machine.execQueueCreate v s
  | .queueDestroy v => Sys2Proof.Machine.execQueueDestroy v s
  | .invalidateRange v => Sys2Proof.Machine.execInvalidateRange v s
  | .invalidateAll v => Sys2Proof.Machine.execInvalidateAll v s
  | .invalidationComplete => Sys2Proof.Machine.execInvalidationComplete s
  | .pagePresentResponse tag => Sys2Proof.Machine.execPagePresentResponse tag s
  | .pageNotPresentResponse tag => Sys2Proof.Machine.execPageNotPresentResponse tag s
  | .fwVerify => Sys2Proof.Machine.execFwVerify s
  | .fwCommit => Sys2Proof.Machine.execFwCommit s
  | .attestationRequest v => Sys2Proof.Machine.execAttestationRequest v s
  | .attestationReport => Sys2Proof.Machine.execAttestationReport s
  | .dbgHalt v => Sys2Proof.Machine.execDbgHalt v s
  | .debuggerHalted => Sys2Proof.Machine.execDebuggerHalted s
  | .dbgRelease v => Sys2Proof.Machine.execDbgRelease v s
  | .dbgStep v => Sys2Proof.Machine.execDbgStep v s
  | .operatingPointRequest d v => Sys2Proof.Machine.execOperatingPointRequest d v s
  | .relockStart d => Sys2Proof.Machine.execRelockStart d s
  | .relockEnd d => Sys2Proof.Machine.execRelockEnd d s
  | .railRampEnd d => Sys2Proof.Machine.execRailRampEnd d s
  | .deniedClear d => Sys2Proof.Machine.execDeniedClear d s
  | .islandControlWrite d v => Sys2Proof.Machine.execIslandControlWrite d v s
  | .sampleBoundary => Sys2Proof.Machine.execSampleBoundary s
  | .ntEntryRampEnd c t => Sys2Proof.Machine.execNtEntryRampEnd c t s
  | .ntExitRampEnd c t => Sys2Proof.Machine.execNtExitRampEnd c t s
  | .droopWarn cl => Sys2Proof.Machine.execDroopWarn cl s
  | .droopLimit cl => Sys2Proof.Machine.execDroopLimit cl s
  | .stretchEnd cl => Sys2Proof.Machine.execStretchEnd cl s
  | .seCollClear d => Sys2Proof.Machine.execSeCollClear d s
  | .errLogOvfClear => Sys2Proof.Machine.execErrLogOvfClear s
  | .mmioWrite off width v => Sys2Proof.Machine.execMmioWrite off width v s
  | .powerGood => Sys2Proof.Machine.execPowerGood s
  | .bringupStageComplete ok => Sys2Proof.Machine.execBringupStageComplete ok s
  | .pairMismatch => Sys2Proof.Machine.execPairMismatch s
  | .workerTimeout w => Sys2Proof.Machine.execWorkerTimeout w s
  | .undefinedEncoding ws => Sys2Proof.Machine.execUndefinedEncoding ws s
  | .coreCycle c => Sys2Proof.Machine.execCoreCycle c s
  | .fabricCycle => Sys2Proof.Machine.execFabricCycle s
  | .accessPerforms x => Sys2Proof.Machine.execAccessPerforms x s
  | .causalWriteApply d x => Sys2Proof.Machine.execCausalWriteApply d x s
  | .matrixOperandRead b m => Sys2Proof.Machine.execMatrixOperandRead b m s
  | .matrixInstructionComplete b m => Sys2Proof.Machine.execMatrixInstructionComplete b m s
  | .sourceReadDone b x => Sys2Proof.Machine.execSourceReadDone b x s
  | .hostEndsLaunch l => Sys2Proof.Machine.execHostEndsLaunch l s
  | .priResponse tag ok => Sys2Proof.Machine.execPriResponse tag ok s
  | .atsTranslationCompletion pasid va ans => Sys2Proof.Machine.execAtsTranslationCompletion pasid va ans s
  | .atsInvalidation pasid va pages => Sys2Proof.Machine.execAtsInvalidation pasid va pages s
  | .prqTailWrite v => Sys2Proof.Machine.execPrqTailWrite v s
  | .keasetRemoteAccess acc => Sys2Proof.Machine.execKeasetRemoteAccess acc s
  | .fwVerifyComplete => Sys2Proof.Machine.execFwVerifyComplete s
  | .fwCommitRestart ok => Sys2Proof.Machine.execFwCommitRestart ok s
  | .pairRestartComplete => Sys2Proof.Machine.execPairRestartComplete s
  | .dbgReleaseComplete => Sys2Proof.Machine.execDbgReleaseComplete s

end Sys2Proof.Machine
end

