-- ==== Sys2Proof/Machine/Step.lean ====
section
/-!
DEFINITION. One step of the machine: the next instruction that was picked, or the next device event that is due, or one of
those that could happen.
-/
namespace Sys2Proof.Machine

/-- One step. -/
def step (s : State) : Out :=
  match s.issueQ with
  | p :: rest =>
    let s1 := { s with focus := some p, issueQ := rest }
    match fetchFor s1 p with
    | .stale => .next s1
    | .poison => .next (poisonedFetch s1 p)
    | .undefined ws => execUndefinedEncoding ws s1
    | .instr i => exec i s1
  | [] =>
    match s.agenda with
    | e :: rest => runEvent e { s with agenda := rest }
    | [] => runEvent (nextEvent s).1 (nextEvent s).2

/-- The machine `s` with an instruction of `nbits` bits placed where `step` fetches next. -/
def State.withFetchWord (s : State) (nbits w : Nat) : State :=
  placed s (toBytes 20 (w % 2 ^ nbits)) (placedParty (w % 2 ^ nbits))

end Sys2Proof.Machine
end

