-- ==== Sys2Proof/Safety.lean ====
section
/-!
DEFINITION. The terms in which claims are made: when an instruction is free to issue, what a register of its issuer holds
afterwards, and the invariants of the machine.
-/
namespace Sys2Proof

open Sys2Proof.Machine

/-- R8, R125: an issuer is in focus with the context `c`, the instruction meets no cause that does not depend on operand
values, and its operands, windows and streams let it issue. -/
def Free (i : Instr) (s : State) (c : Ctx) : Prop :=
  ctxOf s i = some c ∧ genericCauses c = [] ∧ dataReady c = true

/-- The group that issued in context `c`, as state `t` holds it. -/
def groupAfter (t : State) (c : Ctx) : Option Group := (tget t.blocks c.bid).bind fun b => tget b.groups c.party

/-- The sequencer that issued in context `c`, as state `t` holds it. -/
def seqAfter (t : State) (c : Ctx) : Option Seq :=
  (tget t.blocks c.bid).map fun b => if c.party = mseqParty then b.mseq else b.cseq

/-- R163, R283: register `r` of lane `k` of the party that issued in context `c`, as state `t` holds it. -/
def regAfter (t : State) (c : Ctx) (r k : Nat) : Nat :=
  match c.sq with
  | none => ((groupAfter t c).map fun g => rdReg g r k).getD 0
  | some _ => ((seqAfter t c).map fun q => (q.regs.getD r 0).toNat).getD 0

/-- R50: a result of 32 bits, or of 64 in a pair. -/
def destAfter (t : State) (c : Ctx) (wide : Bool) (d k : Nat) : Nat :=
  if wide then regAfter t c d k + 2 ^ 32 * regAfter t c (d + 1) k else regAfter t c d k

/-- R99: the sticky flags of the group that issued in context `c`. -/
def flagsAfter (t : State) (c : Ctx) : BitVec 6 := ((groupAfter t c).map Group.flags).getD 0

/-- The instruction completes: it writes `v` to register `d`, or to the pair `d`, of every lane that takes part, and ORs
`fl` into the sticky flags of its group. -/
def Completes (i : Instr) (s : State) (c : Ctx) (wide : Bool) (d : Nat) (v : Nat → Nat) (fl : Nat) : Prop :=
  ∃ t, exec i s = .next t ∧ (∀ k ∈ c.lanes, destAfter t c wide d k = v k)
    ∧ (c.sq = none → flagsAfter t c = c.g.flags ||| BitVec.ofNat 6 fl)

/-- R83: the number of elements of width `w` in a result. -/
def elemCount (w : Nat) : Nat := if w ≥ 32 then 1 else 32 / w

/-- R83: element `e` of a value, of width `w`. -/
def elemOfWidth (w x e : Nat) : BitVec w := BitVec.ofNat w (x / 2 ^ (w * e))

/-- The instruction completes, and element `e` of width `w` of its result in lane `k` is `f k e`. -/
def CompletesBy (i : Instr) (s : State) (c : Ctx) (w d : Nat) (f : Nat → Nat → BitVec w) (fl : Nat) : Prop :=
  ∃ t, exec i s = .next t
    ∧ (∀ k ∈ c.lanes, ∀ e, e < elemCount w → elemOfWidth w (destAfter t c (w == 64) d k) e = f k e)
    ∧ (c.sq = none → flagsAfter t c = c.g.flags ||| BitVec.ofNat 6 fl)
/-- R83: the instruction completes without a flag, and byte `j` of its 32-bit result in lane `k` is `f k j`. -/
def CompletesByByte (i : Instr) (s : State) (c : Ctx) (d : Nat) (f : Nat → Nat → Byte) : Prop :=
  ∃ t, exec i s = .next t ∧ (∀ k ∈ c.lanes, ∀ j, j < 4 → elemOfWidth 8 (regAfter t c d k) j = f k j)
    ∧ (c.sq = none → flagsAfter t c = c.g.flags)

/-! ### Integer instructions (R185 to R199) -/

/-- R186: operand A of lane `k`, element `e`. -/
def elemA (c : Ctx) (o : ExtOps) (k e : Nat) : BitVec (tyWidth o.ty) := elemOfWidth _ (c.opA o k) e

/-- R186: operand B of lane `k`, element `e`. -/
def elemB (c : Ctx) (o : ExtOps) (k e : Nat) : BitVec (tyWidth o.ty) := elemOfWidth _ (c.opB o k) e

/-- R190: the upper half of the product. -/
def upperHalf (sg : Bool) {w : Nat} (a b : BitVec w) : BitVec w :=
  if sg then BitVec.ofInt w (a.toInt * b.toInt / 2 ^ w) else BitVec.ofNat w (a.toNat * b.toNat / 2 ^ w)

/-- R198: the smaller, read by signedness. -/
def lesser (sg : Bool) {w : Nat} (a b : BitVec w) : BitVec w :=
  if (if sg then b.slt a else b.ult a) then b else a

/-- R198: the larger, read by signedness. -/
def greater (sg : Bool) {w : Nat} (a b : BitVec w) : BitVec w :=
  if (if sg then a.slt b else a.ult b) then b else a

/-- R197: the number of 1 bits among the low `n`. -/
def onesBelow {w : Nat} (a : BitVec w) : Nat → Nat
  | 0 => 0
  | n + 1 => onesBelow a n + (if a.getLsbD n then 1 else 0)

/-- R188, R190, R193, R194, R198: base instructions of two sources, d := d op a. -/
def baseTwo : List ((BaseOps → Instr) × (Word → Word → Word)) :=
  [(.addBase, fun d a => d + a), (.subBase, fun d a => d - a), (.mulBase, fun d a => d * a)
  , (.andBase, fun d a => d &&& a), (.orBase, fun d a => d ||| a), (.xorBase, fun d a => d ^^^ a)
  , (.andnBase, fun d a => d &&& ~~~a)
  , (.shlBase, fun d a => d <<< a.toNat), (.shrBase, fun d a => d >>> a.toNat)
  , (.sarBase, fun d a => d.sshiftRight a.toNat)
  , (.minI32Base, lesser true), (.maxI32Base, greater true)
  , (.minN32Base, lesser false), (.maxN32Base, greater false)]

/-- R176, R193, R197, R198: base instructions of one source, d := op a. -/
def baseOne : List ((BaseOps → Instr) × (Word → Word)) :=
  [(.movBase, fun a => a), (.notBase, fun a => ~~~a), (.negBase, fun a => -a)
  , (.absBase, fun a => if a.slt 0 then -a else a)
  , (.popcBase, fun a => BitVec.ofNat 32 (onesBelow a 32)), (.clzBase, fun a => a.clz)]

/-- R188, R190, R193, R194, R198: extended instructions of two sources that work element by element and raise no flag;
the function is given the signedness of the type. -/
def extTwo : List ((ExtOps → Instr) × (Bool → (w : Nat) → BitVec w → BitVec w → BitVec w)) :=
  [(.add, fun _ _ a b => a + b), (.sub, fun _ _ a b => a - b), (.mul, fun _ _ a b => a * b)
  , (.mulhi, fun sg _ a b => upperHalf sg a b)
  , (.and, fun _ _ a b => a &&& b), (.or, fun _ _ a b => a ||| b), (.xor, fun _ _ a b => a ^^^ b)
  , (.andn, fun _ _ a b => a &&& ~~~b)
  , (.shl, fun _ _ a b => a <<< b.toNat), (.shr, fun _ _ a b => a >>> b.toNat)
  , (.sar, fun _ _ a b => a.sshiftRight b.toNat)
  , (.rol, fun _ _ a b => a.rotateLeft b.toNat), (.ror, fun _ _ a b => a.rotateRight b.toNat)
  , (.min, fun sg _ a b => lesser sg a b), (.max, fun sg _ a b => greater sg a b)]

/-- R193, R197, R198: extended instructions of one source that work element by element and raise no flag. -/
def extOne : List ((ExtOps → Instr) × (Bool → (w : Nat) → BitVec w → BitVec w)) :=
  [(.not, fun _ _ a => ~~~a), (.neg, fun _ _ a => -a)
  , (.abs, fun sg _ a => if sg && a.msb then -a else a)
  , (.popc, fun _ w a => BitVec.ofNat w (onesBelow a w)), (.clz, fun _ _ a => a.clz)
  , (.ctz, fun _ _ a => a.ctz), (.brev, fun _ _ a => a.reverse)]

/-- The value of an element by the signedness of its type. -/
def elemInt (sg : Bool) {w : Nat} (a : BitVec w) : Int := if sg then a.toInt else (a.toNat : Int)

/-- R84: the least value of a signed or unsigned integer of `w` bits. -/
def leastInt (sg : Bool) (w : Nat) : Int := if sg then -(2 : Int) ^ (w - 1) else 0

/-- R84: the greatest value of a signed or unsigned integer of `w` bits. -/
def greatestInt (sg : Bool) (w : Nat) : Int := if sg then (2 : Int) ^ (w - 1) - 1 else (2 : Int) ^ w - 1

/-- R188: the clamp of an exact value, and whether it changed it. -/
def clampInt (sg : Bool) (w : Nat) (x : Int) : Int × Bool :=
  if x < leastInt sg w then (leastInt sg w, true)
  else if greatestInt sg w < x then (greatestInt sg w, true)
  else (x, false)

/-- R192: quotient and flag. -/
def divideInt (sg : Bool) {w : Nat} (a b : BitVec w) : BitVec w × Nat :=
  let x := elemInt sg a
  let y := elemInt sg b
  if y = 0 then (BitVec.allOnes w, if x = 0 then fNV else fDZ) else (BitVec.ofInt w (x.tdiv y), 0)

/-- R192: remainder and flag. -/
def remainderInt (sg : Bool) {w : Nat} (a b : BitVec w) : BitVec w × Nat :=
  let x := elemInt sg a
  let y := elemInt sg b
  if y = 0 then (a, if x = 0 then fNV else fDZ) else (BitVec.ofInt w (x - y * x.tdiv y), 0)

/-- R192: the divisions and their functions. -/
def longDivisions : List ((ExtOps → Instr) × (Bool → (w : Nat) → BitVec w → BitVec w → BitVec w × Nat)) :=
  [(.idiv, fun sg _ a b => divideInt sg a b), (.idiv64, fun sg _ a b => divideInt sg a b)
  , (.irem, fun sg _ a b => remainderInt sg a b), (.irem64, fun sg _ a b => remainderInt sg a b)]

/-- R130, R186: a long instruction that completes: the group holds an open long instruction on register `d`, or on the
pair `d`, with LK left in each issuing slice, whose results in the active lanes are `v`, and whose flags are `fl`. -/
def Opens (i : Instr) (s : State) (c : Ctx) (lk d n : Nat) (v : Nat → Nat) (fl : Nat) : Prop :=
  ∃ t g x, exec i s = .next t ∧ groupAfter t c = some g ∧ x ∈ g.longs ∧ x.reg = d ∧ x.nregs = n ∧ x.done = false
    ∧ (∀ k ∈ c.sl, x.rem.getD k 0 = lk)
    ∧ x.res = c.lanes.map (fun k => (k, (List.range n).map fun j => BitVec.ofNat 32 (v k / 2 ^ (32 * j))))
    ∧ x.flags = BitVec.ofNat 6 fl


/-! ### Moves between registers and lanes (R174 to R184) -/

/-- R180: the lane that a shuffle reads, and whether it lies outside its segment, for segment size `n`, lane `l` and B
operand `b`. -/
def shuffleFrom (mode n l : Nat) (b : Word) : Nat × Bool :=
  let base := l - l % n
  match mode with
  | 0 => (base + b.toNat % n, false)
  | 1 => (base + (((l % n : Nat) : Int) + b.toInt).emod n |>.toNat,
      decide (((l % n : Nat) : Int) + b.toInt < 0 ∨ (n : Int) ≤ ((l % n : Nat) : Int) + b.toInt))
  | 2 => (base + (n - 1 - l % n), false)
  | _ => (base + (l % n ^^^ b.toNat % n), false)

/-- R174: a cross-lane read of operand A: 0 from a lane that has exited. -/
def crossRead (c : Ctx) (o : ExtOps) (j : Nat) : Nat := if j ∈ liveLanes c.g then c.opA o j else 0

/-- R51, R52: operand B of a lane where it names a single register. -/
def wordB (c : Ctx) (o : ExtOps) (k : Nat) : Nat := modify o.b (tyWidth o.ty) (c.rd o.b.r.toNat k)

/-! ### Control flow (R137 to R150) -/

/-- A slice of the group that issued in context `c`, as state `t` holds it. -/
def sliceAfter (t : State) (c : Ctx) (k : Nat) : Option Slice := (groupAfter t c).bind fun g => g.slices[k]?

/-- The next address of a slice of the issuing sub-gang when execution falls through. -/
def fallsTo (c : Ctx) (x : Slice) : DWord := x.pc + BitVec.ofNat 64 (lenBytes c.instr)

/-- R138: what a guarded branch leaves in a slice: address, active mask and stack. `t` are the lanes of the active mask
whose guard passes. -/
def branchOutcome (forward : Bool) (target fall : DWord) (t : BitVec 4) (x : Slice) : DWord × BitVec 4 × List SEntry :=
  let n := x.act &&& ~~~t
  match forward, decide (t = 0), decide (n = 0), x.stack with
  | true, true, _, st => (fall, x.act, .rejoin x.act :: st)
  | true, false, true, st => (target, x.act, .rejoin x.act :: st)
  | true, false, false, st => (fall, n, .alt target t :: .rejoin x.act :: st)
  | false, true, _, st => (fall, x.act, st)
  | false, false, true, st => (target, x.act, st)
  | false, false, false, [] => (target, t, [.rejoin x.act])
  | false, false, false, st => (target, t, st)

/-- R139: what a pop leaves in a slice: address, active mask and stack; entries that have lost every lane are discarded. -/
def popOutcome (fall : DWord) (act : BitVec 4) : List SEntry → DWord × BitVec 4 × List SEntry
  | [] => (fall, act, [])
  | .rejoin m :: st => if m = 0 then popOutcome fall act st else (fall, m, st)
  | .alt a m :: st => if m = 0 then popOutcome fall act st else (a, m, st)

/-- R137, R140: what the exit of the lanes `off` leaves in a slice: address, active mask, stack and live mask. -/
def exitOutcome (fall : DWord) (off : BitVec 4) (x : Slice) : (DWord × BitVec 4 × List SEntry) × BitVec 4 :=
  let live := x.live &&& ~~~off
  let act := x.act &&& ~~~off
  let st := x.stack.map fun e => match e with
    | .rejoin m => .rejoin (m &&& live)
    | .alt a m => .alt a (m &&& live)
  (if act = 0 then popOutcome fall 0 st else (fall, act, st), live)

/-- The address, active mask and stack of a slice. -/
def Slice.path (x : Slice) : DWord × BitVec 4 × List SEntry := (x.pc, x.act, x.stack)

/-- R144: the lanes of slice `k` that are active. -/
def activeIn (c : Ctx) (k : Nat) : List Nat := actLanes c.g k

/-- R144: slice `k` of the sub-gang goes to `a`: every active lane passes the guard and names that aligned address. -/
def goesTo (c : Ctx) (addr : Nat → Nat) (k a : Nat) : Prop :=
  activeIn c k ≠ [] ∧ a % 4 = 0 ∧ ∀ j ∈ activeIn c k, j ∈ c.lanes ∧ addr j = a

/-- R144: slice `k` of the sub-gang falls through: no active lane passes the guard. -/
def staysAt (c : Ctx) (k : Nat) : Prop := ∀ j ∈ activeIn c k, j ∉ c.lanes

/-! ### Floating point (R85 to R112, R200 to R211) -/

/-- R85: the floating types that have encodings of their own. -/
def floatTypes : List Ty := [.f64, .f32, .f16, .bf16, .e4m3, .e5m2, .e2m1]

/-- The value ± m × 2^e, in units of 2^k, for k at most e. -/
def inUnits (k : Int) (neg : Bool) (m : Nat) (e : Int) : Int :=
  (if neg then -1 else 1) * ((m * 2 ^ (e - k).toNat : Nat) : Int)

/-- `x < y` for exact values given by sign, integer and exponent. -/
def exactLt (n : Bool) (m : Nat) (e : Int) (n' : Bool) (m' : Nat) (e' : Int) : Bool :=
  decide (inUnits (min e e') n m e < inUnits (min e e') n' m' e')

/-- R202, R203: `a < b` for two numbers, infinities among them; zeros of either sign are equal. -/
def numLt (a b : FVal) : Bool :=
  match a, b with
  | .nan _, _ | _, .nan _ => false
  | .inf n, .inf k => n && !k
  | .inf n, .fin .. => n
  | .fin .., .inf k => !k
  | .fin n m e, .fin n' m' e' => exactLt n m e n' m' e'

/-- R202: whether a value is a zero of sign `neg`. -/
def isZero (neg : Bool) : FVal → Bool
  | .fin n 0 _ => n == neg
  | _ => false

/-- R202: the lesser of two numbers comes first, -0 before +0. -/
def before (a b : FVal) : Bool := numLt a b || (isZero true a && isZero false b)

/-- R104: the sign of an exact zero that is the sum of two terms, of signs `n` and `n'`, zeros where `m` and `m'` are 0. -/
def zeroSign (mode : Nat) (n : Bool) (m : Nat) (n' : Bool) (m' : Nat) : Bool :=
  if m = 0 ∧ m' = 0 ∧ n = n' then n else mode == 3

/-- R103, R104: the rounded sum of two terms and its flags. -/
def sumOfTwo (ty : Ty) (mode : Nat) (a b : FVal) : Nat × Nat :=
  match a, b with
  | .nan s, .nan t => (canonNan ty, if s || t then fNV else 0)
  | .nan s, _ | _, .nan s => (canonNan ty, if s then fNV else 0)
  | .inf n, .inf k => if n = k then (infBits ty n, 0) else (canonNan ty, fNV)
  | .inf n, _ | _, .inf n => (infBits ty n, 0)
  | .fin n m e, .fin n' m' e' =>
    let k := min e e'
    let x := inUnits k n m e + inUnits k n' m' e'
    if x = 0 then (zeroBits ty (zeroSign mode n m n' m'), 0) else roundF ty mode false (x < 0) x.natAbs k

/-- R201, R103: the exact product of two values: NaN (and whether NV follows), infinity or number. -/
def exactProduct (a b : FVal) : FVal × Bool :=
  match a, b with
  | .nan s, .nan t => (.nan (s || t), false)
  | .nan s, _ | _, .nan s => (.nan s, false)
  | .inf n, .inf k => (.inf (n != k), false)
  | .inf n, .fin k m _ | .fin k m _, .inf n => if m = 0 then (.nan false, true) else (.inf (n != k), false)
  | .fin n m e, .fin k l d => (.fin (n != k) (m * l) (e + d), false)

/-- R201: the rounded product. -/
def productOf (ty : Ty) (mode : Nat) (a b : FVal) : Nat × Nat :=
  match exactProduct a b with
  | (.nan s, nv) => (canonNan ty, if s || nv then fNV else 0)
  | (.inf n, _) => (infBits ty n, 0)
  | (.fin n m e, _) => if m = 0 then (zeroBits ty n, 0) else roundF ty mode false n m e

/-- R201: the fused multiply and add: one rounding of the exact product and sum. -/
def fusedOf (ty : Ty) (mode : Nat) (a b d : FVal) : Nat × Nat :=
  match exactProduct a b, d with
  | (.nan s, true), .nan t => (canonNan ty, fNV ||| (if s || t then fNV else 0))
  | (.nan s, true), _ => (canonNan ty, fNV ||| (if s then fNV else 0))
  | (p, _), d => sumOfTwo ty mode p d

/-- R99, R186: the flags of every element of every lane, together. -/
def allFlags (c : Ctx) (w : Nat) (f : Nat → Nat → Nat × Nat) : Nat :=
  orFlags (c.lanes.map fun k => orFlags ((List.range (elemCount w)).map fun e => (f k e).2))

/-- R186, R200: an instruction completes with a value and flags for each element of each lane. -/
def CompletesWithFlags (i : Instr) (s : State) (c : Ctx) (w d : Nat) (f : Nat → Nat → Nat × Nat) : Prop :=
  CompletesBy i s c w d (fun k e => BitVec.ofNat w (f k e).1) (allFlags c w f)

/-- R201, R204: floating instructions of two sources and what they compute of two encodings, in a rounding mode. -/
def floatTwo : List ((ExtOps → Instr) × (Ty → Nat → Nat → Nat → Nat × Nat)) :=
  [(.fadd, fun ty m a b => sumOfTwo ty m (decodeF ty a) (decodeF ty b))
  , (.faddD, fun ty m a b => sumOfTwo ty m (decodeF ty a) (decodeF ty b))
  , (.fsub, fun ty m a b => sumOfTwo ty m (decodeF ty a) (decodeF ty b).negate)
  , (.fsubD, fun ty m a b => sumOfTwo ty m (decodeF ty a) (decodeF ty b).negate)
  , (.fmul, fun ty m a b => productOf ty m (decodeF ty a) (decodeF ty b))
  , (.fmulD, fun ty m a b => productOf ty m (decodeF ty a) (decodeF ty b))]

/-- R201: base floating instructions of two sources, in RNE. -/
def floatBase : List ((BaseOps → Instr) × (Nat → Nat → Nat × Nat)) :=
  [(.faddBase, fun a b => sumOfTwo .f32 0 (decodeF .f32 a) (decodeF .f32 b))
  , (.fsubBase, fun a b => sumOfTwo .f32 0 (decodeF .f32 a) (decodeF .f32 b).negate)
  , (.fmulBase, fun a b => productOf .f32 0 (decodeF .f32 a) (decodeF .f32 b))]

/-- R202: `fmin` (`big` false) or `fmax` of two encodings. -/
def extremeOf (ty : Ty) (big : Bool) (a b : Nat) : Nat × Nat :=
  let x := decodeF ty a
  let y := decodeF ty b
  (if x.isNan ∧ y.isNan then canonNan ty else if x.isNan then b else if y.isNan then a
    else if (if big then before x y else before y x) then b else a,
   if x.isSnan || y.isSnan then fNV else 0)

/-- R203: whether a predicate of `fcmp` holds. -/
def predicateHolds (pred : Nat) (x y : FVal) : Bool :=
  let un := x.isNan || y.isNan
  match pred with
  | 0 => !un && !numLt x y && !numLt y x
  | 1 => numLt x y
  | 2 => !un && !numLt y x
  | 3 => un
  | 4 => un || numLt x y || numLt y x
  | 5 => !un && !numLt x y
  | 6 => numLt y x
  | _ => !un

/-- R204: `fneg` of an encoding of `w` bits. -/
def negatedOf (ty : Ty) (w a : Nat) : Nat × Nat :=
  if (decodeF ty a).isNan then (canonNan ty, if (decodeF ty a).isSnan then fNV else 0)
  else ((BitVec.ofNat w a ^^^ BitVec.twoPow w (w - 1)).toNat, 0)

/-- R204: `fsgn` of encodings of `w` bits. -/
def signedAs (ty : Ty) (w a b : Nat) : Nat × Nat :=
  if (decodeF ty a).isNan then (canonNan ty, if (decodeF ty a).isSnan then fNV else 0)
  else (((BitVec.ofNat w a &&& ~~~BitVec.twoPow w (w - 1)) ||| (BitVec.ofNat w b &&& BitVec.twoPow w (w - 1))).toNat, 0)

/-- R205: the class of an encoding, by its fields. -/
def classOf (ty : Ty) (a : Nat) : Nat :=
  let f := fmtOf ty
  let m := a % 2 ^ f.mb
  let e := a / 2 ^ f.mb % 2 ^ f.eb
  let neg := a / 2 ^ (f.mb + f.eb) % 2 = 1
  if e = 2 ^ f.eb - 1 ∧ f.inf = true then
    if m = 0 then (if neg then 0 else 7) else if m / 2 ^ (f.mb - 1) = 0 then 8 else 9
  else if e = 2 ^ f.eb - 1 ∧ f.nan = true ∧ m = 2 ^ f.mb - 1 then 9
  else if e = 0 then
    if m = 0 then (if neg then 3 else 4) else if neg then 2 else 5
  else if neg then 1 else 6

/-- R206: `fexpo` of an encoding, in `w` bits. -/
def exponentOf (ty : Ty) (w a : Nat) : BitVec w × Nat :=
  match decodeF ty a with
  | .nan _ => (BitVec.intMin w, fNV)
  | .inf _ => (BitVec.intMax w, fNV)
  | .fin _ m e => if m = 0 then (BitVec.intMin w, fDZ) else (BitVec.ofInt w (e + (m.log2 : Int)), 0)

/-- R207: `fscale` by 2^k. -/
def scaledOf (ty : Ty) (mode a : Nat) (k : Int) : Nat × Nat :=
  match decodeF ty a with
  | .nan sg => (canonNan ty, if sg then fNV else 0)
  | .inf _ => (a, 0)
  | .fin n m e => if m = 0 then (a, 0) else roundF ty mode false n m (e + k)

/-- R95 step 2 with q = 0: the integer that the mode picks for the magnitude m × 2^e of sign `neg`, and whether it is
exact. -/
def integerRounding (mode : Nat) (neg : Bool) (m : Nat) (e : Int) : Nat × Bool :=
  let x := m * 2 ^ (e - min e 0).toNat
  let u := 2 ^ (-(min e 0)).toNat
  let lo := x / u
  let r := x % u
  (if r = 0 then lo
    else match mode with
      | 0 => if 2 * r < u then lo else if u < 2 * r then lo + 1 else lo + lo % 2
      | 1 => lo
      | 2 => if neg then lo else lo + 1
      | 3 => if neg then lo + 1 else lo
      | _ => if 2 * r < u then lo else lo + 1,
   r == 0)

/-- R207: `frnd` of an encoding. -/
def integralOf (ty : Ty) (mode a : Nat) : Nat × Nat :=
  match decodeF ty a with
  | .nan sg => (canonNan ty, if sg then fNV else 0)
  | .inf _ => (a, 0)
  | .fin n m e =>
    let r := integerRounding mode n m e
    if m = 0 then (a, 0) else (packF ty n r.1 0, if r.2 then 0 else fNX)

/-- R105 to R107: `fcvt` of a value to a type. -/
def convertedTo (ty : Ty) (mode : Nat) (sat : Bool) (v : FVal) : Nat × Nat :=
  match v with
  | .nan sg => if ty = .e2m1 then (0, fNV) else (canonNan ty, if sg then fNV else 0)
  | .inf n =>
    if ty = .e2m1 ∨ (ty = .e4m3 ∧ sat) then (maxBits ty n, fNV)
    else if ty = .e4m3 then (canonNan ty, fNV)
    else (infBits ty n, 0)
  | .fin n m e => if m = 0 then (zeroBits ty n, 0) else roundF ty mode sat n m e

/-- R109: `icvt` of an integer. -/
def floatFrom (ty : Ty) (mode : Nat) (n : Int) : Nat × Nat :=
  if n = 0 then (0, 0) else roundF ty mode false (n < 0) n.natAbs 0

/-- R108: the result and flags of `fcvti`, given the integer `v` to which a finite value rounds and whether it is exact. -/
def integerFrom (ty : Ty) (sat : Bool) (v : Int) (exact : Bool) : BitVec (tyWidth ty) × Nat :=
  let c := clampInt (tySigned ty) (tyWidth ty) v
  (BitVec.ofInt _ c.1, if c.2 then (if sat then fSI else fNV) else if exact then 0 else fNX)

/-- R90, R108: `fcvti` of a value. -/
def integerOf (ty : Ty) (mode : Nat) (sat : Bool) (v : FVal) : BitVec (tyWidth ty) × Nat :=
  let bad := if sat then fSI else fNV
  match v with
  | .nan sg => (0, bad ||| (if sg then fNV else 0))
  | .inf n => (BitVec.ofInt _ (if n then leastInt (tySigned ty) (tyWidth ty) else greatestInt (tySigned ty) (tyWidth ty)), bad)
  | .fin n m e =>
    let r := integerRounding mode n m e
    integerFrom ty sat (if n then -(r.1 : Int) else (r.1 : Int)) r.2

/-- R209: source element of a conversion for element `e` of its result. -/
def convElem (c : Ctx) (o : ExtOps) (k e : Nat) : BitVec (tyWidth (srcTy o)) :=
  elemOfWidth _ (c.convSrc o k) (e % elemCount (tyWidth (srcTy o)))

/-! ### Exceptions (R396 to R410) -/

/-- R403: the synchronous causes and their codes, highest priority first. -/
def causeTable : List (Cause × Nat) :=
  [(.fetch, 0x0D), (.ill, 0x01), (.lkv, 0x02), (.dstk, 0x15), (.regx, 0x03), (.nuni, 0x04), (.tlim, 0x13), (.misa, 0x05)
  , (.tspan, 0x09), (.perm, 0x06), (.xlat, 0x07), (.own, 0x08), (.ecc, 0x0E), (.barm, 0x0A), (.bovf, 0x0B), (.qerr, 0x0C)
  , (.sysc, 0x0F)]

/-- R403: `x` stands no lower than `y`. -/
def noLower (x y : Cause) : Prop := (causeTable.map (·.1)).idxOf x ≤ (causeTable.map (·.1)).idxOf y

/-- R403: the code of a cause. -/
def codeOf (x : Cause) : Nat := ((causeTable.find? fun y => y.1 == x).map (·.2)).getD 0

/-- R404: the highest cause of a list. -/
def highestOf (cs : List LaneCause) (x : Cause) : Prop := (∃ y ∈ cs, y.2.1 = x) ∧ ∀ y ∈ cs, noLower x y.2.1

/-- R404: the highest cause that lane `k` meets. -/
def laneCause (cs : List LaneCause) (k : Nat) (x : Cause) : Prop :=
  (∃ a, (k, x, a) ∈ cs) ∧ ∀ y ∈ cs, y.1 = k → noLower x y.2.1

/-- The block that issued in context `c`, as state `t` holds it. -/
def blockAfter (t : State) (c : Ctx) : Option Block := tget t.blocks c.bid

/-- R407, R40: a slice in handler state, from the slice that it was; the low two bits of a program counter read 0. -/
def inHandler (entry : DWord) (x y : Slice) : Prop :=
  if x.live = 0 then y = x
  else y.pc = entry &&& ~~~(3 : DWord) ∧ y.act = x.live ∧ y.live = x.live ∧ y.stack = [] ∧ y.wait = .none

/-! ### The resolution path (R212 to R247) -/

/-- R231, R235: the instructions of the resolution path that compute one function: constructor, sub-opcode, and whether they
take two operands. -/
def resolvedOps : List ((ExtOps → Instr) × Nat × Bool) :=
  [(.fdiv, 0, true), (.frcp, 1, false), (.fsqrt, 2, false), (.frsqrt, 3, false), (.fexp, 4, false), (.fexp2, 5, false)
  , (.fexpm1, 6, false), (.flog, 7, false), (.flog2, 8, false), (.flog1p, 9, false), (.fsin, 10, false), (.fcos, 11, false)
  , (.ftan, 12, false), (.fsinpi, 13, false), (.fcospi, 14, false), (.fatan, 15, false), (.fhypot, 16, true), (.fpow, 17, true)
  , (.fdivD, 0, true), (.frcpD, 1, false), (.fsqrtD, 2, false), (.frsqrtD, 3, false), (.fexpD, 4, false), (.fexp2D, 5, false)
  , (.fexpm1D, 6, false), (.flogD, 7, false), (.flog2D, 8, false), (.flog1pD, 9, false), (.fsinD, 10, false)
  , (.fcosD, 11, false), (.ftanD, 12, false), (.fsinpiD, 13, false), (.fcospiD, 14, false), (.fatanD, 15, false)]

/-- R220 item 3: whether an instruction of sub-opcode `sub` needs an exact ticket. -/
def needsTicket (ty : Ty) (sub : Nat) : Bool := ty == .f64 && decide (4 ≤ sub) && decide (sub ≤ 15)

/-- The words of a value of `n` registers. -/
def wordsOfValue (n v : Nat) : List Word := (List.range n).map fun j => BitVec.ofNat 32 (v / 2 ^ (32 * j))

/-- R227, R235: the instruction opens a long instruction of record need `need` on the `n` registers from `d`, with LK left
in each issuing slice. Element `e` of width `w` of lane `k` gets `f k e`: at fast completion, or, if its lane is in a park
record, when that record settles; and so do the flags. -/
def OpensResolved (i : Instr) (s : State) (c : Ctx) (lk d n need w : Nat) (f : Nat → Nat → Nat × Nat) : Prop :=
  ∃ t g x, ∃ v : Nat → Nat, exec i s = .next t ∧ groupAfter t c = some g ∧ x ∈ g.longs ∧ x.done = false ∧ x.reg = d ∧ x.nregs = n
    ∧ x.need = need ∧ (∀ k ∈ c.sl, x.rem.getD k 0 = lk)
    ∧ (∀ k ∈ c.lanes, ∀ e < elemCount w, elemOfWidth w (v k) e = BitVec.ofNat w (f k e).1)
    ∧ (∀ k ∈ c.lanes, (∀ r ∈ x.parks, k ∉ r.lanes) → (k, wordsOfValue n (v k)) ∈ x.res)
    ∧ (∀ k ∈ c.lanes, ∀ r ∈ x.parks, k ∈ r.lanes → r.dreg = d ∧ (k, wordsOfValue n (v k)) ∈ r.values)
    ∧ x.parks.foldl (fun a r => a ||| r.flags) x.flags = BitVec.ofNat 6 (allFlags c w f)

/-- R220: the places of a block's park queue that records occupy or instructions have reserved. -/
def placesTaken (k : Block) : Nat :=
  (k.x.park.map fun r => r.places.length).sum
    + ((k.groups.flatMap fun g => g.2.longs.filter fun x => !x.done).map fun x => min x.need k.cap).sum

/-- R220: the records of the park allowance that a block holds: those its instructions have reserved, or that wait for a place once
these are written in part, and those of its records that are not admitted. -/
def allowanceTaken (k : Block) : Nat :=
  ((k.groups.flatMap fun g => g.2.longs.filter fun x => !x.done).map fun x =>
      if x.need = 0 then (x.parks.map fun r => r.imgs.length).sum else x.need).sum
    + ((k.x.park.filter fun r => r.stage == 0).map fun r => r.places.length).sum

/-- R220: the exact tickets that a block holds, each once. -/
def ticketsTaken (k : Block) : Nat :=
  ((k.groups.flatMap fun g => (g.2.longs.filter fun x => !x.done).filterMap LongX.ticket)
    ++ k.x.park.filterMap ParkRec.ticket).eraseDups.length

/-- R220: the conditions under which an instruction of record need `r` is ready: places in its block's park queue, records of its
core's allowance of 384 and, where it needs one, a ticket of its core's 128. -/
def RecordRoom (c : Ctx) (r : Nat) (ticket : Prop) : Prop :=
  let ks := (c.s.blocks.filter fun x => x.2.core == c.b.core).map (·.2)
  placesTaken c.b + min r c.b.cap ≤ c.b.cap ∧ (ks.map allowanceTaken).sum + r ≤ 384
    ∧ (ticket → (ks.map ticketsTaken).sum < 128)

/-- R8, R130: the instruction issues: each slice of its sub-gang stands after it, with its lanes and stack, and no register has
changed yet. -/
def MovesOn (i : Instr) (s : State) (c : Ctx) : Prop :=
  ∃ t, exec i s = .next t ∧ (∀ r k, k < 32 → r ∉ c.use.kills → regAfter t c r k = c.rd r k)
    ∧ ∀ k ∈ c.sl, ∀ x, c.g.slices[k]? = some x →
      ∃ y, sliceAfter t c k = some y ∧ Slice.path y = (x.pc + BitVec.ofNat 64 (lenBytes i), x.act, x.stack)

/-- R85: the encoding of 1. -/
def oneBits (ty : Ty) : Nat := (fmtOf ty).bias * 2 ^ (fmtOf ty).mb

/-- R235, R236: the quotient of two values, rounded once: 200 quotient bits below the integer part, and one that says
whether anything is left. -/
def quotientOf (ty : Ty) (mode : Nat) (a b : FVal) : Nat × Nat :=
  match a, b with
  | .nan s, .nan t => (canonNan ty, if s || t then fNV else 0)
  | .nan s, _ | _, .nan s => (canonNan ty, if s then fNV else 0)
  | .inf _, .inf _ => (canonNan ty, fNV)
  | .inf n, .fin k _ _ => (infBits ty (n != k), 0)
  | .fin n _ _, .inf k => (zeroBits ty (n != k), 0)
  | .fin n m e, .fin k l d =>
    if l = 0 then (if m = 0 then (canonNan ty, fNV) else (infBits ty (n != k), fDZ))
    else if m = 0 then (zeroBits ty (n != k), 0)
    else roundF ty mode false (n != k) (2 * (m * 2 ^ 200 / l) + (if m * 2 ^ 200 % l = 0 then 0 else 1)) (e - d - 201)

/-- A value whose sign is that of a NaN result's flag: whether a value is a signalling NaN. -/
def signals : FVal → Bool
  | .nan s => s
  | _ => false

/-- R103, R104: the exact sum of terms, rounded once. -/
def sumOfTerms (ty : Ty) (mode : Nat) (ts : List FVal) : Nat × Nat :=
  let infinite := fun n => ts.any fun t => t == FVal.inf n
  if ts.any FVal.isNan then (canonNan ty, if ts.any signals then fNV else 0)
  else if infinite true && infinite false then (canonNan ty, fNV)
  else if infinite true then (infBits ty true, 0)
  else if infinite false then (infBits ty false, 0)
  else
    let k := ts.foldl (fun k t => match t with
      | .fin _ _ e => min k e
      | _ => k) 0
    let x : Int := (ts.map fun t => match t with
      | .fin n m e => inUnits k n m e
      | _ => 0).sum
    if x = 0 then
      (zeroBits ty (if ts ≠ [] ∧ ts.all (isZero true) = true then true
        else if ts.all (isZero false) = true then false else mode == 3), 0)
    else roundF ty mode false (x < 0) x.natAbs k

/-- R237, R238: the exact sum of terms and of products, rounded once; a product of 0 and an infinity is an invalid NaN. -/
def sumOfProducts (ty : Ty) (mode : Nat) (ps : List (FVal × FVal)) (ts : List FVal) : Nat × Nat :=
  let qs := ps.map fun p => exactProduct p.1 p.2
  if qs.any (·.2) then (canonNan ty, fNV) else sumOfTerms ty mode (qs.map (·.1) ++ ts)

/-- R239: `x` is the extreme of the numbers among `xs`. -/
def extremeAmong (ty : Ty) (w : Nat) (big : Bool) (xs : List (BitVec w)) (x : BitVec w) : Prop :=
  if tyInt ty then x ∈ xs ∧ ∀ y ∈ xs, if big then elemInt (tySigned ty) y ≤ elemInt (tySigned ty) x
    else elemInt (tySigned ty) x ≤ elemInt (tySigned ty) y
  else
    let num := fun (y : BitVec w) => (decodeF ty y.toNat).isNan = false
    if ∀ y ∈ xs, ¬num y then x = BitVec.ofNat w (canonNan ty)
    else x ∈ xs ∧ num x ∧ ∀ y ∈ xs, num y →
      if big then before (decodeF ty x.toNat) (decodeF ty y.toNat) = false
      else before (decodeF ty y.toNat) (decodeF ty x.toNat) = false

/-! ### Accesses (R248 to R279, R320 to R367) -/

/-- R4: the `n` little-endian bytes of a value. -/
def bytesOf (n v : Nat) : List Byte := (List.range n).map fun j => BitVec.ofNat 8 (v / 2 ^ (8 * j))

/-- R360: the accesses that are in `t` and not in `s`, which stand after those of `s`. -/
def issuedAccesses (s t : State) : List Access := t.accesses.drop s.accesses.length

/-- R327: access `a` serves lane `k` with the `n` bytes at `at_`; where it writes, they become `d`. -/
def Serves (a : Access) (k at_ n : Nat) (d : Option (List Byte)) : Prop :=
  ∃ j, a.lanes[j]? = some k ∧ a.len = n * a.lanes.length ∧ a.addr + n * j = at_
    ∧ match d with
      | none => a.op = .read
      | some y => ∃ x, a.op = .write x ∧ x.length = a.len ∧ (x.drop (n * j)).take n = y

/-- No register of the issuer changes, those that the instruction kills apart. -/
def RegistersKept (t : State) (c : Ctx) : Prop := ∀ r k, k < 32 → r ∉ c.use.kills → regAfter t c r k = c.rd r k

/-- No byte of a block's space, and none of physical memory, changes. -/
def BytesKept (s t : State) : Prop :=
  t.mem = s.mem ∧ ∀ b k, tget s.blocks b = some k → ∃ k', tget t.blocks b = some k' ∧ k'.scr = k.scr

/-- R360, R130: the instruction issues one access for each lane, or one for several, of which `Q` holds; what they read goes to
the `n` registers from `d` through a long instruction that the accesses name. Bytes and registers stay as they are. -/
def IssuesAccesses (i : Instr) (s : State) (c : Ctx) (dst : Option (Nat × Nat)) (Q : Nat → Access → Prop) : Prop :=
  ∃ t, exec i s = .next t ∧ BytesKept s t ∧ RegistersKept t c
    ∧ t.accesses.take s.accesses.length = s.accesses
    ∧ (∀ k ∈ c.lanes, ∃ a ∈ issuedAccesses s t, Q k a)
    ∧ (∀ a ∈ issuedAccesses s t, a.b = c.bid ∧ a.party = c.party ∧ s.nextId ≤ a.id ∧ ∀ k ∈ a.lanes, k ∈ c.lanes)
    ∧ (∀ d n, dst = some (d, n) → ∃ g x, groupAfter t c = some g ∧ x ∈ g.longs ∧ x.reg = d ∧ x.nregs = n ∧ x.done = false
        ∧ x.res = [] ∧ ∀ a ∈ issuedAccesses s t, a.long = some x.id)
    ∧ (dst = none → ∀ a ∈ issuedAccesses s t, a.long = none)

/-- R52, R275: the number of registers of a result. -/
def regCount (o : ExtOps) : Nat := if ty64 o.ty then 2 else 1

/-- R275: the bytes that a full access of a type moves. -/
def fullBytes (o : ExtOps) : Nat := if ty64 o.ty then 8 else 4

/-- R249: the scratchpad address of a lane. -/
def scratchAddr (c : Ctx) (o : ExtOps) (k : Nat) : Nat := (BitVec.ofNat 32 (c.rd o.a.r.toNat k) + o.imm.signExtend 32).toNat

/-- R277: the scratchpad address of an atomic: an unsigned offset of 10 bits. -/
def atomicAddr (c : Ctx) (o : ExtOps) (k : Nat) : Nat :=
  (BitVec.ofNat 32 (c.rd o.a.r.toNat k) + (o.imm.setWidth 10).setWidth 32).toNat

/-- R275, R276: `lds`, `sts`, `ldsg` and `stss`: bytes, signedness of what is read, what is stored, destination. -/
def scratchMoves : List ((ExtOps → Instr) × (ExtOps → Nat) × (ExtOps → Bool) × (Ctx → ExtOps → Nat → Option Nat)
    × (ExtOps → Option (Nat × Nat))) :=
  [(.lds, fullBytes, fun _ => false, fun _ _ _ => none, fun o => some (o.d.toNat, regCount o))
  , (.sts, fullBytes, fun _ => false, fun c o k => some (c.opBReg o k), fun _ => none)
  , (.ldsg, fun o => tyWidth o.ty / 8, fun o => tySigned o.ty, fun _ _ _ => none, fun o => some (o.d.toNat, 1))
  , (.stss, fun o => tyWidth o.ty / 8, fun _ => false, fun c o k => some (c.rd o.b.r.toNat k), fun _ => none)]

/-- R277: `atoms`: operation code (8 exchange, 9 compare and swap), and the new value of `cas`. -/
def scratchAtomics : List ((ExtOps → Instr) × (ExtOps → Nat) × (Ctx → ExtOps → Nat → Nat)) :=
  [(.atomsOp, fun o => o.imm.toNat / 1024, fun _ _ _ => 0), (.atomsXchg, fun _ => 8, fun _ _ _ => 0)
  , (.atomsCas, fun _ => 9, fun c o k => c.rdTy o.ty o.c.r.toNat k)]

/-- R277, R391: the new value of an atomic: `a` is the old one, `b` the operand and `c` the new value of `cas`. -/
def atomicOf (sg : Bool) {w : Nat} (code : Nat) (a b c : BitVec w) : BitVec w :=
  match code with
  | 0 => a + b
  | 1 => lesser sg a b
  | 2 => greater sg a b
  | 3 => a &&& b
  | 4 => a ||| b
  | 5 => a ^^^ b
  | 6 => if b.ule a then 0 else a + 1
  | 7 => if a = 0 ∨ b.ult a then b else a - 1
  | 8 => b
  | _ => if a = b then c else a

/-- R275, R276: the words that a lane gets of the bytes it reads. -/
def laneWords (sg : Bool) (bs : List Byte) : List Word :=
  let v := ofBytes bs
  if bs.length = 8 then [BitVec.ofNat 32 v, BitVec.ofNat 32 (v / 2 ^ 32)]
  else if sg && decide (bs.length < 4) then [(BitVec.ofNat (8 * bs.length) v).signExtend 32]
  else [BitVec.ofNat 32 v]

/-- R130: what an access has read stands among the results of its long instruction, lane by lane. -/
def Delivered (s t : State) (a : Access) (bs : List Byte) : Prop :=
  ∀ k g x, tget s.blocks a.b = some k → tget k.groups a.party = some g → x ∈ g.longs → a.long = some x.id →
    x.done = false → a.lanes.Nodup → (∀ l ∈ a.lanes, ∀ r ∈ x.res, r.1 ≠ l) →
    ∃ k' g' x', tget t.blocks a.b = some k' ∧ tget k'.groups a.party = some g' ∧ x' ∈ g'.longs ∧ x'.id = x.id
      ∧ x'.reg = x.reg ∧ x'.done = false
      ∧ ∀ j l, a.lanes[j]? = some l →
          let n := bs.length / a.lanes.length
          (l, laneWords a.signed ((bs.drop (n * j)).take n)) ∈ x'.res

/-- The access that ACCESS_PERFORMS of name `x` is about, in a block that still has a live lane; its bytes have not been written. -/
def AccessOf (s : State) (x : Nat) (a : Access) : Prop :=
  s.accesses.find? (fun y => y.id == x) = some a ∧ a.queued = false ∧ a.landed = false ∧ (∀ q ∈ s.cores, ∀ y ∈ q.2.xfers, y.id ≠ x)
    ∧ ∃ k, tget s.blocks a.b = some k ∧ k.ended = false ∧ ∃ g ∈ k.groups, ∃ y ∈ g.2.slices, y.live ≠ 0

/-- R259, R266, R279: the ring slot at offset `a` can be reached now by an instruction that would name its accesses from `id`: its
pages are resident, and no copy or operand read that stands before it holds it. -/
def slotReady (k : Block) (id a : Nat) (wr : Bool) : Prop := slotFree k id a wr = true ∧ pagesIn k a 8 = true

/-- R279: the queue `n` of the block that issued. -/
def queueAfter (t : State) (c : Ctx) (n : Nat) : Option Queue := (blockAfter t c).map fun k => queueOf k n

/-- R271: a waiter joins a list: behind those that blocked before it, and in front of those of higher number that blocked in the same
cycle. -/
def Joins (w : Waiter) (ws ws' : List Waiter) : Prop :=
  ∃ l1 l2, ws = l1 ++ l2 ∧ ws' = l1 ++ w :: l2
    ∧ (∀ v, l2.head? = some v → v.since = w.since ∧ w.party < v.party)
    ∧ ∀ v ∈ l1, v.got = false → ¬(v.since = w.since ∧ w.party < v.party)

/-- R263, R353: the operands of `ldt` and `stt` agree: base and pitch in the lanes that take part, the descriptor in every live lane. -/
def sameTile (c : Ctx) (o : ExtOps) : Prop :=
  (∀ j ∈ c.lanes, ∀ k ∈ c.lanes, c.rd2 o.a.r.toNat j = c.rd2 o.a.r.toNat k ∧ c.rd o.c.r.toNat j = c.rd o.c.r.toNat k)
    ∧ ∀ j ∈ c.lanes ++ liveLanes c.g, ∀ k ∈ c.lanes ++ liveLanes c.g, c.rd2 o.b.r.toNat j = c.rd2 o.b.r.toNat k

/-- R320: the global address of a lane: pair A plus the literal, or IMM14 sign-extended. -/
def globalAddr (c : Ctx) (o : ExtOps) (k : Nat) : Nat :=
  (BitVec.ofNat 64 (c.rd2 o.a.r.toNat k) + o.lit.getD (o.imm.signExtend 64)).toNat

/-- R391: the global address of an atomic: pair A plus an unsigned offset of 10 bits. -/
def globalAtomicAddr (c : Ctx) (o : ExtOps) (k : Nat) : Nat :=
  (BitVec.ofNat 64 (c.rd2 o.a.r.toNat k) + (o.imm.setWidth 10).setWidth 64).toNat

/-- R321, R322: an aligned access of `n` bytes at `ea` reaches the physical address `pa` of memory on a page that grants what
it asks. -/
def Reaches (c : Ctx) (rd wr own : Bool) (ea n pa : Nat) : Prop :=
  ea % n = 0 ∧ ea < 2 ^ 57 ∧ (∃ l, translate c.s c.l.pasid ea = .ok l ∧ l.pa = pa ∧ l.ctx = false ∧ (rd = true → l.r = true)
    ∧ (wr = true → l.w = true))
  ∧ (physKind pa = .hbm ∨ physKind pa = .lpddr ∨ physKind pa = .host)
  ∧ (rd = true → poisoned c.s.mem.poison pa n = false)
  ∧ (own = true → c.l.det = true → inRange c.l.owns ea n = true)

/-- R350, R352, R390: `ld`, `ldacq`, `st` and `strel`: whether it stores, acquires and releases. -/
def globalMoves : List ((ExtOps → Instr) × Bool × Bool × Bool) :=
  [(.ld, false, false, false), (.ldacq, false, true, false), (.st, true, false, false), (.strel, true, false, true)]

/-- R372: scope and release of a plain `st`: revision 1 of the memory model strengthens them. -/
def storeOrder (c : Ctx) (o : ExtOps) : Nat × Bool := if c.l.mmrev = 1 then (max (scopeOf o) 3, true) else (scopeOf o, false)

/-- R391: `atom`: operation code, address, operand and the new value of `cas`. -/
def globalAtomics : List ((ExtOps → Instr) × (ExtOps → Nat) × (Ctx → ExtOps → Nat → Nat) × (Ctx → ExtOps → Nat → Nat)) :=
  [(.atomOp, fun o => o.imm.toNat / 1024, globalAtomicAddr, fun _ _ _ => 0)
  , (.atomXchg, fun _ => 8, fun c o k => c.rd2 o.a.r.toNat k, fun _ _ _ => 0)
  , (.atomCas, fun _ => 9, fun c o k => c.rd2 o.a.r.toNat k,
      fun c o k => c.rdTy o.ty (o.b.r.toNat + regCount o) k)]

/-- R361, R364: the bytes that an observer reads at physical ranges, where no exact target is live. -/
def viewOf (s : State) (v : Viewer) (rs : List (Nat × Nat)) : List Byte :=
  rs.flatMap fun r => (List.range r.2).map fun j => nearCell s.mem v (r.1 + j)

/-- R377: no exact target is live in these ranges. -/
def noTargets (s : State) (rs : List (Nat × Nat)) : Prop :=
  ∀ r ∈ rs, targetsAt s r.1 r.2 = [] ∧ ∀ j < r.2, targetsAt s (r.1 + j) 1 = []

/-- R361, R364, R366: bytes at the addresses of cells change to the cells' for the observers that see the write, and at their
homes; nothing else changes, nor does any byte for another observer. -/
def ViewWritten (s t : State) (sees : Viewer → Prop) (cells : List Host.Cell) : Prop :=
  (∀ v p, v.die < 4 → sees v → nearCell t.mem v p = cellAt cells p (nearCell s.mem v p))
  ∧ (∀ p, homeCell t.mem p = cellAt cells p (homeCell s.mem p))
  ∧ ∀ v p, v.die < 4 → ¬sees v → nearCell t.mem v p = nearCell s.mem v p

/-- R361, R366: who sees the write of an access as it performs: the observers of its block or cluster for these scopes, those of
its die for a wider one and for a write that a synchronisation engine makes. -/
def writeSeen (a : Access) (v : Viewer) : Prop :=
  match a.op with
  | .atomic .. | .redInt .. => v.die = a.die
  | _ => if a.scope = 1 then v.b = a.b else if a.scope = 2 then v.cl = clusterOfCore a.core else v.die = a.die

/-- R360: the physical addresses of an access, byte by byte. -/
def byteAddrs (a : Access) : List Nat := a.ranges.flatMap fun r => (List.range r.2).map fun j => r.1 + j

/-- R159: none of these bytes lies in the context image of a group that is resident on another core. -/
def offImages (s : State) (core : Nat) (as : List Nat) : Prop := ∀ a ∈ as, inPieces (imagePieces s (some core)) a = false

/-- R353: the rows and limits of an access that moves a tile. -/
def tileFits (rows rb pitch rc : Nat) : Prop := 0 < rb ∧ rb ≤ pitch ∧ 0 < rows ∧ (rc ≠ 0 → ∃ j, 5 ≤ j ∧ j ≤ 10 ∧ rb = 2 ^ j)

/-! ### Blocks, barriers and the matrix engine (R24 to R27, R280 to R319, R383 to R386) -/

/-- The keys of a table rise. -/
def Rises {α : Type} (t : Tab α) : Prop := (t.map (·.1)).Pairwise (· < ·)

/-- R15, R20: the groups of a block stand by rising number below 32, and have eight slices at most. -/
def GroupsInOrder (k : Block) : Prop := Rises k.groups ∧ ∀ g ∈ k.groups, g.1 < 32 ∧ g.2.slices.length ≤ 8

/-- R27: the block of a launch that has not ended, with a lane that has not exited. -/
def Alive (k : Block) : Prop := k.ended = false ∧ ∃ g ∈ k.groups, ∃ y ∈ g.2.slices, y.live ≠ 0

/-- R125: what the slices of the issuing sub-gang wait for. -/
def WaitFor (t : State) (c : Ctx) (w : Wait) : Prop := ∀ i ∈ c.sl, ∀ y, sliceAfter t c i = some y → y.wait = w

/-- R280, R311: a sequencer that `fork` starts at entry `e` with the file of group `g`; `lost` are registers that the
instruction kills. -/
def StartedAt (q : Seq) (e : Nat) (g : Group) (lost : List Nat) : Prop :=
  q.pc = BitVec.ofNat 64 e ∧ q.running = decide (e ≠ 0)
    ∧ ∀ r < 64, r ∉ lost → (q.regs.getD r 0).toNat = rdReg g r ((liveLanes g).headD 0)

/-- R306, R385: `a` stands ahead of `b` modulo 2^32. -/
def isAhead (a b : Nat) : Prop := 0 < (a + 2 ^ 32 - b) % 2 ^ 32 ∧ (a + 2 ^ 32 - b) % 2 ^ 32 < 2 ^ 31

/-- R287, R288: the lines of an operand image: 16 rows of 16 or 32 bytes. -/
def imageLines (t : Ty) : Nat := 16 * (if tyWidth t ≥ 32 then 16 else 32) / 128

/-- R288: the lines of a feeder group that a product reads. -/
def feederLines (o : ExtOps) : List Nat :=
  (List.range (imageLines o.ty)).map (o.a.r.toNat + ·) ++ (List.range (imageLines o.ty)).map (o.b.r.toNat + ·)
    ++ (if o.imm.getLsbD 9 then [o.c.r.toNat] else [])

/-- R287, R312: the products that reach element (i, j), one for each step of the depth. -/
def productsOf (m : MatOp) (ta tb : Ty) (i j : Nat) : List (FVal × Bool) :=
  (List.range (tileK ta)).map fun k =>
    exactProduct (matElem ta m.lutA (scaleAt m.scl 0 (scaleBlocks ta) i (k / 32)) (imageElem m.aImg ta i k))
      (matElem tb m.lutB (scaleAt m.scl 32 (scaleBlocks ta) j (k / 32)) (imageElem m.bImg tb j k))

/-- R293: the exact sum of finite products, at weight 2^-2176. -/
def sumUnits (ps : List (FVal × Bool)) : Int :=
  (ps.map fun p => match p.1 with
    | .fin n m e => inUnits (-2176) n m e
    | _ => 0).sum

/-- R292, R297 to R300: the exact value of an element, at weight 2^-2176: its window, or its entry in the store, and what
is on its way. -/
def elemExact (s : State) (k : Block) (b acc e : Nat) : Int :=
  let el := elemOf k acc e
  (if el.sp then entryOf s k.core b acc e else el.w * 2 ^ (el.a + 2176).toNat)
    + (((coreOf s k.core).spillQ.filter fun x => x.b == b && x.acc == acc && x.elem == e).map Contribution.val).sum

/-- R292, R295: a window that stands for its value, with anchor and flags as R294 allows them. -/
def ElemSound (el : Elem) : Prop := (el.av = false → el.w = 0 ∧ el.sp = false) ∧ (el.av = true → -2176 ≤ el.a)

/-- R292, R293: flags after the special terms among products. -/
def flagsWith (f : XFlags) (ps : List (FVal × Bool)) : XFlags :=
  { nan := f.nan || ps.any fun p => p.1.isNan
    inv := f.inv || ps.any (·.2)
    nvs := f.nvs || ps.any fun p => signals p.1
    pinf := f.pinf || ps.any fun p => p.1 == .inf false
    ninf := f.ninf || ps.any fun p => p.1 == .inf true
    zp := f.zp || ps.any fun p => isZero false p.1
    zn := f.zn || ps.any fun p => isZero true p.1 }

/-- R310: the first matrix instruction of a block, not yet acted and not stalled. -/
def FirstOp (k : Block) (m : Nat) (q : MatOp) : Prop :=
  (∃ rest, k.x.mops = q :: rest) ∧ q.id = m ∧ q.acted = false ∧ q.stalled = none

/-- R288: the word of lane `l` of feeder register `r`: 0 in an exited lane. -/
def feederWord (g : Group) (r l : Nat) : Nat := if l ∈ liveLanes g then rdReg g r l else 0

/-- R288: byte `b` of the image that begins at register `r` of a feeder group. -/
def feederByte (g : Group) (r b : Nat) : Byte :=
  BitVec.ofNat 8 (feederWord g (r + b / 128) (b % 128 / 4) / 2 ^ (8 * (b % 4)))

/-- R262: the fields of a descriptor pair: BASE, RC, RPITCH, TPITCH. -/
def descFields (v : Nat) : Nat × Nat × Nat × Nat :=
  (v % 2 ^ 20, v / 2 ^ 20 % 16, v / 2 ^ 32 % 2 ^ 16, v / 2 ^ 48 % 2 ^ 16)

/-- R258, R289: byte `o` of row `i` of tile `t` of a descriptor, for rows of `rb` bytes. -/
def tileByte (k : Block) (v t rb i o : Nat) : Byte :=
  let d := descFields v
  rdCell k.scr (rowAddr (d.1 + t * d.2.2.2) d.2.2.1 d.2.1 rb i o)

/-- R313: the 64 bytes of an element's record, with the offset of its tail. -/
def elemRecord (el : Elem) (tail : Nat) : List Byte :=
  let bit := fun (b : Bool) n => if b then 2 ^ n else 0
  bytesOf 48 (BitVec.ofInt 384 el.w).toNat ++ bytesOf 4 (BitVec.ofInt 32 el.a).toNat
    ++ bytesOf 4 (bit el.av 10 + bit el.sp 9 + bit el.fl.nan 8 + bit el.fl.inv 7 + bit el.fl.nvs 6 + bit el.fl.pinf 5
      + bit el.fl.ninf 4 + bit el.fl.zp 3 + bit el.fl.zn 2)
    ++ bytesOf 4 (if el.sp then tail else 0) ++ bytesOf 4 0

/-- R313: the number of spilled elements below `e`. -/
def spilledBelow (k : Block) (acc e : Nat) : Nat := ((List.range e).filter fun j => (elemOf k acc j).sp).length

/-- R313: the image of an accumulator: 256 records, then the tails of its spilled elements. -/
def imageOf (s : State) (k : Block) (b acc : Nat) : List Byte :=
  (List.range 256).flatMap (fun e => elemRecord (elemOf k acc e) (16384 + 576 * spilledBelow k acc e))
    ++ (List.range 256).flatMap fun e => if (elemOf k acc e).sp then
        bytesOf 544 (BitVec.ofInt 4352 (entryOf s k.core b acc e)).toNat ++ List.replicate 32 0 else []

/-- R294, R295, R313: an element that an image can hold: its window in 384 bits, its anchor among those that R294 can set. -/
def ElemFits (el : Elem) : Prop :=
  -(2 : Int) ^ 383 ≤ el.w ∧ el.w < 2 ^ 383
    ∧ if el.sp then el.a = -2176 else if el.av then -2148 ≤ el.a ∧ el.a ≤ 1814 else -(2 : Int) ^ 31 ≤ el.a ∧ el.a < 2 ^ 31

/-- The physical addresses of ranges, byte by byte. -/
def segAddrs (segs : List (Nat × Nat)) : List Nat := segs.flatMap fun r => (List.range r.2).map fun j => r.1 + j

/-- R297: the value of an element without special terms, by its window or its entry, and its flags. -/
def drained (s : State) (core b acc e : Nat) (ty : Ty) (mode : Nat) (sat : Bool) (el : Elem) : Nat × Nat :=
  let v := if el.sp then entryOf s core b acc e else el.w
  if v = 0 then
    let some_ := el.av || el.sp
    (zeroBits ty (if some_ then mode == 3 else if el.fl.zp && el.fl.zn then mode == 3 else el.fl.zn), 0)
  else roundF ty mode sat (v < 0) v.natAbs (if el.sp then -2176 else el.a)

/-! ### Transfers (R334 to R343, R355, R490) -/

/-- R336: what of a record, and of the dimension-0 origin of a `cpy`, raises TLIM. -/
def RecordOutOfForm (t : List Byte) (o0 : Int) : Prop :=
  (tsrAt t 12 4 ≠ 0 ∨ tsrAt t 36 4 ≠ 0 ∨ tsrAt t 82 14 ≠ 0 ∨ 16 ≤ tsrAt t 8 1 ∨ 16 ≤ tsrAt t 10 2)
    ∨ tsrRank t < 1 ∨ 5 < tsrRank t
    ∨ (∃ k < 5, tsrExt t k = 0 ∨ tsrBox t k = 0 ∨ (tsrRank t ≤ k ∧ (tsrExt t k ≠ 1 ∨ tsrBox t k ≠ 1)))
    ∨ (tyWidth (tsrTy t) = 4 ∧ (tsrBox t 0 % 2 ≠ 0 ∨ o0 % 2 ≠ 0))

/-- R336: a record whose base, or a stride below its rank, is not a multiple of the element size. -/
def RecordMisaligned (t : List Byte) : Prop :=
  tsrBase t % elemBytes (tsrTy t) ≠ 0 ∨ ∃ k < 5, k < tsrRank t ∧ tsrStr t k % elemBytes (tsrTy t) ≠ 0

/-- R335: a tensor shape record that the engine accepts: rank 1 to 5, extents and boxes not 0, 1 beyond the rank, reserved
fields 0, the base and strides aligned to the elements. -/
def RecordGood (t : List Byte) : Prop :=
  tsrAt t 12 4 = 0 ∧ tsrAt t 36 4 = 0 ∧ tsrAt t 82 14 = 0 ∧ tsrAt t 8 1 < 16 ∧ tsrAt t 10 2 < 16 ∧ 1 ≤ tsrRank t ∧ tsrRank t ≤ 5
    ∧ (∀ k < 5, tsrExt t k ≠ 0 ∧ tsrBox t k ≠ 0 ∧ (tsrRank t ≤ k → tsrExt t k = 1 ∧ tsrBox t k = 1))
    ∧ tsrBase t % elemBytes (tsrTy t) = 0 ∧ ∀ k < tsrRank t, tsrStr t k % elemBytes (tsrTy t) = 0

/-- R337: the index of box element `c` in dimension `k`. -/
def boxIndex (x : Xfer) (c : Nat → Nat) (k : Nat) : Int := x.org.getD k 0 + (c k : Int)

/-- R337: whether box element `c` lies in every extent. -/
def inExtents (x : Xfer) (c : Nat → Nat) : Prop := ∀ k < 5, 0 ≤ boxIndex x c k ∧ boxIndex x c k < (tsrExt x.tsr k : Int)

/-- R337: the global address of box element `c`, of `e` bytes. -/
def boxAddress (x : Xfer) (c : Nat → Nat) : Int :=
  (tsrBase x.tsr : Int) + boxIndex x c 0 * (elemBytes (tsrTy x.tsr) : Int) + boxIndex x c 1 * (tsrStr x.tsr 1 : Int)
    + boxIndex x c 2 * (tsrStr x.tsr 2 : Int) + boxIndex x c 3 * (tsrStr x.tsr 3 : Int) + boxIndex x c 4 * (tsrStr x.tsr 4 : Int)

/-- R337: the row of box element `c`, c1 fastest. -/
def boxRow (x : Xfer) (c : Nat → Nat) : Nat :=
  c 1 + tsrBox x.tsr 1 * (c 2 + tsrBox x.tsr 2 * (c 3 + tsrBox x.tsr 3 * c 4))

/-- R337: the unit that moves box element `c`, of a type with whole bytes. -/
def boxUnit (x : Xfer) (c : Nat → Nat) : Nat := boxRow x c * tsrBox x.tsr 0 + c 0

/-- R334: the transfer of this name, on the core of its block, started and with nothing that stalls it. -/
def Moving (s : State) (x : Nat) (y : Xfer) (k : Block) : Prop :=
  s.cores.findSome? (fun c => (c.2.xfers.find? fun y => y.id == x).map fun y => (c.1, y)) = some (k.core, y)
    ∧ tget s.blocks y.b = some k ∧ y.started = true ∧ y.stalled = none ∧ (y.dir = 1 → y.sourceRead = true)

/-- The units of a transfer that may move. -/
def movable (s : State) (k : Block) (y : Xfer) : List Nat := (List.range (unitCount y)).filter (unitMay s k y)

/-! ### The host interface, the front end and power (R411 to R473) -/

/-- R433, R442, R450 to R454, R467: registers that hold what is written to them: BAR0 offset, width in bytes and the bits
that can be written. -/
def plainRegs : List (Nat × Nat × Nat) :=
  [(0x008, 8, 2 ^ 52 - 1), (0x020, 8, (2 ^ 22 - 1) * 2 ^ 30), (0x028, 8, (2 ^ 40 - 1) * 2 ^ 12 + 1), (0x030, 4, 2 ^ 20 - 1)
  , (0x050, 8, (2 ^ 37 - 1) * 2 ^ 15 + 1), (0x90000C, 4, 2 ^ 12 - 1)]
  ++ (List.range 8).map (fun j => (0x100000 + 0x1000 * j, 4, 2 ^ 24 - 1))
  ++ (List.range 18).map fun k => (0xA00000 + 0x100 * k, 4, 2 ^ 32 - 1)

/-- R449 to R460: registers whose writing starts an action: BAR0 offset, width in bytes, and what begins. -/
def actionRegs : List (Nat × Nat × (BitVec 64 → List Event)) :=
  List.flatten [
    [(0x010, 4, fun v => List.flatten [if v.getLsbD 0 then [Event.fwVerify] else [], if v.getLsbD 1 then [Event.fwCommit] else []])],
    [(0x018, 8, fun v => [Event.attestationRequest v])],
    [(0x038, 8, fun v => [if v.getLsbD 3 then Event.invalidateAll v else Event.invalidateRange v])],
    [(0x05C, 4, fun v => [Event.prqTailWrite (v.setWidth 32)])],
    [(0x068, 8, fun v => [Event.dbgHalt v])],
    [(0x900010, 4, fun v => if v.getLsbD 31 then [Event.errLogOvfClear] else [])],
    (List.range 4).map fun d => (0x180000 + 0x1000 * d, 4, fun v => [Event.islandControlWrite d (v.setWidth 32)]),
    (List.range 4).map fun d => (0x180004 + 0x1000 * d, 4, fun v => [Event.operatingPointRequest d (v.setWidth 32)]),
    (List.range 4).map fun d => (0x180008 + 0x1000 * d, 4, fun v => if v.getLsbD 30 then [Event.deniedClear d] else []),
    (List.range 4).map fun d => (0x800000 + 0x1000 * d, 8, fun v => if v.getLsbD 63 then [Event.seCollClear d] else [])]

/-- R421, R491: an entry is appended to the error log, or counted as dropped where the log is full. -/
def Logs (s t : State) (type unit loc addr detail : Nat) : Prop :=
  let l := s.front.l
  if l.errHead + 1 = l.errTail then
    t.front.l = { l with errOvf := true, errDrop := if l.errDrop = 0xFFFF then l.errDrop else l.errDrop + 1 }
  else
    t.front.l = { l with errHead := l.errHead + 1, errSeq := l.errSeq + 1 }
    ∧ physRead t (l.errBase.toNat + 32 * l.errHead.toNat) 32
      = bytesOf 2 type ++ bytesOf 2 unit ++ bytesOf 4 loc ++ bytesOf 8 (sref s) ++ bytesOf 8 addr
        ++ bytesOf 4 (l.errSeq.toNat + 1) ++ bytesOf 4 detail

/-- R461: a command of a queue completes: the head of the queue advances, and the completion record holds status, launch and
SREFT; the record lies on one run of physical bytes, outside the head, where no context image is resident and no exact target
live. -/
def CommandDone (s t : State) (q : Nat) (c : Cmd) (status id : Nat) : Prop :=
  ∀ pa, (∀ j < 16, devicePa (takeCommand s q) c.pasid (c.compl + j) = some (pa + j)) →
    pa + 16 ≤ qcbPa s q + 20 ∨ qcbPa s q + 24 ≤ pa →
    (∀ j < 16, inResidentImage (takeCommand s q) (pa + j) = false ∧ targetsAt s (pa + j) 1 = []) →
    physRead t pa 16 = bytesOf 2 status ++ bytesOf 2 0 ++ bytesOf 4 id ++ bytesOf 8 (sref s)
      ∧ qcb t q 20 4 = (qcb s q 20 4 + 1) % 2 ^ 32

/-- R461: a command is taken and completes later; `l` is its launch. -/
def CommandKept (s t : State) (q : Nat) (c : Cmd) (l : Option Nat) : Prop :=
  ∃ x, (runOf t q).cmds = (runOf s q).cmds ++ [x] ∧ x.kind = c.kind ∧ x.compl = c.compl ∧ x.bytes = c.bytes ∧ x.launch = l

/-- R229: a launch ends with a status: its blocks issue nothing more, or are gone; every other block stays as it is. -/
def LaunchEnded (s t : State) (l status : Nat) : Prop :=
  (∀ k ∈ t.blocks, k.2.launch = l → k.2.ended = true)
  ∧ (∀ b k, tget s.blocks b = some k → k.launch ≠ l → tget t.blocks b = some k)
  ∧ (tget t.launches l = none ∨ ∃ y, tget t.launches l = some y ∧ y.ending = some status)

/-- R396, R400: a group of a block has a recorded cause. -/
def GroupCause (t : State) (b gi code engine addr : Nat) : Prop :=
  ∃ k g r, tget t.blocks b = some k ∧ tget k.groups gi = some g ∧ g.cause = some r ∧ r.code = code ∧ r.engine = engine
    ∧ r.addr = addr

/-- R396, R400: the matrix sequencer of a block has a recorded cause. -/
def MatrixCause (t : State) (b code engine addr : Nat) : Prop :=
  ∃ k r, tget t.blocks b = some k ∧ k.mseq.cause = some r ∧ r.code = code ∧ r.engine = engine ∧ r.addr = addr

/-- R439: why an operating point of `f` MHz and `v` mV is denied: 3 a step runs, 2 out of range, 1 below the floor, which is
linear between the frequencies of the table; 0 if it is not. -/
def denialOf (k : Die) (f v : Nat) : Nat :=
  if k.opStep ≠ .idle then 3
  else if f < 800 ∨ 2000 < f ∨ v < 450 ∨ 950 < v then 2
  else
    let i := (f - 800) / 100
    let r := (f - 800) % 100
    let a := (k.vfloor.getD i 0).toNat
    let b := (k.vfloor.getD (i + 1) 0).toNat
    if 100 * v < (if r = 0 then 100 * a else a * (100 - r) + b * r) then 1 else 0

/-- A team of a core. -/
def teamAt (s : State) (c t : Nat) : Team := (coreOf s c).teams.getD t {}

/-! ### Encodings -/

/-- R40: words in address order as one number: word k stands at bits [32k + 31 : 32k]. -/
def wordsNat : List Nat → Nat
  | [] => 0
  | w :: ws => w + 2 ^ 32 * wordsNat ws

/-- R44 to R46: a source without modifiers. -/
def plain (r : BitVec 8) : Src := ⟨r, false, false, 0⟩

/-- R44 to R46: the operands of an extended instruction whose fields are all 0. -/
def noOps : ExtOps := ⟨none, 0, .rn, 0, plain 0, plain 0, plain 0, 0, false, .i32, none⟩

/-! ### Frames and invariants -/

/-- Base instructions of two registers that write registers and flags only. -/
def registerBase : List (BaseOps → Instr) := baseTwo.map (·.1) ++ baseOne.map (·.1) ++ floatBase.map (·.1) ++ [.fnegBase]

/-- Extended instructions that write registers and flags only. -/
def registerExt : List (ExtOps → Instr) :=
  [.mfs, .mov, .movi, .sel, .shfl, .bcast, .perm, .vote, .rdlane, .wrlane, .pack, .unpack, .swz, .add, .sub, .addc, .subb
  , .sadd, .ssub, .and, .or, .xor, .andn, .not, .lfn, .lfnD, .shl, .shr, .sar, .rol, .ror, .fsh, .bfx, .bfi, .popc, .clz
  , .ctz, .brev, .min, .max, .abs, .neg, .cmp, .mul, .mulhi, .mad, .madw, .dot4, .fadd, .fsub, .fmul, .fma, .fmin, .fmax
  , .fcmp, .fcvt, .icvt, .fcvti, .frnd, .fscale, .fcvtMx, .faddD, .fsubD, .fmulD, .fmaD, .fminD, .fmaxD, .fcmpD, .fcvtD
  , .icvtD, .fcvtiD, .frndD, .fscaleD, .fneg, .fsgn, .fclass, .fexpo]

/-- Long instructions of registers alone. -/
def registerLong : List (ExtOps → Instr) :=
  [.mul64, .mulhi64, .mad64, .idiv, .irem, .idiv64, .irem64] ++ resolvedOps.map (·.1)

/-- R137 to R150: instructions that move slices, and calls. -/
def controlForms (i : Instr) : Prop :=
  match i with
  | .nop _ | .bra .. | .braLiteral .. | .brx .. | .call .. | .calli _ | .ret .. | .jn | .regang | .yield | .sleep _ => True
  | _ => False

/-- What an instruction that is about its own party leaves as it was: memory and what is on its way there, translations,
launches, the front end, the dies, every other block, and in its own block the space, the other parties and what it shares, but
that a blocked pop learns of the registers that the instruction kills (R166). -/
def OthersKept (s t : State) (c : Ctx) : Prop :=
  t.mem = s.mem ∧ t.accesses = s.accesses ∧ t.chunks = s.chunks ∧ t.tlb = s.tlb ∧ t.ats = s.ats ∧ t.launches = s.launches
  ∧ t.front = s.front ∧ t.dies = s.dies ∧ t.time = s.time ∧ (∀ b, b ≠ c.bid → tget t.blocks b = tget s.blocks b)
  ∧ ∃ k, tget t.blocks c.bid = some k ∧ k.scr = c.b.scr ∧ k.pages = c.b.pages ∧ k.h = c.b.h
    ∧ (c.sq = none → k.x = (killWaiters c.b c.party c.use.kills).x) ∧ (c.sq ≠ none → k.x = c.b.x)
    ∧ (∀ g, g ≠ c.party → tget k.groups g = tget c.b.groups g)
    ∧ (c.party ≠ mseqParty → k.mseq = c.b.mseq) ∧ (c.party ≠ cseqParty → k.cseq = c.b.cseq)

/-- What of its own group such an instruction leaves as it was: quota, rounding mode, hint, pending lanes, fences, handler state
and frame, and the live lanes of every slice. -/
def GroupKept (t : State) (c : Ctx) : Prop :=
  c.sq = none → ∃ g, groupAfter t c = some g ∧ g.base = c.g.base ∧ g.ext = c.g.ext ∧ g.quota = c.g.quota ∧ g.drm = c.g.drm
    ∧ g.hint = c.g.hint ∧ g.pend = c.g.pend ∧ g.fences = c.g.fences ∧ g.fenceNo = c.g.fenceNo ∧ g.aside = c.g.aside
    ∧ g.frame = c.g.frame ∧ g.slices.map Slice.live = c.g.slices.map Slice.live

/-- Registers other than those that an instruction names as its destinations, or kills, keep their values, and so do the
destinations in lanes that take no part. -/
def DestinationsOnly (t : State) (c : Ctx) : Prop :=
  ∀ r k, k < 32 → r ∉ c.use.kills → (r ∉ c.use.writes ∨ (c.sq = none ∧ k ∉ c.lanes)) → regAfter t c r k = c.rd r k

/-- R322, R364: the form of physical memory: addresses rise, and no listed byte is 0. -/
def MemoryCanonical (s : State) : Prop := s.mem.wf = true

/-- The tables of blocks and cores list each once, in rising order. -/
def TablesRise (s : State) : Prop := Rises s.blocks ∧ Rises s.cores

/-- The issuer's block. -/
def issuerBlock : Issuer → Nat
  | .group b _ _ => b
  | .mseq b => b
  | .cseq b => b

/-- R369: whether what a fence covers has done what the fence waits for: performed at its scope, or, for a fence that covers
reads alone, read. -/
def Covered (s : State) (f : Fence) (i : Nat) : Prop :=
  if f.kind ∈ [0, 2, 3] then performedAt s i f.scope = true
  else (∀ a ∈ s.accesses, a.id = i → a.landed = true)
    ∧ ∀ q ∈ s.cores, ∀ x ∈ q.2.xfers, x.id = i → x.dir = 1 ∧ x.sourceRead = true

end Sys2Proof
end

