-- ==== Sys2Proof/Certificates/Slice0/Obligations.lean ====
section
/-!
DEFINITION. The statements for the provers.
-/

open Sys2Proof Sys2Proof.Machine

/-! ### Integer and logic instructions -/

/-- R188, R190, R193, R194, R198: a base instruction of two sources that is free to issue completes with d op a in D of every
lane that takes part, and raises no flag. -/
def Claims.BaseTwoSourceResults : Prop :=
  ∀ p ∈ baseTwo, ∀ (o : BaseOps) (s : State) (c : Ctx), Free (p.1 o) s c →
    CompletesBy (p.1 o) s c 32 o.d.toNat
      (fun k _ => p.2 (BitVec.ofNat 32 (c.rd o.d.toNat k)) (BitVec.ofNat 32 (c.rd o.a.toNat k))) 0

/-- R176, R193, R197, R198: the same for base instructions of one source. -/
def Claims.BaseOneSourceResults : Prop :=
  ∀ p ∈ baseOne, ∀ (o : BaseOps) (s : State) (c : Ctx), Free (p.1 o) s c →
    CompletesBy (p.1 o) s c 32 o.d.toNat (fun k _ => p.2 (BitVec.ofNat 32 (c.rd o.a.toNat k))) 0

/-- R188, R190, R193, R194, R198: an extended integer instruction of two sources completes with its function of A and B in
each element of D, by the width and signedness of its type. -/
def Claims.PackedTwoSourceResults : Prop :=
  ∀ p ∈ extTwo, ∀ (o : ExtOps) (s : State) (c : Ctx), Free (p.1 o) s c →
    CompletesBy (p.1 o) s c (tyWidth o.ty) o.d.toNat
      (fun k e => p.2 (tySigned o.ty) _ (elemA c o k e) (elemB c o k e)) 0

/-- R193, R197, R198: the same for one source. -/
def Claims.PackedOneSourceResults : Prop :=
  ∀ p ∈ extOne, ∀ (o : ExtOps) (s : State) (c : Ctx), Free (p.1 o) s c →
    CompletesBy (p.1 o) s c (tyWidth o.ty) o.d.toNat (fun k e => p.2 (tySigned o.ty) _ (elemA c o k e)) 0

/-- R188: `sadd` and `ssub` clamp each element's exact sum or difference to its type, and raise SI where that changed it. -/
def Claims.SaturatingResults : Prop :=
  ∀ p ∈ [((.sadd : ExtOps → Instr), ((· + ·) : Int → Int → Int)), (.ssub, (· - ·))],
    ∀ (o : ExtOps) (s : State) (c : Ctx), Free (p.1 o) s c →
    let w := tyWidth o.ty
    let sg := tySigned o.ty
    let x := fun k e => clampInt sg w (p.2 (elemInt sg (elemA c o k e)) (elemInt sg (elemB c o k e)))
    CompletesBy (p.1 o) s c w o.d.toNat (fun k e => BitVec.ofInt w (x k e).1)
      (if c.lanes.any (fun k => (List.range (elemCount w)).any fun e => (x k e).2) then fSI else 0)

/-- R189: `addc` and `subb` leave the 32-bit sum or difference in the even register of D, and the carry or borrow in the
odd one. -/
def Claims.CarryChains : Prop :=
  ∀ (o : ExtOps) (s : State) (c : Ctx),
    (Free (.addc o) s c →
      Completes (.addc o) s c true o.d.toNat
        (fun k => c.rd o.a.r.toNat k + c.opB o k + c.rd o.c.r.toNat k % 2) 0)
    ∧ (Free (.subb o) s c → ∃ t, exec (.subb o) s = .next t ∧ ∀ k ∈ c.lanes,
        let a := c.rd o.a.r.toNat k
        let x : Int := (a : Int) - ((c.opB o k + c.rd o.c.r.toNat k % 2 : Nat) : Int)
        BitVec.ofNat 32 (regAfter t c o.d.toNat k) = BitVec.ofInt 32 x
          ∧ regAfter t c (o.d.toNat + 1) k = if x < 0 then 1 else 0)

/-- R190: `mad` per element and `madw` on a 64-bit pair: the low part of the exact product and sum. -/
def Claims.MultiplyAddResults : Prop :=
  ∀ (o : ExtOps) (s : State) (c : Ctx),
    (Free (.mad o) s c →
      CompletesBy (.mad o) s c (tyWidth o.ty) o.d.toNat
        (fun k e => elemA c o k e * elemOfWidth _ (c.opBReg o k) e + elemOfWidth _ (c.opC o k) e) 0)
    ∧ (Free (.madw o) s c →
      CompletesBy (.madw o) s c 64 o.d.toNat
        (fun k _ => BitVec.ofInt 64
          (elemInt (tySigned o.ty) (BitVec.ofNat 32 (c.rd o.a.r.toNat k))
              * elemInt (tySigned o.ty) (BitVec.ofNat 32 (c.opBReg o k)) + (c.rd2 o.c.r.toNat k : Int))) 0)

/-- R191: `dot4` adds the four products of bytes to the accumulator C, wrapping, or clamping with SI where SAT is 1. -/
def Claims.ByteDotProduct : Prop :=
  ∀ (o : ExtOps) (s : State) (c : Ctx), Free (.dot4 o) s c →
    let sg := tySigned o.ty
    let x := fun k => elemInt sg (BitVec.ofNat 32 (c.rd o.c.r.toNat k))
      + elemInt sg (elemOfWidth 8 (c.opA o k) 0) * elemInt sg (elemOfWidth 8 (c.opBReg o k) 0)
      + elemInt sg (elemOfWidth 8 (c.opA o k) 1) * elemInt sg (elemOfWidth 8 (c.opBReg o k) 1)
      + elemInt sg (elemOfWidth 8 (c.opA o k) 2) * elemInt sg (elemOfWidth 8 (c.opBReg o k) 2)
      + elemInt sg (elemOfWidth 8 (c.opA o k) 3) * elemInt sg (elemOfWidth 8 (c.opBReg o k) 3)
    CompletesBy (.dot4 o) s c 32 o.d.toNat
      (fun k _ => BitVec.ofInt 32 (if o.sat then (clampInt sg 32 (x k)).1 else x k))
      (if o.sat && c.lanes.any (fun k => (clampInt sg 32 (x k)).2) then fSI else 0)

/-- R193: `lfn` and `lfn.d` look every bit of their inputs up in the function table; the fourth input of `lfn.d` is the old
D. -/
def Claims.LogicFunctionResults : Prop :=
  ∀ (o : ExtOps) (s : State) (c : Ctx),
    let inp := fun (r : Nat) k j => (BitVec.ofNat (tyWidth o.ty) (c.rdTy o.ty r k)).getLsbD j
    (Free (.lfn o) s c → ∃ t, exec (.lfn o) s = .next t ∧ ∀ k ∈ c.lanes, ∀ j < tyWidth o.ty,
      (BitVec.ofNat (tyWidth o.ty) (destAfter t c (ty64 o.ty) o.d.toNat k)).getLsbD j =
        o.imm.getLsbD (b01 (inp o.a.r.toNat k j) + 2 * b01 (inp o.b.r.toNat k j) + 4 * b01 (inp o.c.r.toNat k j)))
    ∧ (Free (.lfnD o) s c → ∃ t, exec (.lfnD o) s = .next t ∧ ∀ k ∈ c.lanes, ∀ j < tyWidth o.ty,
      (BitVec.ofNat (tyWidth o.ty) (destAfter t c (ty64 o.ty) o.d.toNat k)).getLsbD j =
        (o.lit.getD 0).getLsbD (b01 (inp o.a.r.toNat k j) + 2 * b01 (inp o.b.r.toNat k j)
          + 4 * b01 (inp o.c.r.toNat k j) + 8 * b01 (inp o.d.toNat k j)))

/-- R195, R196: the funnel shift, and the extraction and insertion of a field. -/
def Claims.FieldAndFunnelResults : Prop :=
  ∀ (o : ExtOps) (s : State) (c : Ctx),
    let w := tyWidth o.ty
    let pos := o.imm.toNat % 64
    let len := o.imm.toNat / 64 % 64 + 1
    (Free (.fsh o) s c → CompletesBy (.fsh o) s c w o.d.toNat (fun k _ =>
      BitVec.ofNat w ((c.opA o k * 2 ^ w + c.opBReg o k) / 2 ^ (c.rd o.c.r.toNat k % w))) 0)
    ∧ (Free (.bfx o) s c → CompletesBy (.bfx o) s c w o.d.toNat (fun k _ =>
      let f := (elemA c o k 0).extractLsb' pos len
      if tySigned o.ty then f.signExtend w else f.zeroExtend w) 0)
    ∧ (Free (.bfi o) s c → ∃ t, exec (.bfi o) s = .next t ∧ ∀ k ∈ c.lanes, ∀ j < w,
      (BitVec.ofNat w (destAfter t c (ty64 o.ty) o.d.toNat k)).getLsbD j =
        if pos ≤ j ∧ j < pos + len then (elemA c o k 0).getLsbD (j - pos)
        else (BitVec.ofNat w (c.opBReg o k)).getLsbD j)

/-- R199: `cmp` writes 1 or 0, or all ones or zeros in the elements of a packed type. -/
def Claims.CompareResults : Prop :=
  ∀ (o : ExtOps) (s : State) (c : Ctx), Free (.cmp o) s c →
    let w := tyWidth o.ty
    let x := fun k e => elemInt (tySigned o.ty) (elemA c o k e)
    let y := fun k e => elemInt (tySigned o.ty) (elemOfWidth w (c.opBReg o k) e)
    let holds := fun k e => match o.imm.toNat with
      | 0 => x k e == y k e
      | 1 => x k e != y k e
      | 2 => decide (x k e < y k e)
      | 3 => decide (x k e ≤ y k e)
      | 4 => decide (y k e < x k e)
      | _ => decide (y k e ≤ x k e)
    ∃ t, exec (.cmp o) s = .next t
      ∧ (w < 32 → ∀ k ∈ c.lanes, ∀ e < elemCount w,
          elemOfWidth w (regAfter t c o.d.toNat k) e = if holds k e then BitVec.allOnes w else 0)
      ∧ (32 ≤ w → ∀ k ∈ c.lanes, regAfter t c o.d.toNat k = if holds k 0 then 1 else 0)

/-- R190, R130: the 64-bit products open a long instruction whose results are the low or upper half of the exact product,
or the low half of product and sum. -/
def Claims.LongProducts : Prop :=
  ∀ (o : ExtOps) (s : State) (c : Ctx),
    let a := fun k => BitVec.ofNat 64 (c.opA o k)
    let b := fun k => BitVec.ofNat 64 (c.opB o k)
    (Free (.mul64 o) s c → Opens (.mul64 o) s c o.lk.toNat o.d.toNat 2 (fun k => (a k * b k).toNat) 0)
    ∧ (Free (.mulhi64 o) s c → Opens (.mulhi64 o) s c o.lk.toNat o.d.toNat 2
        (fun k => (upperHalf (tySigned o.ty) (a k) (b k)).toNat) 0)
    ∧ (Free (.mad64 o) s c → Opens (.mad64 o) s c o.lk.toNat o.d.toNat 2
        (fun k => (a k * BitVec.ofNat 64 (c.opBReg o k) + BitVec.ofNat 64 (c.opC o k)).toNat) 0)

/-- R192: divisions open a long instruction with the truncated quotient or the remainder in each element, and DZ or NV for a
divisor of 0. -/
def Claims.LongDivisions : Prop :=
  ∀ p ∈ longDivisions,
    ∀ (o : ExtOps) (s : State) (c : Ctx), Free (p.1 o) s c →
    let w := tyWidth o.ty
    let x := fun k e => p.2 (tySigned o.ty) w (elemA c o k e) (elemB c o k e)
    ∃ v, (∀ k e, e < elemCount w → elemOfWidth w (v k) e = (x k e).1)
      ∧ Opens (p.1 o) s c o.lk.toNat o.d.toNat (if ty64 o.ty then 2 else 1) v
          (orFlags (c.lanes.map fun k => orFlags ((List.range (elemCount w)).map fun e => (x k e).2)))

/-! ### Moves between registers and lanes -/

/-- R58, R176: every form of `movi` and the extended `mov`: a constant in every element, the literal, or operand A. -/
def Claims.MoveResults : Prop :=
  (∀ (g : Option Guard) (d : BitVec 8) (x : BitVec 9) (s : State) (c : Ctx), Free (.moviBase g d x) s c →
    CompletesBy (.moviBase g d x) s c 32 d.toNat (fun _ _ => x.signExtend 32) 0)
  ∧ (∀ (g : Option Guard) (d : BitVec 8) (v : BitVec 64) (s : State) (c : Ctx), Free (.moviBaseLiteral g d v) s c →
    CompletesBy (.moviBaseLiteral g d v) s c 32 d.toNat (fun _ _ => v.setWidth 32) 0)
  ∧ (∀ (g : Option Guard) (d : BitVec 8) (v : BitVec 64) (s : State) (c : Ctx), Free (.moviI64 g d v) s c →
    CompletesBy (.moviI64 g d v) s c 64 d.toNat (fun _ _ => v) 0)
  ∧ (∀ (o : ExtOps) (s : State) (c : Ctx), Free (.mov o) s c →
    Completes (.mov o) s c (ty64 o.ty) o.d.toNat (c.opA o) 0)
  ∧ (∀ (o : ExtOps) (s : State) (c : Ctx), Free (.movi o) s c → o.lit = none →
    CompletesBy (.movi o) s c (tyWidth o.ty) o.d.toNat (fun _ _ =>
      if [Ty.n32, .n64, .n16, .n8].contains o.ty then o.imm.zeroExtend _ else o.imm.signExtend _) 0)
  ∧ (∀ (o : ExtOps) (v : BitVec 64) (s : State) (c : Ctx), Free (.movi o) s c → o.lit = some v →
    Completes (.movi o) s c (ty64 o.ty) o.d.toNat
      (fun _ => if ty64 o.ty then v.toNat else v.toNat % 2 ^ 32) 0)

/-- R177: `sel` takes each element from A where bit 0 of C's element is 1, else from B. -/
def Claims.SelectResults : Prop :=
  ∀ (o : ExtOps) (s : State) (c : Ctx), Free (.sel o) s c →
    CompletesBy (.sel o) s c (tyWidth o.ty) o.d.toNat (fun k e =>
      if (elemOfWidth (tyWidth o.ty) (c.rd o.c.r.toNat k) e).getLsbD 0 then elemA c o k e
      else elemOfWidth _ (c.opBReg o k) e) 0

/-- R174, R180: `shfl` reads operand A of the lane that its mode names in the segment; with EDGE, a rotation that leaves the
segment gives 0. -/
def Claims.ShuffleResults : Prop :=
  ∀ (o : ExtOps) (s : State) (c : Ctx), Free (.shfl o) s c →
    let mode := o.imm.toNat % 4
    let n := 2 ^ (o.imm.toNat / 4 % 8)
    Completes (.shfl o) s c (ty64 o.ty) o.d.toNat (fun k =>
      let j := shuffleFrom mode n k (BitVec.ofNat 32 (wordB c o k))
      if o.imm.getLsbD 5 ∧ j.2 then 0 else crossRead c o j.1) 0

/-- R174, R181: `bcast` reads the lane of its immediate; `rdlane` the lane that B names, equal in every active lane;
`wrlane` writes A, equal in every active lane, to that lane, if it takes part, and to no other. -/
def Claims.LaneBroadcasts : Prop :=
  ∀ (o : ExtOps) (s : State) (c : Ctx),
    (Free (.bcast o) s c → Completes (.bcast o) s c (ty64 o.ty) o.d.toNat (fun _ => crossRead c o (o.imm.toNat % 32)) 0)
    ∧ ∀ t, (∀ k ∈ c.lanes, c.rd o.b.r.toNat k % 32 = t) →
    (Free (.rdlane o) s c → Completes (.rdlane o) s c (ty64 o.ty) o.d.toNat (fun _ => crossRead c o t) 0)
    ∧ (Free (.wrlane o) s c → (∀ k ∈ c.lanes, ∀ j ∈ c.lanes, c.rdTy o.ty o.a.r.toNat k = c.rdTy o.ty o.a.r.toNat j) →
      ∃ u, exec (.wrlane o) s = .next u ∧ (t ∈ c.lanes → destAfter u c (ty64 o.ty) o.d.toNat t = c.opA o t)
        ∧ (o.d.toNat ∉ c.use.kills → ∀ k < 32, k ≠ t → regAfter u c o.d.toNat k = c.rd o.d.toNat k))

/-- R181: a lane number, or a value of `wrlane`, that differs between active lanes raises NUNI in all of them and writes
nothing. -/
def Claims.NonUniformLaneRaises : Prop :=
  ∀ (o : ExtOps) (s : State) (c : Ctx) (j k : Nat), j ∈ c.lanes → k ∈ c.lanes →
    (Free (.rdlane o) s c → c.rd o.b.r.toNat j % 32 ≠ c.rd o.b.r.toNat k % 32 →
      exec (.rdlane o) s = .next (raise c (causeAll .nuni c.lanes)))
    ∧ (Free (.wrlane o) s c → (c.rd o.b.r.toNat j % 32 ≠ c.rd o.b.r.toNat k % 32
        ∨ c.rdTy o.ty o.a.r.toNat j ≠ c.rdTy o.ty o.a.r.toNat k) →
      exec (.wrlane o) s = .next (raise c (causeAll .nuni c.lanes)))

/-- R182: `vote` combines bit 0 of A over the lanes that take part, by its mode. -/
def Claims.VoteResults : Prop :=
  ∀ (o : ExtOps) (s : State) (c : Ctx), Free (.vote o) s c →
    let p := fun k => (c.rd o.a.r.toNat k).testBit 0
    ∃ t, exec (.vote o) s = .next t ∧ ∀ k ∈ c.lanes,
      let d := regAfter t c o.d.toNat k
      match o.imm.toNat with
      | 0 => ∀ j, d.testBit j = decide (j ∈ c.lanes ∧ p j)
      | 1 => d = (c.lanes.filter p).length
      | 2 => (d ∈ c.lanes ∧ p d ∧ ∀ j ∈ c.lanes, p j → d ≤ j) ∨ (d = 32 ∧ ∀ j ∈ c.lanes, ¬p j)
      | 3 => d = (c.lanes.filter fun j => p j && decide (j < k)).length
      | 4 => d = if ∀ j ∈ c.lanes, p j then 1 else 0
      | 5 => d = if ∃ j ∈ c.lanes, p j then 1 else 0
      | _ => d = if ∀ j ∈ c.lanes, c.rd o.a.r.toNat j = c.rd o.a.r.toNat k then 1 else 0

/-- R183: each byte of `perm`'s result is the byte of the eight of A and B that the selector names, or 0. -/
def Claims.BytePermutation : Prop :=
  ∀ (o : ExtOps) (s : State) (c : Ctx), Free (.perm o) s c →
    CompletesByByte (.perm o) s c o.d.toNat (fun k j =>
      let x := fun (i : BitVec 3) =>
        if i.toNat < 4 then elemOfWidth 8 (c.rd o.a.r.toNat k) i.toNat else elemOfWidth 8 (c.rd o.b.r.toNat k) (i.toNat - 4)
      let z := elemOfWidth 8 (c.rd o.c.r.toNat k) j
      if o.imm.getLsbD 13 then x (o.imm.extractLsb' (3 * j) 3)
      else if z.getLsbD 7 then 0 else x (z.extractLsb' 0 3))

/-- R184: `pack`, `unpack` and `swz`, element by element. -/
def Claims.PackedRearrangements : Prop :=
  ∀ (o : ExtOps) (s : State) (c : Ctx),
    let w := tyWidth o.ty
    let n := 32 / w
    (Free (.pack o) s c → CompletesBy (.pack o) s c w o.d.toNat (fun k e =>
      if e < n / 2 then elemA c o k e else elemOfWidth w (c.opBReg o k) (e - n / 2)) 0)
    ∧ (Free (.unpack o) s c → CompletesBy (.unpack o) s c w o.d.toNat (fun k e =>
      let x := elemA c o k (o.imm.toNat * (n / 2) + e / 2)
      if tyInt o.ty then
        if e % 2 = 0 then x else if tySigned o.ty ∧ x.msb then BitVec.allOnes w else 0
      else if e % 2 = 0 then 0 else x) 0)
    ∧ (Free (.swz o) s c → CompletesBy (.swz o) s c w o.d.toNat (fun k e =>
      elemA c o k (match o.imm.toNat with
        | 0 => e
        | 1 => if e % 2 = 0 then e + 1 else e - 1
        | 2 => n - 1 - e
        | 3 => (e + 1) % n
        | 4 => (e + n / 2) % n
        | 5 => 0
        | 6 => n - 1
        | _ => if e % 2 = 0 then e / 2 else n / 2 + e / 2)) 0)

/-- R165, R166, R178, R179: `kill` makes its register dead for every lane; `xrel` does so for the top n of the quota, which
it lowers by n; `xacq` puts its request at the end of its team's queue and makes its slices wait. -/
def Claims.RegisterQuota : Prop :=
  (∀ (d : BitVec 8) (s : State) (c : Ctx), Free (.kill d) s c → ∃ t g, exec (.kill d) s = .next t
    ∧ groupAfter t c = some g ∧ ∀ k < 32, rdReg g d.toNat k = 0)
  ∧ (∀ (o : ExtOps) (s : State) (c : Ctx), Free (.xrel o) s c → o.imm.toNat ≤ c.g.quota →
      (∀ r, c.g.base + c.g.quota - o.imm.toNat ≤ r → r < c.g.base + c.g.quota →
        tcount c.g.pend r = 0 ∧ awaitsHold c.g r = false ∧ ∀ x ∈ c.g.longs, r ∉ x.regs) →
      ∃ t g, exec (.xrel o) s = .next t ∧ groupAfter t c = some g ∧ g.quota = c.g.quota - o.imm.toNat
        ∧ ∀ r, c.g.base + c.g.quota - o.imm.toNat ≤ r → r < c.g.base + c.g.quota → ∀ k < 32, rdReg g r k = 0)
  ∧ (∀ (o : ExtOps) (s : State) (c : Ctx), Free (.xacq o) s c → 0 < o.imm.toNat →
      o.imm.toNat ≤ c.g.ext - c.g.quota - c.g.asked → o.imm.toNat ≤ poolSize c.b (c.party / 8) →
      ∃ t g, exec (.xacq o) s = .next t ∧ groupAfter t c = some g ∧ g.asked = c.g.asked + o.imm.toNat
        ∧ (∀ k ∈ c.sl, ∀ x, g.slices[k]? = some x → x.wait = .xacq)
        ∧ (∀ tm, (coreOf s c.b.core).teams[teamOf c.b c.party]? = some tm →
            ∃ tm', (coreOf t c.b.core).teams[teamOf c.b c.party]? = some tm'
              ∧ tm'.xq = tm.xq ++ [(c.bid, c.party, o.imm.toNat, maskOf c.sl)]))

/-- R178: a request above what the group may still hold, and a release above its quota, raise REGX. -/
def Claims.RegisterQuotaExceeded : Prop :=
  ∀ (o : ExtOps) (s : State) (c : Ctx),
    (Free (.xacq o) s c → c.g.ext - c.g.quota - c.g.asked < o.imm.toNat →
      exec (.xacq o) s = .next (raise c (causeAll .regx c.all)))
    ∧ (Free (.xrel o) s c → c.g.quota < o.imm.toNat →
      exec (.xrel o) s = .next (raise c (causeAll .regx c.all)))

/-! ### System registers -/

/-- R21, R151 to R156: `mfs` writes the value of the system register that its immediate numbers. SFLAGS waits for every open
window and pending lane of the group. -/
def Claims.SystemRegisterReads : Prop :=
  ∀ (o : ExtOps) (s : State) (c : Ctx), Free (.mfs o) s c → (o.imm.toNat = 0x020 → flagsWait c = false) →
    ∃ v, Completes (.mfs o) s c (ty64 o.ty) o.d.toNat v 0 ∧ ∀ k ∈ c.lanes,
      let q := coreOf s c.b.core
      match o.imm.toNat with
      | 0x000 => v k = k
      | 0x001 => v k = k / 4
      | 0x002 => v k = c.party % 8
      | 0x003 => v k = c.party / 8 % 2 ^ 32
      | 0x004 => v k = c.b.sblock % 2 ^ 32
      | 0x005 => v k = c.b.core % 96
      | 0x006 => v k = c.b.core / 96 % 2
      | 0x007 => v k = (c.b.core / 192 + 256 * s.pkg.toNat) % 2 ^ 32
      | 0x010 => v k = q.scyc % 2 ^ 64
      | 0x012 => v k = (if q.loaded then q.frac / 65536 else 64 * (s.time / 13)) % 2 ^ 64
      | 0x014 => v k = s.time / 13 % 2 ^ 64
      | 0x020 => v k = c.g.flags.toNat
      | 0x021 => v k = (c.g.drm.toNat + (if c.l.step then 8 else 0) + (if c.l.det then 16 else 0) + 256 * c.l.mmrev) % 2 ^ 32
      | 0x022 => ∀ j, (v k).testBit j = decide (j ∈ c.lanes)
      | 0x030 => v k = c.g.frame % 2 ^ 64
      | 0x040 => v k = (65536 * c.b.cap + parkUsed c.b) % 2 ^ 32
      | 0x041 => (v k).testBit 31 = decide ((clusterOf s (c.b.core / 96)).curth.toNat < v k % 2 ^ 24)
          ∧ v k % 2 ^ 24 = min ((clusterOf s (c.b.core / 96)).draws.take 16).sum (2 ^ 24 - 1)
      | _ => v k = swrefNext s (c.b.core / 192) % 2 ^ 64

/-- R100, R102, R151, R154: `mts` with one value in every active lane writes the six flags, or the dynamic rounding mode if
the value is a mode, and no read-only field. -/
def Claims.SystemRegisterWrites : Prop :=
  ∀ (o : ExtOps) (s : State) (c : Ctx) (v : Nat), Free (.mts o) s c → c.lanes ≠ [] →
    (o.imm.toNat = 0x020 → flagsWait c = false) → (∀ k ∈ c.lanes, c.rdTy o.ty o.a.r.toNat k = v) →
    ∃ t g, exec (.mts o) s = .next t ∧ groupAfter t c = some g
      ∧ g.flags = (if o.imm.toNat = 0x020 then BitVec.ofNat 6 v else c.g.flags)
      ∧ g.drm = (if o.imm.toNat = 0x021 ∧ v % 8 ≤ 4 then BitVec.ofNat 3 v else c.g.drm)
      ∧ g.frame = c.g.frame ∧ (∀ r k, k < 32 → r ∉ c.use.kills → rdReg g r k = rdReg c.g r k)

/-! ### Control flow -/

/-- R149: `nop` moves the address of each of its slices past itself and changes no mask, stack or register. -/
def Claims.NopResults : Prop :=
  ∀ (g : Option Guard) (s : State) (c : Ctx), Free (.nop g) s c → ∃ t, exec (.nop g) s = .next t
    ∧ (c.sq = none → ∀ k ∈ c.sl, ∀ x, c.g.slices[k]? = some x →
        ∃ y, sliceAfter t c k = some y ∧ Slice.path y = (x.pc + 4, x.act, x.stack) ∧ y.live = x.live)
    ∧ (∀ q, c.sq = some q → ∃ p, seqAfter t c = some p ∧ p.pc = q.pc + 4 ∧ p.regs = q.regs)
    ∧ t.mem = s.mem ∧ t.accesses = s.accesses

/-- R58, R143: an unguarded branch takes every slice of its sub-gang to the target, and pushes nothing; a sequencer goes
there too. -/
def Claims.BranchTaken : Prop :=
  ∀ (s : State) (c : Ctx) (i : Instr) (target : DWord),
    (∃ off, i = .bra none off ∧ target = c.pc + 4 * off.signExtend 64) ∨ i = .braLiteral none target →
    Free i s c → target.toNat % 4 = 0 → ∃ t, exec i s = .next t
      ∧ (c.sq = none → ∀ k ∈ c.sl, ∀ x, c.g.slices[k]? = some x →
          ∃ y, sliceAfter t c k = some y ∧ Slice.path y = (target, x.act, x.stack))
      ∧ (∀ q, c.sq = some q → ∃ p, seqAfter t c = some p ∧ p.pc = target)

/-- R138, R142, R143: a guarded branch acts slice by slice, by its direction and by which active lanes take it. -/
def Claims.GuardedBranch : Prop :=
  ∀ (s : State) (c : Ctx) (i : Instr) (gd : Guard) (target : DWord),
    (∃ off, i = .bra (some gd) off ∧ target = c.pc + 4 * off.signExtend 64) ∨ i = .braLiteral (some gd) target →
    Free i s c → c.sq = none → target.toNat % 4 = 0 →
    let forward := decide (c.pc.toNat < target.toNat)
    (∀ k ∈ c.sl, ∀ x, c.g.slices[k]? = some x → x.act ≠ 0
      ∧ (branchOutcome forward target (fallsTo c x) (takenMask c k) x).2.2.length ≤ 8) →
    ∃ t, exec i s = .next t ∧ ∀ k ∈ c.sl, ∀ x, c.g.slices[k]? = some x →
      ∃ y, sliceAfter t c k = some y
        ∧ Slice.path y = branchOutcome forward target (fallsTo c x) (takenMask c k) x

/-- R138, R143: a guarded branch of a sequencer goes to the target if its guard passes, else on to the next instruction. -/
def Claims.SequencerBranch : Prop :=
  ∀ (s : State) (c : Ctx) (i : Instr) (gd : Guard) (target : DWord) (q : Seq),
    (∃ off, i = .bra (some gd) off ∧ target = c.pc + 4 * off.signExtend 64) ∨ i = .braLiteral (some gd) target →
    Free i s c → c.sq = some q → target.toNat % 4 = 0 → ∃ t p, exec i s = .next t ∧ seqAfter t c = some p
      ∧ p.pc = if ((q.regs.getD gd.reg.toNat 0).getLsbD 0) ≠ gd.neg then target
          else q.pc + BitVec.ofNat 64 (lenBytes i)

/-- R141: a branch that would push more than a slice's stack can hold raises DSTK, in the lanes of the slices that would
overflow, and moves no slice. -/
def Claims.StackOverflowRaises : Prop :=
  ∀ (s : State) (c : Ctx) (gd : Guard) (off : BitVec 17),
    let i := Instr.bra (some gd) off
    let target := c.pc + 4 * off.signExtend 64
    let forward := decide (c.pc.toNat < target.toNat)
    let full := fun k => match c.g.slices[k]? with
      | some x => decide (x.act ≠ 0 ∧ 8 < (branchOutcome forward target (fallsTo c x) (takenMask c k) x).2.2.length
          ∧ x.stack.length < (branchOutcome forward target (fallsTo c x) (takenMask c k) x).2.2.length)
      | none => false
    Free i s c → c.sq = none → c.pc.toNat % 4 = 0 → (∃ k ∈ c.sl, full k = true) →
    exec i s = .next (raise c ((c.sl.filter full).flatMap fun k => causeAll .dstk (activeIn c k)))

/-- R144: in `brx` and `ret`, a slice whose active lanes all pass the guard and name one aligned address goes there; a
slice with no such lane falls through. No mask, stack or register changes. -/
def Claims.IndirectBranches : Prop :=
  ∀ (g : Option Guard) (a : BitVec 8) (la : Bool) (s : State) (c : Ctx) (i : Instr),
    i = .brx g a la ∨ i = .ret g a la → Free i s c →
    (∀ k ∈ c.sl, staysAt c k ∨ ∃ x, goesTo c (c.rd2 a.toNat) k x) →
    ∃ t, exec i s = .next t ∧ ∀ k ∈ c.sl, ∀ x, c.g.slices[k]? = some x → ∃ y, sliceAfter t c k = some y
      ∧ y.act = x.act ∧ y.stack = x.stack
      ∧ (staysAt c k → y.pc = x.pc + 4)
      ∧ (∀ w, goesTo c (c.rd2 a.toNat) k w → y.pc = BitVec.ofNat 64 w)

/-- R145: `call` and `calli` also leave the address after them in pair D of every lane of a slice that goes. -/
def Claims.Calls : Prop :=
  ∀ (s : State) (c : Ctx) (i : Instr) (d : BitVec 8) (n : Nat) (addr : Nat → Nat),
    (∃ g v, i = .call g d v ∧ n = 12 ∧ addr = fun _ => v.toNat)
      ∨ (∃ o, i = .calli o ∧ o.d = d ∧ n = 4 ∧ addr = c.rd2 o.a.toNat) →
    Free i s c → (∀ k ∈ c.sl, staysAt c k ∨ ∃ x, goesTo c addr k x) →
    ∃ t, exec i s = .next t
      ∧ (∀ j ∈ c.lanes, destAfter t c true d.toNat j = (c.pc + BitVec.ofNat 64 n).toNat)
      ∧ ∀ k ∈ c.sl, ∀ x, c.g.slices[k]? = some x → ∃ y, sliceAfter t c k = some y
        ∧ y.act = x.act ∧ y.stack = x.stack
        ∧ (staysAt c k → y.pc = x.pc + BitVec.ofNat 64 n)
        ∧ (∀ w, goesTo c addr k w → y.pc = BitVec.ofNat 64 w)

/-- R144: a slice of which only some active lanes take an indirect branch, or in which they name different addresses, raises
NUNI in its active lanes, and a lane that takes it to a misaligned address raises MISA with that address; nothing else is
raised and nothing moves. -/
def Claims.IndirectBranchRaises : Prop :=
  ∀ (g : Option Guard) (a : BitVec 8) (la : Bool) (s : State) (c : Ctx) (i : Instr),
    i = .brx g a la ∨ i = .ret g a la → Free i s c →
    let takes := fun k => (activeIn c k).filter fun j => decide (j ∈ c.lanes)
    let split := fun k => takes k ≠ [] ∧ (takes k ≠ activeIn c k
      ∨ ∃ j ∈ takes k, ∃ m ∈ takes k, c.rd2 a.toNat j ≠ c.rd2 a.toNat m)
    (∃ k ∈ c.sl, split k ∨ ∃ j ∈ takes k, c.rd2 a.toNat j % 4 ≠ 0) →
    ∃ cs, exec i s = .next (raise c cs) ∧ ∀ x, x ∈ cs ↔
      (∃ k ∈ c.sl, split k ∧ ∃ j ∈ activeIn c k, x = (j, Cause.nuni, 0))
      ∨ (∃ k ∈ c.sl, ∃ j ∈ takes k, c.rd2 a.toNat j % 4 ≠ 0 ∧ x = (j, Cause.misa, c.rd2 a.toNat j))

/-- R139, R146: `jn` pops the top entry of each slice of its sub-gang. -/
def Claims.JoinPops : Prop :=
  ∀ (s : State) (c : Ctx), Free .jn s c → ∃ t, exec .jn s = .next t ∧ ∀ k ∈ c.sl, ∀ x, c.g.slices[k]? = some x →
    ∃ y, sliceAfter t c k = some y ∧ Slice.path y = popOutcome (x.pc + 4) x.act x.stack

/-- R147: a sub-gang at `regang` waits while another slice with a live lane has not reached one. When the last arrives, every
waiting slice goes on, those at one address in one gang and those at different addresses in different gangs. -/
def Claims.Regang : Prop :=
  ∀ (s : State) (c : Ctx), Free .regang s c → (∀ k ∈ c.sl, ∀ x, c.g.slices[k]? = some x → x.live ≠ 0) →
    c.g.slices.length = 8 →
    let others := fun k x => k ∉ c.sl ∧ c.g.slices[k]? = some x ∧ x.live ≠ 0
    ∃ t, exec .regang s = .next t
      ∧ ((∃ k x, others k x ∧ x.wait ≠ .regang) → ∀ k ∈ c.sl, ∀ y, sliceAfter t c k = some y → y.wait = .regang)
      ∧ ((∀ k x, others k x → x.wait = .regang) → ∀ k y, sliceAfter t c k = some y → y.live ≠ 0 →
          y.wait = .none ∧ ∀ j z, sliceAfter t c j = some z → z.live ≠ 0 → (y.gang = z.gang ↔ y.pc = z.pc))

/-- R137, R140, R148: `exit`, ready when nothing of its slices is pending and no window of its group is open, removes its
lanes from the masks of its slices and of their stacks; a slice left without active lanes pops. Stated for a group that
keeps a live lane. -/
def Claims.ExitRemovesLanes : Prop :=
  ∀ (g : Option Guard) (s : State) (c : Ctx), Free (.exit g) s c → pendingIn c = false →
    (∀ x ∈ c.g.longs, x.done = true) → c.g.aside = none → c.b.ended = false →
    (∃ k x, c.g.slices[k]? = some x ∧ x.live &&& ~~~(if k ∈ c.sl then takenMask c k else 0) ≠ 0) →
    ∃ t, exec (.exit g) s = .next t ∧ ∀ k ∈ c.sl, ∀ x, c.g.slices[k]? = some x →
      ∃ y, sliceAfter t c k = some y ∧ (Slice.path y, y.live) = exitOutcome (x.pc + 4) (takenMask c k) x

/-- R129, R149: `yield` only moves on, and its gang misses its team's next issue opportunity. -/
def Claims.YieldResults : Prop :=
  ∀ (s : State) (c : Ctx), Free .yield s c → ∃ t, exec .yield s = .next t
    ∧ (∀ k ∈ c.sl, ∀ x, c.g.slices[k]? = some x → ∃ y, sliceAfter t c k = some y
        ∧ Slice.path y = (x.pc + 4, x.act, x.stack))
    ∧ (∀ tm, (coreOf s c.b.core).teams[teamOf c.b c.party]? = some tm →
        ∃ tm', (coreOf t c.b.core).teams[teamOf c.b c.party]? = some tm'
          ∧ tm'.yielded = tm.yielded ++ [(c.bid, c.party, c.sl.headD 0)])

/-- R150: `sleep #n` keeps its sub-gang, or its sequencer, from issuing until the reference time has advanced by 16 n ns;
`sleep #0` only moves on. -/
def Claims.SleepResults : Prop :=
  ∀ (o : ExtOps) (s : State) (c : Ctx), Free (.sleep o) s c → ∃ t, exec (.sleep o) s = .next t
    ∧ (c.sq = none → ∀ k ∈ c.sl, ∀ x, c.g.slices[k]? = some x → ∃ y, sliceAfter t c k = some y
        ∧ Slice.path y = (x.pc + 12, x.act, x.stack)
        ∧ y.wait = if o.imm = 0 then x.wait else .sleep (s.time / 13 + 16 * o.imm.toNat))
    ∧ (∀ q, c.sq = some q → ∃ p, seqAfter t c = some p
        ∧ p.wait = if o.imm = 0 then q.wait else .sleep (s.time / 13 + 16 * o.imm.toNat))

/-- R434: `phint` records the phase of its group, if a lane takes part. -/
def Claims.PhaseHints : Prop :=
  ∀ (o : ExtOps) (s : State) (c : Ctx), Free (.phint o) s c → ∃ t g, exec (.phint o) s = .next t
    ∧ groupAfter t c = some g
    ∧ g.hint = if c.lanes = [] then c.g.hint
        else match o.imm.toNat with
          | 0 => .compute
          | 1 => .memory
          | _ => .wait

/-! ### Floating point -/

/-- R95 to R97: a rounding to nearest that does not overflow gives a finite encoding of the operand's sign, at least as near
to the operand as any other finite encoding; of two equally near, the one whose last bit is 0. -/
def Claims.RoundingToNearest : Prop :=
  ∀ ty ∈ floatTypes, ∀ (neg : Bool) (m : Nat) (e : Int), 0 < m →
    let r := roundF ty 0 false neg m e
    r.2 &&& fOF = 0 → ∃ m' e', decodeF ty r.1 = .fin neg m' e' ∧
      ∀ y n2 m2 e2, y < 2 ^ tyWidth ty → decodeF ty y = .fin n2 m2 e2 →
        let k := min e (min e' e2)
        let d := (inUnits k neg m e - inUnits k neg m' e').natAbs
        let d2 := (inUnits k neg m e - inUnits k n2 m2 e2).natAbs
        d ≤ d2 ∧ (d = d2 → inUnits k neg m' e' ≠ inUnits k n2 m2 e2 → r.1 % 2 = 0)

/-- R85, R95 to R97: a rounding towards zero gives the finite encoding of the operand's sign with the greatest magnitude that does
not exceed the operand's; NX says whether it differs from the operand, and OF whether the operand, truncated to the precision
of the type, exceeds its largest finite value. -/
def Claims.RoundingTowardsZero : Prop :=
  ∀ ty ∈ floatTypes, ∀ (neg : Bool) (m : Nat) (e : Int), 0 < m →
    let r := roundF ty 1 false neg m e
    ∃ m' e', decodeF ty r.1 = .fin neg m' e'
      ∧ exactLt false m e false m' e' = false
      ∧ (r.2 &&& fNX ≠ 0 ↔ exactLt false m' e' false m e = true)
      ∧ (r.2 &&& fOF ≠ 0 ↔ ∀ y n2 m2 e2, y < 2 ^ tyWidth ty → decodeF ty y = .fin n2 m2 e2 →
          let k := m.log2 - (fmtOf ty).mb
          exactLt false m2 e2 false (m / 2 ^ k) (e + k) = true)
      ∧ ∀ y n2 m2 e2, y < 2 ^ tyWidth ty → decodeF ty y = .fin n2 m2 e2 → exactLt false m e false m2 e2 = false →
          exactLt false m' e' false m2 e2 = false

/-- R201, R204: base and extended floating instructions of two sources round the exact sum or product once, in RNE or in the
mode of RM, element by element, and OR the flags of all elements. -/
def Claims.FloatArithmeticResults : Prop :=
  (∀ p ∈ floatBase, ∀ (o : BaseOps) (s : State) (c : Ctx), Free (p.1 o) s c →
    CompletesWithFlags (p.1 o) s c 32 o.d.toNat (fun k _ => p.2 (c.rd o.d.toNat k) (c.rd o.a.toNat k)))
  ∧ (∀ p ∈ floatTwo, ∀ (o : ExtOps) (s : State) (c : Ctx), Free (p.1 o) s c →
    let w := tyWidth o.ty
    CompletesWithFlags (p.1 o) s c w o.d.toNat (fun k e =>
      p.2 o.ty (c.mode o.rm) (elemA c o k e).toNat (elemOfWidth w (c.opBReg o k) e).toNat))

/-- R201: `fma` rounds the exact A × B + C once. -/
def Claims.FusedMultiplyAddResults : Prop :=
  ∀ i ∈ [(.fma : ExtOps → Instr), .fmaD], ∀ (o : ExtOps) (s : State) (c : Ctx), Free (i o) s c →
    let w := tyWidth o.ty
    CompletesWithFlags (i o) s c w o.d.toNat (fun k e =>
      fusedOf o.ty (c.mode o.rm) (decodeF o.ty (elemA c o k e).toNat)
        (decodeF o.ty (elemOfWidth w (c.opBReg o k) e).toNat) (decodeF o.ty (elemOfWidth w (c.opC o k) e).toNat))

/-- R202: `fmin` and `fmax` give the lesser or greater number, -0 before +0, and a number before a NaN. -/
def Claims.FloatExtremes : Prop :=
  ∀ p ∈ [((.fmin : ExtOps → Instr), false), (.fminD, false), (.fmax, true), (.fmaxD, true)],
    ∀ (o : ExtOps) (s : State) (c : Ctx), Free (p.1 o) s c →
    let w := tyWidth o.ty
    CompletesWithFlags (p.1 o) s c w o.d.toNat (fun k e =>
      extremeOf o.ty p.2 (elemA c o k e).toNat (elemOfWidth w (c.opBReg o k) e).toNat)

/-- R203: `fcmp` writes 1 or 0, or all ones or zeros in the elements of a packed type, by its predicate; NV for a signalling
NaN, and for a quiet one where SIG is 1. -/
def Claims.FloatCompares : Prop :=
  ∀ i ∈ [(.fcmp : ExtOps → Instr), .fcmpD], ∀ (o : ExtOps) (s : State) (c : Ctx), Free (i o) s c →
    let w := tyWidth o.ty
    let x := fun k e => decodeF o.ty (elemA c o k e).toNat
    let y := fun k e => decodeF o.ty (elemOfWidth w (c.opBReg o k) e).toNat
    CompletesWithFlags (i o) s c (min w 32) o.d.toNat (fun k e =>
      (if predicateHolds (o.imm.toNat % 8) (x k e) (y k e) then (if w < 32 then 2 ^ w - 1 else 1) else 0,
       if (x k e).isSnan || (y k e).isSnan || (o.imm.getLsbD 3 && ((x k e).isNan || (y k e).isNan)) then fNV else 0))

/-- R204 to R206: sign changes, classes and exponents. -/
def Claims.FloatSignAndClass : Prop :=
  (∀ (o : BaseOps) (s : State) (c : Ctx), Free (.fnegBase o) s c →
    CompletesWithFlags (.fnegBase o) s c 32 o.d.toNat (fun k _ => negatedOf .f32 32 (c.rd o.a.toNat k)))
  ∧ ∀ (o : ExtOps) (s : State) (c : Ctx),
    let w := tyWidth o.ty
    let a := fun k e => (elemA c o k e).toNat
    (Free (.fneg o) s c → CompletesWithFlags (.fneg o) s c w o.d.toNat (fun k e => negatedOf o.ty w (a k e)))
    ∧ (Free (.fsgn o) s c → CompletesWithFlags (.fsgn o) s c w o.d.toNat
        (fun k e => signedAs o.ty w (a k e) (elemOfWidth w (c.opBReg o k) e).toNat))
    ∧ (Free (.fclass o) s c → CompletesBy (.fclass o) s c (min w 32) o.d.toNat
        (fun k e => BitVec.ofNat _ (classOf o.ty (a k e))) 0)
    ∧ (Free (.fexpo o) s c → CompletesWithFlags (.fexpo o) s c (min w 32) o.d.toNat
        (fun k e => ((exponentOf o.ty (min w 32) (a k e)).1.toNat, (exponentOf o.ty (min w 32) (a k e)).2)))

/-- R207: `frnd` rounds to an integer in the mode; `fscale` multiplies by the power of two that B holds and rounds once. -/
def Claims.FloatIntegralAndScaled : Prop :=
  (∀ i ∈ [(.frnd : ExtOps → Instr), .frndD], ∀ (o : ExtOps) (s : State) (c : Ctx), Free (i o) s c →
    CompletesWithFlags (i o) s c (tyWidth o.ty) o.d.toNat (fun k e =>
      integralOf o.ty (c.mode o.rm) (elemA c o k e).toNat))
  ∧ (∀ i ∈ [(.fscale : ExtOps → Instr), .fscaleD], ∀ (o : ExtOps) (s : State) (c : Ctx), Free (i o) s c →
    let w := tyWidth o.ty
    let b := fun k e => if w < 32 then (elemOfWidth w (wordB c o k) e).toInt else (BitVec.ofNat 32 (c.rd o.b.r.toNat k)).toInt
    CompletesWithFlags (i o) s c w o.d.toNat (fun k e =>
      scaledOf o.ty (c.mode o.rm) (elemA c o k e).toNat (b k e)))

/-- R105 to R109, R208 to R210: conversions take source element i modulo the number of source elements to element i. -/
def Claims.ConversionResults : Prop :=
  (∀ i ∈ [(.fcvt : ExtOps → Instr), .fcvtD], ∀ (o : ExtOps) (s : State) (c : Ctx), Free (i o) s c →
    CompletesWithFlags (i o) s c (tyWidth o.ty) o.d.toNat (fun k e =>
      convertedTo o.ty (c.mode o.rm) o.sat (decodeF (srcTy o) (convElem c o k e).toNat)))
  ∧ (∀ i ∈ [(.icvt : ExtOps → Instr), .icvtD], ∀ (o : ExtOps) (s : State) (c : Ctx), Free (i o) s c →
    CompletesWithFlags (i o) s c (tyWidth o.ty) o.d.toNat (fun k e =>
      floatFrom o.ty (c.mode o.rm) (elemInt (tySigned (srcTy o)) (convElem c o k e))))
  ∧ (∀ i ∈ [(.fcvti : ExtOps → Instr), .fcvtiD], ∀ (o : ExtOps) (s : State) (c : Ctx), Free (i o) s c →
    CompletesWithFlags (i o) s c (tyWidth o.ty) o.d.toNat (fun k e =>
      let r := integerOf o.ty (c.mode o.rm) o.sat (decodeF (srcTy o) (convElem c o k e).toNat)
      (r.1.toNat, r.2)))

/-- R110 to R112, R211: the block form of `fcvt` makes one block of the 32 lanes, +0 for a lane that does not take part, and
writes each lane's element code to D and the scale code to B. A NaN or an infinity makes the scale 0xFF; zeros alone make it
0; otherwise it is the exponent of the largest magnitude, less emax, plus 127, or 0 where that is negative. -/
def Claims.BlockQuantisation : Prop :=
  ∀ (o : ExtOps) (s : State) (c : Ctx), Free (.fcvtMx o) s c →
    let src := fun k => if k ∈ c.lanes then decodeF (srcTy o) (convElem c o k 0).toNat else .fin false 0 0
    let special := ∃ k < 32, match src k with
      | .fin _ _ _ => False
      | _ => True
    ∃ t scale, exec (.fcvtMx o) s = .next t
      ∧ (∀ k ∈ c.lanes, regAfter t c o.b.r.toNat k = scale)
      ∧ (special → scale = 0xFF ∧ ∀ k ∈ c.lanes, regAfter t c o.d.toNat k = 0)
      ∧ (¬special → (∀ k < 32, ∃ n e, src k = .fin n 0 e) → scale = 0 ∧ ∀ k ∈ c.lanes, regAfter t c o.d.toNat k = 0)
      ∧ (¬special → c.lanes ≠ [] → ∀ j n m e, j < 32 → src j = .fin n m e → 0 < m →
          (∀ k n' m' e', k < 32 → src k = .fin n' m' e' → 0 < m' → e' + (m'.log2 : Int) ≤ e + (m.log2 : Int)) →
          scale = (e + (m.log2 : Int) - (fmtOf o.ty).emax + 127).toNat
          ∧ ∀ k ∈ c.lanes, ∀ n' m' e', src k = .fin n' m' e' →
            let r := roundF o.ty (c.mode o.rm) false n' m' (e' + 127 - (scale : Int))
            regAfter t c o.d.toNat k = if m' = 0 then zeroBits o.ty n'
              else if r.2 &&& fOF ≠ 0 then maxBits o.ty n' else r.1)

/-! ### Exceptions -/

/-- R396, R400, R403, R404: what raising causes records, for a group that has none: the highest cause over the lanes, with
the address of the lowest lane that raised it; the masks of the lanes whose highest cause it is, and of the others, with the
highest of theirs; the address, words and length of the instruction. Nothing else of the group changes, but that a control area
with a reserved field set (R160) has then raised its ILL; and the block's halt is due, unless it is halting already, which the
record marks as SECOND. A halt for a cause that is no instruction's and came in the same cycle does not count: the instruction's
cause is taken first (R405). -/
def Claims.RaisingRecordsCause : Prop :=
  ∀ (s : State) (i : Instr) (c : Ctx) (cs : List LaneCause) (x : Cause), ctxOf s i = some c → c.sq = none →
    c.b.ended = false → c.g.cause = none → (∀ y ∈ cs, y.1 < 32) → highestOf cs x →
    let t := raise c cs
    ∃ g r, groupAfter t c = some g ∧ g.cause = some r ∧ g = { c.g with cause := some r, badCtl := false }
      ∧ r.code = codeOf x ∧ r.second = (decide (c.b.h.halt = .halting) && !asyncNow s c.b)
      ∧ r.pc = (if x = .sysc then c.pc + 4 else c.pc) ∧ r.len = lenBytes i
      ∧ (∀ k, r.pmask.testBit k = true ↔ laneCause cs k x)
      ∧ (∀ k, r.lmask.testBit k = true ↔ ∃ y, y ≠ x ∧ laneCause cs k y)
      ∧ (∀ y, (∃ k, laneCause cs k y) → y ≠ x → (∀ j z, laneCause cs j z → z ≠ x → noLower y z) → r.lower = codeOf y)
      ∧ (∃ k, laneCause cs k x ∧ (∀ j, laneCause cs j x → k ≤ j) ∧ (k, x, r.addr) ∈ cs)
      ∧ t.accesses = s.accesses ∧ (x ≠ .ecc → t.mem = s.mem)
      ∧ (c.b.h.halt ≠ .halting ∨ asyncNow s c.b = true → .blockHalt c.bid ∈ t.agenda)

/-- R285, R397: a sequencer's cause is recorded with SEQ, its stream and no lanes, and nothing else of the sequencer
changes. -/
def Claims.RaisingInSequencer : Prop :=
  ∀ (s : State) (i : Instr) (c : Ctx) (cs : List LaneCause) (x : Cause) (q : Seq), ctxOf s i = some c → c.sq = some q →
    c.b.ended = false → (∀ y ∈ cs, y.1 = 0) → highestOf cs x →
    let t := raise c cs
    ∃ p r, seqAfter t c = some p ∧ p = { q with cause := some r } ∧ r.code = codeOf x ∧ r.seq = true ∧ r.pmask = 0
      ∧ r.stream = (if c.party = mseqParty then 0 else 1) ∧ (x ≠ .sysc → r.pc = q.pc)
      ∧ (c.b.h.halt ≠ .halting ∨ asyncNow s c.b = true → .blockHalt c.bid ∈ t.agenda)

/-- R62, R131, R158: what every instruction meets before it acts. An encoding that the stream does not accept or that is
ill-formed raises ILL in the lanes of the slices of its sub-gang; a register at or above base plus quota raises REGX in
every active lane; a register under a lookahead window that is open in a slice raises LKV in that slice's active lanes. -/
def Claims.GenericCauses : Prop :=
  ∀ (s : State) (i : Instr) (c : Ctx), ctxOf s i = some c → c.sq = none →
    (streamOk c = false ∨ i.wellFormed = false ∨ c.g.badCtl = true →
      genericCauses c = (c.sl.flatMap fun k => [4 * k, 4 * k + 1, 4 * k + 2, 4 * k + 3]).map fun j => (j, Cause.ill, 0))
    ∧ (streamOk c = true → i.wellFormed = true → c.g.badCtl = false →
      (∀ r ∈ c.named, c.g.base + c.g.quota ≤ r → ∀ k ∈ c.all, (k, Cause.regx, 0) ∈ genericCauses c)
      ∧ (∀ x ∈ c.g.longs, ∀ r ∈ x.regs, r ∈ c.named → readsFlags i = false → ∀ k ∈ c.sl, 0 < x.rem.getD k 0 →
          ∀ j ∈ actLanes c.g k, (j, Cause.lkv, 0) ∈ genericCauses c))

/-- R61, R62, R125, R404: an instruction of an illegal encoding, in a gang that waits for nothing, writes nothing: it raises ILL
alone, whether or not its operands are ready. -/
def Claims.IllegalEncodingRaises : Prop :=
  ∀ (s : State) (i : Instr) (c : Ctx), (opInfo i).isSome → ctxOf s i = some c → gangFree c = true →
    streamOk c = false ∨ i.wellFormed = false → exec i s = .next (raise c (causeAll .ill c.sliceLanes))

/-- R427: `trap` raises SYSC in the lanes that take part, with its service number and the address after it; with no such
lane it only moves on. -/
def Claims.TrapRaises : Prop :=
  ∀ (n : BitVec 8) (s : State) (c : Ctx), Free (.trap n) s c →
    (c.lanes = [] → ∃ t, exec (.trap n) s = .next t ∧ ∀ k ∈ c.sl, ∀ x, c.g.slices[k]? = some x →
      ∃ y, sliceAfter t c k = some y ∧ Slice.path y = (x.pc + 4, x.act, x.stack))
    ∧ (c.lanes ≠ [] → c.b.ended = false → c.g.cause = none → ∃ t g r, exec (.trap n) s = .next t
      ∧ groupAfter t c = some g ∧ g = { c.g with cause := some r } ∧ r.code = 0x0F ∧ r.svc = n.toNat
      ∧ r.pc = c.pc + 4 ∧ r.addr = 0 ∧ (∀ k, r.pmask.testBit k = decide (k ∈ c.lanes))
      ∧ (c.b.h.halt ≠ .halting → .blockHalt c.bid ∈ t.agenda))

/-- R396, R397, R429: BLOCK_HALT of a running block with a recorded cause: the block is halting, its primary group is the lowest
with a cause that is not SECOND, and every other group's cause becomes SECOND. DBG (code 0x10) is neither. -/
def Claims.BlockHaltResults : Prop :=
  ∀ (s : State) (b : Nat) (k : Block), tget s.blocks b = some k → k.h.halt = .running →
    (k.mseq.cause.isSome ∨ k.cseq.cause.isSome ∨ ∃ gi g, tget k.groups gi = some g ∧ g.cause.isSome) →
    (k.groups.Pairwise fun x y => x.1 < y.1) →
    ∃ t k', exec (.blockHalt b) s = .next t ∧ tget t.blocks b = some k' ∧ k'.h.halt = .halting ∧ k'.h.why = some .cause
      ∧ k'.h.since = s.time
      ∧ (∀ p, k'.h.primary = some p →
          (∃ g r, tget k.groups p = some g ∧ g.cause = some r ∧ r.second = false ∧ r.code ≠ 0x10)
          ∧ ∀ gi g r, gi < p → tget k.groups gi = some g → g.cause = some r → r.second = true ∨ r.code = 0x10)
      ∧ (k'.h.primary = none → ∀ gi g r, tget k.groups gi = some g → g.cause = some r → r.second = true ∨ r.code = 0x10)
      ∧ (∀ gi g, tget k.groups gi = some g → ∃ g', tget k'.groups gi = some g' ∧ g'.lines = g.lines
          ∧ g'.cause = g.cause.map (fun r => if k'.h.primary = some gi ∨ r.code = 0x10 then r else { r with second := true })
          ∧ ∀ (j : Nat) x, g.slices[j]? = some x → ∃ y, g'.slices[j]? = some y ∧ Slice.path y = Slice.path x ∧ y.skid = 0)

/-- R398, R399, R406, R407: BLOCK_STOPPED of a block that a cause of its primary group halted, in a launch with a handler:
the group enters handler state. Every slice is set aside; those with a live lane start at the handler entry with all their
live lanes, an empty stack and no wait; STRAPF names the frame; registers stay, and so does every other group. -/
def Claims.HandlerEntry : Prop :=
  ∀ (s : State) (b gi : Nat) (k : Block) (g : Group) (r : CauseRec), tget s.blocks b = some k → k.h.halt = .halting →
    k.h.why = some .cause → (∀ x ∈ k.groups, ∀ y ∈ x.2.longs, y.done = true) → k.h.primary = some gi →
    tget k.groups gi = some g → g.cause = some r → r.code ≠ 0x0D → g.aside = none → k.h.dbgPend = false →
    (recOf s k).handler ≠ 0 →
    ∃ t k' g', exec (.blockStopped b) s = .next t ∧ tget t.blocks b = some k' ∧ tget k'.groups gi = some g'
      ∧ k'.h.halt = .stopped ∧ k'.h.handler = some gi
      ∧ g'.aside = some (g.slices.map fun x => ⟨x.pc, x.act, x.stack, x.gang, x.wait⟩)
      ∧ (∀ (j : Nat) x, g.slices[j]? = some x → ∃ y, g'.slices[j]? = some y ∧ inHandler (recOf s k).handler x y)
      ∧ g'.frame = imageVa (recOf s k) k.sblock gi + 32768 ∧ g'.taken = some r
      ∧ g'.lines = g.lines ∧ g'.quota = g.quota ∧ g'.pend = g.pend ∧ g'.flags = g.flags ∧ g'.drm = g.drm
      ∧ ∀ j, j ≠ gi → tget k'.groups j = tget k.groups j

/-- R399, R400, R401: the bytes of a trap frame: code, flags, address, PC, words, lower cause, length, masks, skid count and
service number stand where the frame's layout puts them, little-endian. -/
def Claims.TrapFrameLayout : Prop :=
  ∀ (r : CauseRec) (loc skid : Nat) (res hst tsl dbg : Bool), r.words.length ≤ 5 →
    let f := frameBytes r loc res hst tsl dbg skid
    let at_ := fun o n => ofBytes ((f.drop o).take n)
    f.length = 128 ∧ at_ 0 2 = r.code % 2 ^ 16 ∧ at_ 8 8 = r.addr % 2 ^ 64 ∧ at_ 16 8 = r.pc.toNat
      ∧ (∀ j, j < 5 → at_ (24 + 4 * j) 4 = (r.words.getD j 0).toNat)
      ∧ at_ 44 2 = r.lower % 2 ^ 16 ∧ at_ 46 2 = r.len % 2 ^ 16 ∧ at_ 48 4 = r.pmask % 2 ^ 32
      ∧ at_ 52 4 = r.lmask % 2 ^ 32 ∧ at_ 56 4 = skid % 2 ^ 32 ∧ at_ 60 4 = r.scyc % 2 ^ 32 ∧ at_ 64 8 = r.sreft % 2 ^ 64
      ∧ at_ 72 1 = r.stream % 2 ^ 8 ∧ at_ 73 1 = r.engine % 2 ^ 8 ∧ at_ 74 1 = r.svc % 2 ^ 8 ∧ at_ 76 4 = loc % 2 ^ 32
      ∧ (at_ 2 2).testBit 0 = r.seq ∧ (at_ 2 2).testBit 1 = r.async ∧ (at_ 2 2).testBit 2 = r.second
      ∧ (at_ 2 2).testBit 3 = dbg ∧ (at_ 2 2).testBit 4 = tsl ∧ (at_ 2 2).testBit 5 = hst ∧ (at_ 2 2).testBit 6 = res

/-- R16, R139, R147, R409, R410, R428: `tret` of a gang that holds every live slice of a group in handler state, once its long
instructions are done, its own stores to the frame's resume PC have performed, and that PC is aligned: every slice takes back what
it set aside, less the lanes that have exited; the slices of the faulting sub-gang, or all for SYSC, go on at the resume PC; one
whose active lanes have all exited pops; slices of one sub-gang have one address; slices that waited at `regang` go on where no
other live slice is left to wait for; STRAPF is 0 and the block goes on. -/
def Claims.TrapReturn : Prop :=
  ∀ (s : State) (c : Ctx) (as : List Aside) (r : CauseRec) (w : Nat), Free .tret s c → c.g.aside = some as →
    (∀ k x, k < 8 → c.g.slices[k]? = some x → x.live ≠ 0 → k ∈ c.sl) → (∀ x ∈ c.g.longs, x.done = true) →
    c.g.taken = some r → r.seq = false → vaNat s c.l.pasid (c.g.frame + 16) 8 = some w → w % 4 = 0 →
    c.g.cause = none → resumeWaits c = false → as.length = c.g.slices.length →
    let allWait := ∀ (k : Nat) x a, c.g.slices[k]? = some x → as[k]? = some a → x.live ≠ 0 → a.wait = .regang
    ∃ t g, exec .tret s = .next t ∧ groupAfter t c = some g ∧ g.aside = none ∧ g.frame = 0
      ∧ (∀ (j k : Nat) y z, j < 8 → k < 8 → g.slices[j]? = some y → g.slices[k]? = some z → y.live ≠ 0 → z.live ≠ 0 →
          y.gang = z.gang → y.pc = z.pc)
      ∧ (∀ k x a, c.g.slices[k]? = some x → as[k]? = some a → ∃ y, g.slices[k]? = some y
          ∧ y.live = x.live ∧ (¬allWait ∨ x.live = 0 → y.wait = a.wait) ∧ (allWait → x.live ≠ 0 → y.wait = .none)
          ∧ let pc := if r.code = 0x0F ∨ r.slices.getLsbD k = true then BitVec.ofNat 64 w else a.pc
            let st := a.stack.map fun e => match e with
              | .rejoin m => .rejoin (m &&& x.live)
              | .alt p m => .alt p (m &&& x.live)
            Slice.path y = if a.act &&& x.live = 0 then popOutcome pc 0 st else (pc, a.act &&& x.live, st))
      ∧ (c.b.h.halt ≠ .halting → c.b.h.tslPend = false →
          ∃ k, blockAfter t c = some k ∧ k.h.halt = .running ∧ k.h.handler = none)

/-- R428: `tret` outside handler state raises ILL, and in a gang that does not hold every live slice NUNI. -/
def Claims.TrapReturnRaises : Prop :=
  ∀ (s : State) (c : Ctx), Free .tret s c →
    (c.g.aside = none → exec .tret s = .next (raise c (causeAll .ill c.sliceLanes)))
    ∧ (c.g.aside ≠ none → (∃ k x, k < 8 ∧ c.g.slices[k]? = some x ∧ x.live ≠ 0 ∧ k ∉ c.sl) →
      exec .tret s = .next (raise c (causeAll .nuni c.all)))

/-- R429: `brkpt` without a debugger only moves on; with one it halts the launch for the debugger, and its group's frame
holds DBG and the address after it. -/
def Claims.BreakpointResults : Prop :=
  ∀ (s : State) (c : Ctx), Free .brkpt s c →
    (c.l.debug = false → ∃ t, exec .brkpt s = .next t ∧ ∀ k ∈ c.sl, ∀ x, c.g.slices[k]? = some x →
      ∃ y, sliceAfter t c k = some y ∧ Slice.path y = (x.pc + 4, x.act, x.stack))
    ∧ (c.l.debug = true → s.front.l.dbgLaunch = 0 → c.b.h.halt = .running → c.b.placed = true → c.b.ended = false →
      c.b.complete = false → c.b.launch < 2 ^ 32 → c.g.aside = none → c.g.cause = none → ∃ t g k r, exec .brkpt s = .next t
        ∧ groupAfter t c = some g ∧ g.cause = some r ∧ r.code = 0x10 ∧ r.async = false ∧ r.pc = c.pc + 4
        ∧ blockAfter t c = some k ∧ k.h.halt = .halting ∧ k.h.why = some .dbg
        ∧ t.front.l.dbgState = 1 ∧ t.front.l.dbgLaunch.toNat = c.b.launch)

/-! ### The resolution path -/

/-- R220, R227, R235: a resolved operation that is free to issue and finds room for its records computes its function of
operands A and B in each element, at fast completion or at the settlement of a parked lane, and raises its flags. -/
def Claims.ResolvedResults : Prop :=
  ∀ p ∈ resolvedOps, ∀ (o : ExtOps) (s : State) (c : Ctx), Free (p.1 o) s c →
    recordsReady c c.lanes.length (needsTicket o.ty p.2.1 && c.lanes.length != 0) = true →
    let w := tyWidth o.ty
    OpensResolved (p.1 o) s c o.lk.toNat o.d.toNat (if ty64 o.ty then 2 else 1) c.lanes.length w (fun k e =>
      (resolved o.ty (c.mode o.rm) p.2.1 (elemA c o k e).toNat
        (if p.2.2 then (elemOfWidth w (c.opBReg o k) e).toNat else 0)).value o.ty (c.mode o.rm))

/-- R220, R235: where the block's park queue, the core's park allowance and, where one is needed, the exact tickets have room for
its records, a resolved operation that is free to issue completes its issue: each of its slices moves on past it, no register
changes yet, and its long instruction brings the result. -/
def Claims.ResolvedOperationsComplete : Prop :=
  ∀ p ∈ resolvedOps, ∀ (o : ExtOps) (s : State) (c : Ctx), Free (p.1 o) s c →
    RecordRoom c c.lanes.length (needsTicket o.ty p.2.1 = true ∧ c.lanes ≠ []) →
    let w := tyWidth o.ty
    MovesOn (p.1 o) s c ∧ OpensResolved (p.1 o) s c o.lk.toNat o.d.toNat (if ty64 o.ty then 2 else 1) c.lanes.length w (fun k e =>
      (resolved o.ty (c.mode o.rm) p.2.1 (elemA c o k e).toNat
        (if p.2.2 then (elemOfWidth w (c.opBReg o k) e).toNat else 0)).value o.ty (c.mode o.rm))

/-- R220: a resolved operation whose records find no room waits: nothing changes. -/
def Claims.ResolvedWaits : Prop :=
  ∀ p ∈ resolvedOps, ∀ (o : ExtOps) (s : State) (c : Ctx), Free (p.1 o) s c →
    recordsReady c c.lanes.length (needsTicket o.ty p.2.1 && c.lanes.length != 0) = false → exec (p.1 o) s = .next s

/-- R235, R236: `fdiv` gives the exact quotient rounded once, and `frcp` that of 1. -/
def Claims.QuotientsAreRounded : Prop :=
  ∀ ty ∈ [Ty.f64, .f32, .f16, .bf16], ∀ (mode a b : Nat),
    (resolved ty mode 0 a b).value ty mode = quotientOf ty mode (decodeF ty a) (decodeF ty b)
    ∧ (resolved ty mode 1 a b).value ty mode = quotientOf ty mode (.fin false 1 0) (decodeF ty a)

/-- R235, R236: `fsqrt`, `frsqrt` and `fhypot` of finite operands that are not special give the exact root rounded once: its
integer part at a fine weight, and a bit that says whether anything is left. -/
def Claims.RootsAreRounded : Prop :=
  ∀ ty ∈ [Ty.f64, .f32, .f16, .bf16], ∀ (mode a b m : Nat) (e : Int), decodeF ty a = .fin false m e → 0 < m →
    (∃ (r k x : Nat) (q : Int), m * 2 ^ k = x ∧ e - k = 2 * q ∧ r * r ≤ x ∧ x < (r + 1) * (r + 1) ∧ 2 ^ 120 ≤ r
      ∧ (resolved ty mode 2 a b).value ty mode = roundF ty mode false false (2 * r + (if r * r = x then 0 else 1)) (q - 1))
    ∧ (∃ (r k x : Nat) (q : Int), 2 ^ k / m = x ∧ -e - k = 2 * q ∧ r * r ≤ x ∧ x < (r + 1) * (r + 1) ∧ 2 ^ 120 ≤ r
      ∧ (resolved ty mode 3 a b).value ty mode
          = roundF ty mode false false (2 * r + (if r * r * m = 2 ^ k then 0 else 1)) (q - 1))
    ∧ (∀ n l d, decodeF ty b = .fin n l d → 0 < l → ∃ (r x : Nat) (q : Int), q ≤ e ∧ q ≤ d
      ∧ x = m ^ 2 * 2 ^ (2 * (e - q)).toNat + l ^ 2 * 2 ^ (2 * (d - q)).toNat
      ∧ r * r ≤ x ∧ x < (r + 1) * (r + 1) ∧ 2 ^ 120 ≤ r
      ∧ (resolved ty mode 16 a b).value ty mode
          = roundF ty mode false false (2 * r + (if r * r = x then 0 else 1)) (q - 1))

/-- R236: the special inputs of the functions of one operand, with their results and flags. -/
def Claims.ResolvedSpecialInputs : Prop :=
  ∀ ty ∈ [Ty.f64, .f32, .f16, .bf16], ∀ (mode a : Nat), mode ≤ 4 →
    let x := decodeF ty a
    let val := fun sub => (resolved ty mode sub a 0).value ty mode
    let one := oneBits ty
    let nv := (canonNan ty, fNV)
    (∀ sg, x = .nan sg → ∀ sub, 1 ≤ sub → sub ≤ 15 → val sub = (canonNan ty, if sg then fNV else 0))
    ∧ (∀ n e, x = .fin n 0 e →
      val 2 = (zeroBits ty n, 0) ∧ val 3 = (infBits ty n, fDZ) ∧ val 4 = (one, 0) ∧ val 5 = (one, 0)
      ∧ val 6 = (zeroBits ty n, 0) ∧ val 7 = (infBits ty true, fDZ) ∧ val 8 = (infBits ty true, fDZ)
      ∧ val 9 = (zeroBits ty n, 0) ∧ val 10 = (zeroBits ty n, 0) ∧ val 11 = (one, 0) ∧ val 12 = (zeroBits ty n, 0)
      ∧ val 13 = (zeroBits ty n, 0) ∧ val 14 = (one, 0) ∧ val 15 = (zeroBits ty n, 0))
    ∧ (x = .inf false → val 2 = (infBits ty false, 0) ∧ val 3 = (zeroBits ty false, 0) ∧ val 4 = (infBits ty false, 0)
      ∧ val 5 = (infBits ty false, 0) ∧ val 6 = (infBits ty false, 0) ∧ val 7 = (infBits ty false, 0)
      ∧ val 8 = (infBits ty false, 0) ∧ val 9 = (infBits ty false, 0))
    ∧ (x = .inf true → val 2 = nv ∧ val 3 = nv ∧ val 4 = (zeroBits ty false, 0) ∧ val 5 = (zeroBits ty false, 0)
      ∧ val 6 = (one + zeroBits ty true, 0) ∧ val 7 = nv ∧ val 8 = nv ∧ val 9 = nv)
    ∧ (∀ n, x = .inf n → ∀ sub, 10 ≤ sub → sub ≤ 14 → val sub = nv)
    ∧ (∀ m e, x = .fin true m e → 0 < m → val 2 = nv ∧ val 3 = nv ∧ val 7 = nv ∧ val 8 = nv)
    ∧ (a = one + zeroBits ty true → val 9 = (infBits ty true, fDZ))
    ∧ (∀ n m e, x = .fin n m e → (m % 2 ^ (-e).toNat = 0) → val 13 = (zeroBits ty n, 0))
    ∧ (∀ n m (e : Int), x = .fin n m e → e < 0 → m * 2 % 2 ^ (-e).toNat = 0 → m % 2 ^ (-e).toNat ≠ 0 →
        val 14 = (zeroBits ty false, 0))

/-- R236: the special inputs of `fhypot` and `fpow`. -/
def Claims.PowerSpecialInputs : Prop :=
  ∀ ty ∈ [Ty.f64, .f32, .f16, .bf16], ∀ (mode a b : Nat), mode ≤ 4 →
    let x := decodeF ty a
    let y := decodeF ty b
    let hyp := (resolved ty mode 16 a b).value ty mode
    let pow := (resolved ty mode 17 a b).value ty mode
    let nan := fun v => if signals v then fNV else 0
    (∀ n, x = .inf n → hyp = (infBits ty false, nan y)) ∧ (∀ n, y = .inf n → hyp = (infBits ty false, nan x))
    ∧ (∀ n e, y = .fin n 0 e → pow = (oneBits ty, nan x))
    ∧ (a = oneBits ty → pow = (oneBits ty, nan y))
    ∧ (∀ sg, x = .nan sg → isZero true y = false → isZero false y = false →
        pow = (canonNan ty, if sg || signals y then fNV else 0))
    ∧ (∀ n e k l (d : Int), x = .fin n 0 e → y = .fin k l d → 0 < l →
        let odd := decide (d ≤ 0 ∧ l % 2 ^ (-d).toNat = 0 ∧ l / 2 ^ (-d).toNat % 2 = 1)
        pow = if k then (infBits ty (n && odd), fDZ) else (zeroBits ty (n && odd), 0))
    ∧ (∀ n e k, x = .fin n 0 e → y = .inf k → pow = if k then (infBits ty false, 0) else (zeroBits ty false, 0))
    ∧ (∀ k, x = .inf false → y = .inf k → pow = if k then (zeroBits ty false, 0) else (infBits ty false, 0))
    ∧ (a = oneBits ty + zeroBits ty true → ∀ k, y = .inf k → pow = (oneBits ty, 0))
    ∧ (∀ m e k l (d : Int), x = .fin true m e → 0 < m → y = .fin k l d → d < 0 → l % 2 ^ (-d).toNat ≠ 0 →
        pow = (canonNan ty, fNV))

/-- R103, R237: `fdot2` and `fdot4` round the exact sum of their products and the f32 accumulator once. -/
def Claims.FloatDotProducts : Prop :=
  ∀ p ∈ [((.fdot2 : ExtOps → Instr), 2), (.fdot4, 4)], ∀ (o : ExtOps) (s : State) (c : Ctx), Free (p.1 o) s c →
    recordsReady c c.lanes.length false = true →
    let w := tyWidth o.ty
    OpensResolved (p.1 o) s c o.lk.toNat o.d.toNat 1 c.lanes.length 32 (fun k _ =>
      sumOfProducts .f32 (c.mode o.rm) ((List.range p.2).map fun j =>
          (decodeF o.ty (elemA c o k j).toNat, decodeF o.ty (elemOfWidth w (c.opBReg o k) j).toNat))
        [decodeF .f32 (c.rd o.c.r.toNat k)])

/-- R220, R237, R238: where its records have room, a dot product or a group sum that is free to issue completes its issue: each of its
slices moves on past it, no register changes yet, and its long instruction brings the exact sum rounded once. With no active
lane a group sum needs no room, and brings no result. -/
def Claims.ReductionsComplete : Prop :=
  (∀ p ∈ [((.fdot2 : ExtOps → Instr), 2), (.fdot4, 4)], ∀ (o : ExtOps) (s : State) (c : Ctx), Free (p.1 o) s c →
    RecordRoom c c.lanes.length False →
    let w := tyWidth o.ty
    MovesOn (p.1 o) s c ∧ OpensResolved (p.1 o) s c o.lk.toNat o.d.toNat 1 c.lanes.length 32 (fun k _ =>
      sumOfProducts .f32 (c.mode o.rm) ((List.range p.2).map fun j =>
          (decodeF o.ty (elemA c o k j).toNat, decodeF o.ty (elemOfWidth w (c.opBReg o k) j).toNat))
        [decodeF .f32 (c.rd o.c.r.toNat k)]))
  ∧ ∀ p ∈ [((.gsum : ExtOps → Instr), false), (.gsumD, false), (.gsumsq, true), (.gsumsqD, true)],
    ∀ (o : ExtOps) (s : State) (c : Ctx), Free (p.1 o) s c →
    let need := if c.lanes = [] then 0 else if o.ty = .f64 then 5 else 3
    RecordRoom c need False →
    MovesOn (p.1 o) s c ∧ (c.lanes ≠ [] →
      OpensResolved (p.1 o) s c o.lk.toNat o.d.toNat (if ty64 o.ty then 2 else 1) need (tyWidth o.ty) (fun _ e =>
        let xs := c.lanes.map fun k => decodeF o.ty (elemA c o k e).toNat
        if p.2 then sumOfProducts o.ty (c.mode o.rm) (xs.map fun x => (x, x)) [] else sumOfTerms o.ty (c.mode o.rm) xs))

/-- R238: `gsum` and `gsumsq` give every lane that takes part the exact sum over those lanes, rounded once, element by
element. -/
def Claims.GroupSums : Prop :=
  ∀ p ∈ [((.gsum : ExtOps → Instr), false), (.gsumD, false), (.gsumsq, true), (.gsumsqD, true)],
    ∀ (o : ExtOps) (s : State) (c : Ctx), Free (p.1 o) s c → c.lanes ≠ [] →
    recordsReady c (if o.ty = .f64 then 5 else 3) false = true →
    OpensResolved (p.1 o) s c o.lk.toNat o.d.toNat (if ty64 o.ty then 2 else 1) (if o.ty = .f64 then 5 else 3) (tyWidth o.ty)
      (fun _ e =>
        let xs := c.lanes.map fun k => decodeF o.ty (elemA c o k e).toNat
        if p.2 then sumOfProducts o.ty (c.mode o.rm) (xs.map fun x => (x, x)) [] else sumOfTerms o.ty (c.mode o.rm) xs)

/-- R239: `gmax` and `gmin` give every lane that takes part the extreme over those lanes, element by element; NaNs are
passed over, and a signalling NaN raises NV. -/
def Claims.GroupExtremes : Prop :=
  ∀ p ∈ [((.gmax : ExtOps → Instr), true), (.gmin, false)], ∀ (o : ExtOps) (s : State) (c : Ctx), Free (p.1 o) s c →
    c.lanes ≠ [] → c.sq = none → ∃ t, exec (p.1 o) s = .next t
      ∧ (∀ k ∈ c.lanes, ∀ e < elemCount (tyWidth o.ty),
          extremeAmong o.ty (tyWidth o.ty) p.2 (c.lanes.map fun j => elemA c o j e)
            (elemOfWidth (tyWidth o.ty) (destAfter t c (ty64 o.ty) o.d.toNat k) e))
      ∧ flagsAfter t c = c.g.flags ||| BitVec.ofNat 6 (if !tyInt o.ty && (c.lanes.any fun k =>
          (List.range (elemCount (tyWidth o.ty))).any fun e => signals (decodeF o.ty (elemA c o k e).toNat)) then fNV else 0)

/-- R240: the integer `gsum` gives every lane that takes part the exact 64-bit sum. -/
def Claims.IntegerGroupSum : Prop :=
  ∀ (o : ExtOps) (s : State) (c : Ctx), Free (.gsumInt o) s c → ∃ t, exec (.gsumInt o) s = .next t
    ∧ ∀ k ∈ c.lanes, BitVec.ofNat 64 (destAfter t c true o.d.toNat k) =
      BitVec.ofInt 64 ((c.lanes.map fun j => elemInt (tySigned o.ty) (BitVec.ofNat 32 (c.rd o.a.r.toNat j))).sum)

/-- R241: `fprog` of a loaded slot opens a long instruction on D; a slot below 24, an empty one, a type that is not the
slot's, or a field beyond its arity that is not zero, raises ILL. What a slot's function gives is open (Config). -/
def Claims.FunctionSlots : Prop :=
  ∀ (o : ExtOps) (s : State) (c : Ctx), Free (.fprog o) s c →
    let n := o.imm.toNat % 64
    let zero := fun (x : Src) => x = ⟨0, false, false, 0⟩
    (∀ f, tget s.front.slots n = some f → 24 ≤ n → o.ty ∈ f.tys → (f.arity < 2 → zero o.b) → (f.arity < 3 → zero o.c) →
      recordsReady c c.lanes.length (o.ty == .f64 && f.cls != 0 && c.lanes.length != 0) = true →
      ∃ t g x, exec (.fprog o) s = .next t ∧ groupAfter t c = some g ∧ x ∈ g.longs ∧ x.done = false ∧ x.reg = o.d.toNat
        ∧ x.nregs = (if ty64 o.ty then 2 else 1) ∧ x.need = c.lanes.length
        ∧ ∀ k ∈ c.lanes, (∃ ws, (k, ws) ∈ x.res) ∨ ∃ r ∈ x.parks, r.lane = k ∧ r.slot = n)
    ∧ ((n < 24 ∨ tget s.front.slots n = none ∨ ∃ f, tget s.front.slots n = some f ∧ o.ty ∉ f.tys) →
      exec (.fprog o) s = .next (raise c (causeAll .ill c.sliceLanes)))

/-- R220, R241: `fprog` of a slot that is loaded, has the type and uses the fields that the instruction sets completes its issue where
its records have room: its slices move on past it, and its long instruction brings the result of D. -/
def Claims.FunctionSlotsComplete : Prop :=
  ∀ (o : ExtOps) (s : State) (c : Ctx) (f : FSlot), Free (.fprog o) s c →
    let n := o.imm.toNat % 64
    let zero := fun (x : Src) => x = ⟨0, false, false, 0⟩
    24 ≤ n → tget s.front.slots n = some f → o.ty ∈ f.tys → (f.arity < 2 → zero o.b) → (f.arity < 3 → zero o.c) →
    RecordRoom c c.lanes.length (o.ty = .f64 ∧ f.cls ≠ 0 ∧ c.lanes ≠ []) →
    MovesOn (.fprog o) s c ∧ ∃ t g x, exec (.fprog o) s = .next t ∧ groupAfter t c = some g ∧ x ∈ g.longs ∧ x.done = false
      ∧ x.reg = o.d.toNat ∧ x.nregs = (if ty64 o.ty then 2 else 1) ∧ x.need = c.lanes.length
      ∧ (∀ k ∈ c.sl, x.rem.getD k 0 = o.lk.toNat)
      ∧ ∀ k ∈ c.lanes, (∃ ws, (k, ws) ∈ x.res) ∨ ∃ r ∈ x.parks, r.lane = k ∧ r.slot = n

/-- R242: `parkw` issues once no lane of its group is pending and no long instruction of it awaits fast completion; until
then it waits. -/
def Claims.ParkWait : Prop :=
  ∀ (s : State) (c : Ctx) (o : ExtOps), Free (.parkw o) s c → c.sq = none →
    let open_ := (∃ x ∈ c.g.longs, x.done = false) ∨ ∃ p ∈ c.g.pend, p.2 ≠ 0
    (open_ → exec (.parkw o) s = .next s)
    ∧ (¬open_ → ∃ t, exec (.parkw o) s = .next t ∧ ∀ k ∈ c.sl, ∀ x, c.g.slices[k]? = some x →
        ∃ y, sliceAfter t c k = some y ∧ Slice.path y = (x.pc + 12, x.act, x.stack))

/-! ### The scratchpad -/

/-- R249, R250: what a scratchpad address reaches: a local offset in the program area of the issuer's block; by a window, an
offset in that of a block of the launch that resides in the cluster. Outside the area, or for an SBLOCK that the launch does
not have, PERM; inside the area of a block that is not in the cluster, XLAT. -/
def Claims.ScratchpadAddresses : Prop :=
  ∀ (c : Ctx) (ea n : Nat),
    let target := scratchTarget c ea n
    (ea < 2 ^ 31 → target = if ea + n ≤ progSize c.b then .ok (c.bid, ea) else .error .perm)
    ∧ ∀ sb off x, ea = 2 ^ 31 + sb * 2 ^ 20 + off → sb < 2 ^ 11 → off < 2 ^ 20 → tget c.s.launches c.b.launch = some x →
      let blocks := if x.r.node then x.blockRecs.length else x.r.blocks
      (blocks ≤ sb → target = .error .perm)
      ∧ (sb < blocks → (target = .error .xlat ↔ off + n ≤ progSize c.b ∧ ∀ x ∈ c.s.blocks, ¬(x.2.launch = c.b.launch ∧ x.2.sblock = sb
          ∧ x.2.placed = true ∧ x.2.ended = false ∧ x.2.complete = false ∧ x.2.h.halt ≠ .swapped
          ∧ clusterOfCore x.2.core = clusterOfCore c.b.core)))
      ∧ ∀ b o, target = .ok (b, o) → o = off ∧ ∃ k, (b, k) ∈ c.s.blocks ∧ k.launch = c.b.launch ∧ k.sblock = sb
          ∧ k.placed = true ∧ off + n ≤ progSize k

/-- R275, R276: `lds`, `ldsg`, `sts` and `stss` with aligned addresses that reach a space issue an access of each lane to it. -/
def Claims.ScratchpadMoves : Prop :=
  ∀ p ∈ scratchMoves, ∀ (o : ExtOps) (s : State) (c : Ctx) (tb off : Nat → Nat), Free (p.1 o) s c →
    let n := p.2.1 o
    (∀ k ∈ c.lanes, scratchAddr c o k % n = 0 ∧ scratchTarget c (scratchAddr c o k) n = .ok (tb k, off k)
      ∧ ((p.2.2.2.2 o).isSome → ∀ b, tget s.blocks (tb k) = some b → poisoned b.scrPoison (off k) n = false)) →
    IssuesAccesses (p.1 o) s c (p.2.2.2.2 o) (fun k a => a.scr = true ∧ a.tgt = tb k ∧ a.lanes = [k]
      ∧ a.signed = p.2.2.1 o ∧ Serves a k (off k) n ((p.2.2.2.1 c o k).map (bytesOf n)))

/-- R277: `atoms` with aligned addresses that reach a space issues one indivisible access of each lane to it. -/
def Claims.ScratchpadAtomics : Prop :=
  ∀ p ∈ scratchAtomics, ∀ (o : ExtOps) (s : State) (c : Ctx) (tb off : Nat → Nat), Free (p.1 o) s c →
    let n := fullBytes o
    (∀ k ∈ c.lanes, atomicAddr c o k % n = 0 ∧ scratchTarget c (atomicAddr c o k) n = .ok (tb k, off k)
      ∧ (∀ b, tget s.blocks (tb k) = some b → poisoned b.scrPoison (off k) n = false)) →
    IssuesAccesses (p.1 o) s c (some (o.d.toNat, regCount o)) (fun k a => a.scr = true ∧ a.tgt = tb k ∧ a.lanes = [k]
      ∧ a.addr = off k ∧ a.len = n ∧ a.op = .atomic (p.2.1 o) o.ty (c.rdTy o.ty o.b.r.toNat k) (p.2.2 c o k))

/-- R249, R250, R275: a misaligned lane raises MISA with its address; a lane whose address reaches nothing raises PERM or XLAT
with it; no access is issued. -/
def Claims.ScratchpadCauses : Prop :=
  ∀ p ∈ scratchMoves, ∀ (o : ExtOps) (s : State) (c : Ctx), Free (p.1 o) s c →
    let n := p.2.1 o
    let bad := fun k => scratchAddr c o k % n ≠ 0 ∨ ∃ x, scratchTarget c (scratchAddr c o k) n = .error x
    (∃ k ∈ c.lanes, bad k) →
    ∃ cs, exec (p.1 o) s = .next (raise c cs) ∧ (∀ x ∈ cs, x.1 ∈ c.lanes ∧ x.2.2 = scratchAddr c o x.1)
      ∧ ∀ k ∈ c.lanes, ((k, Cause.misa, scratchAddr c o k) ∈ cs ↔ scratchAddr c o k % n ≠ 0)
        ∧ ∀ x, x = Cause.perm ∨ x = Cause.xlat →
          ((k, x, scratchAddr c o k) ∈ cs ↔ scratchTarget c (scratchAddr c o k) n = .error x)

/-- R264, R277: a scratchpad access performs: a write puts its bytes at its offset, an atomic its new value, and no other byte
of the space changes. The access is gone, and what it read is delivered. -/
def Claims.ScratchpadPerforms : Prop :=
  ∀ (s : State) (x : Nat) (a : Access) (k : Block), AccessOf s x a → a.scr = true → a.op.tile = false →
    scratchMay s a = true → tget s.blocks a.tgt = some k → a.elemIx = 0 →
    let old := (List.range a.len).map fun j => rdCell k.scr (a.addr + j)
    ∃ t k', exec (.accessPerforms x) s = .next t ∧ tget t.blocks a.tgt = some k' ∧ t.mem = s.mem
      ∧ t.accesses = s.accesses.filter (fun y => y.id != x)
      ∧ (∀ p, rdCell k'.scr p = match a.op with
        | .write d => if a.addr ≤ p ∧ p < a.addr + d.length then d.getD (p - a.addr) 0 else rdCell k.scr p
        | .atomic code ty b z => if a.addr ≤ p ∧ p < a.addr + a.len
            then BitVec.ofNat 8 ((atomicNew code ty (ofBytes old) b z) / 2 ^ (8 * (p - a.addr))) else rdCell k.scr p
        | _ => rdCell k.scr p)
      ∧ ((∀ d, a.op ≠ .write d) → Delivered s t a old)

/-- R277, R391: what an atomic makes of the old value. -/
def Claims.AtomicFunctions : Prop :=
  ∀ (code : Nat) (ty : Ty) (old b z : Nat), code ≤ 9 → ty ∈ [Ty.i32, .n32, .i64, .n64] → old < 2 ^ tyWidth ty →
    b < 2 ^ tyWidth ty → z < 2 ^ tyWidth ty →
    atomicNew code ty old b z =
      (atomicOf (tySigned ty) code (BitVec.ofNat (tyWidth ty) old) (BitVec.ofNat _ b) (BitVec.ofNat _ z)).toNat

/-- R278: `sppin` and `spfree` with one offset in every lane set or clear the pin marks of the n pages from it, and of no
other; at most 16 pages of the program area may be pinned. -/
def Claims.PagePins : Prop :=
  ∀ p ∈ [((.sppin : ExtOps → Instr), true), (.spfree, false)], ∀ (o : ExtOps) (s : State) (c : Ctx) (v : Nat),
    Free (p.1 o) s c → c.lanes ≠ [] → (∀ k ∈ c.lanes, c.rd o.a.r.toNat k = v) →
    let named := fun q => v / 4096 ≤ q ∧ q < v / 4096 + o.imm.toNat
    let fresh := (List.range o.imm.toNat).filter fun j => !(pinnedPages c.b).contains (v / 4096 + j)
    (4096 * (v / 4096 + o.imm.toNat) ≤ progSize c.b → (p.2 = true → (pinnedPages c.b).length + fresh.length ≤ 16) →
      ∃ t k, exec (p.1 o) s = .next t ∧ blockAfter t c = some k ∧ k.scr = c.b.scr
        ∧ (∀ q, named q → ((tget k.pages q).map Page.pinned).getD false = p.2)
        ∧ (∀ q, ¬named q → tget k.pages q = tget c.b.pages q))
    ∧ (p.2 = true → 16 < (pinnedPages c.b).length + fresh.length → ∃ cs, exec (p.1 o) s = .next (raise c cs)
        ∧ highestOf cs .tlim)
    ∧ (0 < o.imm.toNat → progSize c.b < 4096 * (v / 4096 + o.imm.toNat) → ∃ cs, exec (p.1 o) s = .next (raise c cs)
        ∧ ∃ k ∈ c.lanes, (k, Cause.perm, v) ∈ cs)

/-! ### Named queues -/

/-- R268, R272, R279: `qinit` sets a queue up: empty, at its ring, with no allowance. -/
def Claims.QueueInit : Prop :=
  ∀ (o : ExtOps) (s : State) (c : Ctx) (base cap : Nat), Free (.qinit o) s c → c.lanes ≠ [] →
    (∀ k ∈ c.lanes, c.rd o.a.r.toNat k = base ∧ c.rd o.b.r.toNat k = cap) →
    let q := queueOf c.b o.imm.toNat
    q.count = 0 → q.pushers = [] → q.poppers = [] → (∃ j, 1 ≤ j ∧ j ≤ 10 ∧ cap = 2 ^ j) → base % 8 = 0 →
    base + 8 * cap ≤ progSize c.b →
    ∃ t q', exec (.qinit o) s = .next t ∧ queueAfter t c o.imm.toNat = some q' ∧ q'.init = true ∧ q'.base = base
      ∧ q'.cap = cap ∧ q'.head = 0 ∧ q'.count = 0 ∧ (∀ p, allowance q' p = 0)
      ∧ ∀ j, j ≠ o.imm.toNat → queueAfter t c j = some (queueOf c.b j)

/-- R279: `qallow` raises the allowance of the producer it names, and of no other. -/
def Claims.QueueAllow : Prop :=
  ∀ (o : ExtOps) (s : State) (c : Ctx) (v : Nat), Free (.qallow o) s c → c.lanes ≠ [] →
    (∀ k ∈ c.lanes, c.rd o.a.r.toNat k = v) →
    let n := o.imm.toNat % 16
    let p := o.imm.toNat / 16 % 64
    let q := queueOf c.b n
    q.init = true → p ≤ 32 → allowance q p + v ≤ 65535 →
    ∃ t q', exec (.qallow o) s = .next t ∧ queueAfter t c n = some q' ∧ allowance q' p = allowance q p + v
      ∧ (∀ j, j ≠ p → allowance q' j = allowance q j) ∧ q'.head = q.head ∧ q'.count = q.count ∧ q'.base = q.base
      ∧ q'.cap = q.cap ∧ .queueWaiterResume c.bid n ∈ t.agenda

/-- R279: `qpush` with an allowance and a free place writes its handle after the last and takes one from the allowance. No
other byte of the space changes. -/
def Claims.QueuePush : Prop :=
  ∀ (o : ExtOps) (s : State) (c : Ctx) (h : Nat), Free (.qpush o) s c → c.lanes ≠ [] →
    (∀ k ∈ c.lanes, c.rd2 o.a.r.toNat k = h) → h < 0xFFFFFFFF * 2 ^ 32 →
    let n := o.imm.toNat
    let q := queueOf c.b n
    let p := producerOf c.party
    let a := q.base + 8 * ((q.head + q.count) % q.cap)
    q.init = true → allowance q p ≠ 0 → q.count < q.cap → q.poppers = [] → scratchPending s c.bid c.party = false →
    slotReady c.b s.nextId a true →
    ∃ t k q', exec (.qpush o) s = .next t ∧ blockAfter t c = some k ∧ queueAfter t c n = some q'
      ∧ q'.count = q.count + 1 ∧ q'.head = q.head ∧ allowance q' p = allowance q p - 1
      ∧ (∀ j, j ≠ p → allowance q' j = allowance q j)
      ∧ (∀ x, rdCell k.scr x = if a ≤ x ∧ x < a + 8 then BitVec.ofNat 8 (h / 2 ^ (8 * (x - a))) else rdCell c.b.scr x)
      ∧ RegistersKept t c

/-- R271, R279: `qpush` without an allowance or a free place blocks its issuer: it joins the queue's waiters behind those that blocked
before it; of those that blocked in its cycle the lower producer number stands first. -/
def Claims.QueuePushBlocks : Prop :=
  ∀ (o : ExtOps) (s : State) (c : Ctx) (h : Nat), Free (.qpush o) s c → c.lanes ≠ [] →
    (∀ k ∈ c.lanes, c.rd2 o.a.r.toNat k = h) → h < 0xFFFFFFFF * 2 ^ 32 →
    let n := o.imm.toNat
    let q := queueOf c.b n
    q.init = true → allowance q (producerOf c.party) = 0 ∨ q.count = q.cap →
    scratchPending s c.bid c.party = false →
    ∃ t q' w, exec (.qpush o) s = .next t ∧ queueAfter t c n = some q' ∧ Joins w q.pushers q'.pushers
      ∧ w.since = (coreOf s c.b.core).scyc ∧ w.party = producerOf c.party ∧ w.handle.toNat = h ∧ q'.count = q.count
      ∧ (c.sq = none → ∀ k ∈ c.sl, ∀ y, sliceAfter t c k = some y → y.wait = .queue n)

/-- R264, R270, R279: `qpop`, and `qtry` of a queue that holds a handle that no blocked pop has, write the oldest handle to D in every
lane, and it leaves the queue. They follow the party's earlier accesses to its space. -/
def Claims.QueuePop : Prop :=
  ∀ p ∈ [((.qpop : ExtOps → Instr), true), (.qtry, false)], ∀ (o : ExtOps) (s : State) (c : Ctx), Free (p.1 o) s c →
    c.lanes ≠ [] →
    let n := o.imm.toNat
    let q := queueOf c.b n
    let a := q.base + 8 * q.head
    q.init = true → 0 < q.count → (∀ w ∈ q.poppers, w.got = false) → (p.2 = true → q.poppers = []) →
    localPending s c.bid c.party = false → slotReady c.b s.nextId a false →
    ∃ t k q', exec (p.1 o) s = .next t ∧ blockAfter t c = some k ∧ queueAfter t c n = some q'
      ∧ (∀ j ∈ c.lanes, destAfter t c true o.d.toNat j = ofBytes ((List.range 8).map fun j => rdCell c.b.scr (a + j)))
      ∧ q'.count = q.count - 1 ∧ q'.head = (q.head + 1) % q.cap ∧ q'.allow = q.allow ∧ k.scr = c.b.scr

/-- R279: `qtry` of an empty queue writes all ones; `qpop` blocks its issuer. -/
def Claims.QueueEmpty : Prop :=
  ∀ (o : ExtOps) (s : State) (c : Ctx),
    let n := o.imm.toNat
    let q := queueOf c.b n
    q.init = true → q.count = 0 → c.lanes ≠ [] → localPending s c.bid c.party = false →
    (Free (.qtry o) s c → ∃ t, exec (.qtry o) s = .next t ∧ queueAfter t c n = some q
      ∧ ∀ k ∈ c.lanes, destAfter t c true o.d.toNat k = 2 ^ 64 - 1)
    ∧ (Free (.qpop o) s c → (∀ w ∈ q.poppers, w.got = false) → ∃ t q' w, exec (.qpop o) s = .next t
      ∧ queueAfter t c n = some q' ∧ Joins w q.poppers q'.poppers ∧ w.since = (coreOf s c.b.core).scyc ∧ w.party = producerOf c.party
      ∧ w.dst = o.d.toNat ∧ w.got = false
      ∧ (c.sq = none → ∀ k ∈ c.sl, ∀ y, sliceAfter t c k = some y → y.wait = .queue n))

/-- R269, R272: misuse raises QERR in the issuing lanes and changes no queue: a queue that is not set up, a value that is no handle,
an allowance of no producer or above 65,535, and a `qinit` of a queue that holds handles or blocked waiters, or of a capacity or a
ring that is none. -/
def Claims.QueueMisuse : Prop :=
  ∀ (o : ExtOps) (s : State) (c : Ctx), c.lanes ≠ [] →
    (∀ i ∈ [(.qpush : ExtOps → Instr), .qpop, .qtry], Free (i o) s c → (queueOf c.b o.imm.toNat).init = false →
      (∀ j ∈ c.lanes, ∀ k ∈ c.lanes, c.rd2 o.a.r.toNat j = c.rd2 o.a.r.toNat k) →
      exec (i o) s = .next (raise c (causeAll .qerr c.lanes)))
    ∧ (∀ h, Free (.qpush o) s c → (∀ k ∈ c.lanes, c.rd2 o.a.r.toNat k = h) → 0xFFFFFFFF * 2 ^ 32 ≤ h →
      exec (.qpush o) s = .next (raise c (causeAll .qerr c.lanes)))
    ∧ (Free (.qallow o) s c → (∀ j ∈ c.lanes, ∀ k ∈ c.lanes, c.rd o.a.r.toNat j = c.rd o.a.r.toNat k) →
      (queueOf c.b (o.imm.toNat % 16)).init = false ∨ 32 < o.imm.toNat / 16 % 64
        ∨ 65535 < allowance (queueOf c.b (o.imm.toNat % 16)) (o.imm.toNat / 16 % 64) + c.rd o.a.r.toNat (c.lanes.headD 0) →
      exec (.qallow o) s = .next (raise c (causeAll .qerr c.lanes)))
    ∧ (Free (.qinit o) s c → (∀ j ∈ c.lanes, ∀ k ∈ c.lanes, c.rd o.a.r.toNat j = c.rd o.a.r.toNat k
        ∧ c.rd o.b.r.toNat j = c.rd o.b.r.toNat k) →
      let q := queueOf c.b o.imm.toNat
      let base := c.rd o.a.r.toNat (c.lanes.headD 0)
      let cap := c.rd o.b.r.toNat (c.lanes.headD 0)
      q.count ≠ 0 ∨ q.pushers ≠ [] ∨ q.poppers ≠ [] ∨ (∀ j, 1 ≤ j → j ≤ 10 → cap ≠ 2 ^ j) ∨ base % 8 ≠ 0
        ∨ progSize c.b < base + 8 * cap →
      exec (.qinit o) s = .next (raise c (causeAll .qerr c.lanes)))

/-- R271: QUEUE_WAITER_RESUME of a blocked pop that has a handle: its destination receives the oldest one. -/
def Claims.BlockedPopResumes : Prop :=
  ∀ (s : State) (b n : Nat) (k : Block) (g : Group) (w : Waiter), tget s.blocks b = some k → k.h.halt = .running → n < 16 →
    let q := queueOf k n
    q.poppers = [w] → w.got = true → w.party < 32 → tget k.groups w.party = some g → w.lanes < 2 ^ 32 →
    slotReady k s.nextId (q.base + 8 * q.head) false → g.aside = none → regReady g w.dst = true → regReady g (w.dst + 1) = true →
    ∃ t k' g', exec (.queueWaiterResume b n) s = .next t ∧ tget t.blocks b = some k' ∧ tget k'.groups w.party = some g'
      ∧ (queueOf k' n).poppers = [] ∧ (queueOf k' n).count = q.count - 1 ∧ (queueOf k' n).head = (q.head + 1) % q.cap
      ∧ (∀ l, w.lanes.testBit l = true → rdReg g' w.dst l + 2 ^ 32 * rdReg g' (w.dst + 1) l
          = ofBytes ((List.range 8).map fun j => rdCell k.scr (q.base + 8 * q.head + j)))
      ∧ (∀ j (y : Slice), g.slices[j]? = some y → w.slices.getLsbD j = true → y.wait = .queue n →
          ∃ z, g'.slices[j]? = some z ∧ z.wait = .none ∧ Slice.path z = Slice.path y)

/-- R271: QUEUE_WAITER_RESUME of a blocked push that has an allowance and finds a free place: its handle enters the queue. -/
def Claims.BlockedPushResumes : Prop :=
  ∀ (s : State) (b n : Nat) (k : Block) (w : Waiter), tget s.blocks b = some k → k.h.halt = .running → n < 16 →
    let q := queueOf k n
    let a := q.base + 8 * ((q.head + q.count) % q.cap)
    q.poppers = [] → q.pushers = [w] → allowance q w.party ≠ 0 → q.count < q.cap → slotReady k s.nextId a true →
    ∃ t k', exec (.queueWaiterResume b n) s = .next t ∧ tget t.blocks b = some k'
      ∧ (queueOf k' n).pushers = [] ∧ (queueOf k' n).count = q.count + 1
      ∧ allowance (queueOf k' n) w.party = allowance q w.party - 1
      ∧ ∀ x, rdCell k'.scr x = if a ≤ x ∧ x < a + 8 then BitVec.ofNat 8 (w.handle.toNat / 2 ^ (8 * (x - a)))
          else rdCell k.scr x

/-! ### Global memory and tiles -/

/-- R320 to R322, R327, R352, R390: `ld`, `st`, `ldacq` and `strel` whose addresses reach memory issue accesses that serve each
lane, with the scope and ordering of the instruction. -/
def Claims.GlobalMoves : Prop :=
  ∀ p ∈ globalMoves, ∀ (o : ExtOps) (s : State) (c : Ctx) (pa : Nat → Nat), Free (p.1 o) s c →
    let n := fullBytes o
    let st := p.2.1
    (∀ k ∈ c.lanes, Reaches c (!st) st st (globalAddr c o k) n (pa k)) →
    IssuesAccesses (p.1 o) s c (if st then none else some (o.d.toNat, regCount o)) (fun k a => a.scr = false
      ∧ Serves a k (pa k) n (if st then
          some (bytesOf n (if ty64 o.ty then c.rd2 o.b.r.toNat k else modify o.b (tyWidth o.ty) (c.rd o.b.r.toNat k))) else none)
      ∧ a.acq = p.2.2.1
      ∧ (a.scope, a.rel) = if st && !p.2.2.2 then storeOrder c o else (scopeOf o, p.2.2.2))

/-- R320, R321, R352: a lane whose address lies above 57 bits or on an absent page raises XLAT, a misaligned one MISA, one on a
page that does not grant the access PERM, each with its address; no access is issued. What the translations met is noted: a
malformed entry and an address that holds nothing are logged (R457, R491). None waits for the host (R447). -/
def Claims.GlobalCauses : Prop :=
  ∀ p ∈ globalMoves, ∀ (o : ExtOps) (s : State) (c : Ctx) (k : Nat), Free (p.1 o) s c → k ∈ c.lanes →
    let ea := globalAddr c o k
    let n := fullBytes o
    let absent := 2 ^ 57 ≤ ea ∨ ∃ e, translate s c.l.pasid ea = .absent e
    let denied := ea < 2 ^ 57 ∧ c.g.aside = none ∧ ∃ l, translate s c.l.pasid ea = .ok l ∧
      (l.ctx = true ∨ (p.2.1 = false ∧ l.r = false) ∨ (p.2.1 = true ∧ l.w = false) ∨ physKind l.pa = .weight
        ∨ physKind l.pa = .regs ∨ physKind l.pa = .remote ∨ physKind l.pa = .nothing)
    (∀ j ∈ c.lanes, globalAddr c o j < 2 ^ 57 → ∀ e, translate s c.l.pasid (globalAddr c o j) ≠ .ats e) →
    ea % n ≠ 0 ∨ absent ∨ denied →
    ∃ cs, exec (p.1 o) s = .next (noteLanes c (c.lanes.map (globalAddr c o)) (raise c cs))
      ∧ (noteLanes c (c.lanes.map (globalAddr c o)) (raise c cs)).accesses = s.accesses
      ∧ (∀ x ∈ cs, x.1 ∈ c.lanes ∧ x.2.2 = globalAddr c o x.1)
      ∧ (ea % n ≠ 0 → (k, Cause.misa, ea) ∈ cs) ∧ (absent → (k, Cause.xlat, ea) ∈ cs)
      ∧ (denied → (k, Cause.perm, ea) ∈ cs)

/-- R345, R354: a lane of `ldw` whose offset is misaligned raises MISA, one whose offset lies at or above 512 MiB PERM, each with
the offset; no access is issued. -/
def Claims.WeightCauses : Prop :=
  ∀ (o : ExtOps) (s : State) (c : Ctx) (k : Nat), Free (.ldw o) s c → k ∈ c.lanes →
    let ea := globalAddr c o k
    ea % fullBytes o ≠ 0 ∨ 0x20000000 ≤ ea →
    ∃ cs, exec (.ldw o) s = .next (raise c cs) ∧ (raise c cs).accesses = s.accesses
      ∧ (∀ x ∈ cs, x.1 ∈ c.lanes ∧ x.2.2 = globalAddr c o x.1)
      ∧ (ea % fullBytes o ≠ 0 → (k, Cause.misa, ea) ∈ cs) ∧ (0x20000000 ≤ ea → (k, Cause.perm, ea) ∈ cs)

/-- R345, R354: `ldw` with aligned offsets below 512 MiB reads the weight store of its die. -/
def Claims.WeightLoads : Prop :=
  ∀ (o : ExtOps) (s : State) (c : Ctx), Free (.ldw o) s c →
    let n := fullBytes o
    let base := 0x40000000000 + 0x20000000 * (c.b.core / 192)
    (∀ k ∈ c.lanes, globalAddr c o k % n = 0 ∧ globalAddr c o k < 0x20000000
      ∧ poisoned s.mem.poison (base + globalAddr c o k) n = false) →
    IssuesAccesses (.ldw o) s c (some (o.d.toNat, regCount o))
      (fun k a => a.scr = false ∧ Serves a k (base + globalAddr c o k) n none)

/-- R159, R491: a write of global memory all of whose bytes lie in the context image of a group that is resident on another core
changes nothing but the error log, where it is entered with the location of the writing core. -/
def Claims.ImageWritesAreDiscarded : Prop :=
  ∀ (s : State) (x : Nat) (a : Access) (d : List Byte) (p : Nat), AccessOf s x a → a.scr = false → globalMay s a = true →
    a.elemIx = 0 → a.die < 4 → noTargets s a.ranges → a.op = .write d → d.length = (byteAddrs a).length →
    (byteAddrs a).head? = some p → (∀ q ∈ byteAddrs a, inPieces (imagePieces s (some a.core)) q = true) →
    ∃ t, exec (.accessPerforms x) s = .next t ∧ Logs s t 7 10 (location s a.core) p 0
      ∧ t.accesses = s.accesses.filter (fun y => y.id != x)
      ∧ ∀ q, q < s.front.l.errBase.toNat ∨ s.front.l.errBase.toNat + 32 * 4096 ≤ q → homeCell t.mem q = homeCell s.mem q

/-- R361, R364, R366: a read or write of global memory performs: a read delivers the bytes that its block sees; a write reaches the
observers of its scope, block, cluster or die, after every earlier write, and no other observer. -/
def Claims.GlobalPerforms : Prop :=
  ∀ (s : State) (x : Nat) (a : Access), AccessOf s x a → a.scr = false → globalMay s a = true → a.elemIx = 0 → a.die < 4 →
    noTargets s a.ranges →
    (a.op = .read → ∃ t, exec (.accessPerforms x) s = .next t ∧ t.mem = s.mem
      ∧ t.accesses = s.accesses.filter (fun y => y.id != x) ∧ Delivered s t a (viewOf s a.viewer a.ranges))
    ∧ (∀ d, a.op = .write d → offImages s a.core (byteAddrs a) → ∃ t, exec (.accessPerforms x) s = .next t
      ∧ t.accesses = s.accesses.filter (fun y => y.id != x) ∧ ViewWritten s t (writeSeen a) ((byteAddrs a).zip d))

/-- R373, R391, R392: `atom` and integer `red` whose addresses reach memory issue one indivisible access of each lane. -/
def Claims.GlobalAtomics : Prop :=
  (∀ p ∈ globalAtomics, ∀ (o : ExtOps) (s : State) (c : Ctx) (pa : Nat → Nat), Free (p.1 o) s c →
    let n := fullBytes o
    let code := p.2.1 o
    (∀ k ∈ c.lanes, Reaches c true true false (p.2.2.1 c o k) n (pa k)
      ∧ (physKind (pa k) = .host → code = 0 ∨ code = 8 ∨ code = 9)) →
    IssuesAccesses (p.1 o) s c (some (o.d.toNat, regCount o)) (fun k a => a.scr = false ∧ a.lanes = [k] ∧ a.addr = pa k
      ∧ a.len = n ∧ a.op = .atomic code o.ty (c.rdTy o.ty o.b.r.toNat k) (p.2.2.2 c o k)
      ∧ a.acq = (ordCode o == 1 || ordCode o == 3)
      ∧ (ordCode o ≠ 0 → a.scope = scopeOf o ∧ a.rel = (ordCode o == 2 || ordCode o == 3))))
  ∧ (∀ (o : ExtOps) (s : State) (c : Ctx) (pa : Nat → Nat), Free (.redInt o) s c →
    let n := fullBytes o
    (∀ k ∈ c.lanes, Reaches c true true false (globalAtomicAddr c o k) n (pa k)
      ∧ (physKind (pa k) = .host → o.imm.toNat / 1024 = 0)) →
    IssuesAccesses (.redInt o) s c none (fun k a => a.scr = false ∧ a.lanes = [k] ∧ a.addr = pa k ∧ a.len = n
      ∧ a.op = .redInt (o.imm.toNat / 1024) o.ty (c.rdTy o.ty o.b.r.toNat k) ∧ a.scope = scopeOf o
      ∧ a.rel = (ordCode o == 2 || ordCode o == 3)))

/-- R373, R374: outside deterministic mode an atomic or an integer reduction performs in one step: it delivers the old value,
where it is asked for, and the new one enters the view of its die. -/
def Claims.GlobalAtomicPerforms : Prop :=
  ∀ (s : State) (x : Nat) (a : Access) (code : Nat) (ty : Ty) (b z : Nat), AccessOf s x a → a.scr = false →
    globalMay s a = true → a.elemIx = 0 → a.die < 4 → a.det = false → noTargets s a.ranges → a.segs = [] →
    offImages s a.core (byteAddrs a) →
    a.op = .atomic code ty b z ∨ (a.op = .redInt code ty b ∧ z = 0) →
    let old := viewOf s a.viewer [(a.addr, a.len)]
    ∃ t, exec (.accessPerforms x) s = .next t
      ∧ ViewWritten s t (fun v => v.die = a.die) ((byteAddrs a).zip (bytesOf a.len (atomicNew code ty (ofBytes old) b z)))
      ∧ (a.op = .atomic code ty b z → Delivered s t a old)

/-- R376, R392: floating `red` whose addresses reach device memory, with targets left in the allowance, issues an addition of
each element of B, after half select and swizzle, to its own address, and raises NV for a signalling NaN. -/
def Claims.FloatReductions : Prop :=
  ∀ (o : ExtOps) (s : State) (c : Ctx) (pa : Nat → Nat), Free (.redFloat o) s c →
    let n := fullBytes o
    let e := if tyWidth o.ty = 16 then 2 else n
    (∀ k ∈ c.lanes, Reaches c true true false (globalAtomicAddr c o k) n (pa k) ∧ physKind (pa k) ≠ .host
      ∧ onSysatom s c.l.pasid (globalAtomicAddr c o k) = false
      ∧ ∀ j < n / e, paOf c (globalAtomicAddr c o k + e * j) = pa k + e * j) →
    (s.accesses.length + c.lanes.length * (n / e) + ((List.range 4).map fun d => (dieOf s d).targets.length).sum ≤ c.l.rt) →
    IssuesAccesses (.redFloat o) s c none (fun k a => a.scr = false ∧ a.lanes = [k] ∧ a.len = e)
    ∧ ∃ t, exec (.redFloat o) s = .next t
      ∧ (∀ k ∈ c.lanes, ∀ j, j < n / e → ∃ a ∈ issuedAccesses s t, a.addr = pa k + e * j
          ∧ a.op = .redFloat o.ty (c.opBReg o k / 2 ^ (8 * e * j) % 2 ^ (8 * e)))
      ∧ flagsAfter t c = c.g.flags ||| BitVec.ofNat 6 (if c.lanes.any (fun k => (List.range (n / e)).any fun j =>
          signals (decodeF o.ty (c.opBReg o k / 2 ^ (8 * e * j) % 2 ^ (8 * e)))) then fNV else 0)

/-- R375, R376: a floating reduction performs: its address is an exact target whose sum is the location's value, or the target's,
plus the operand, exactly. -/
def Claims.FloatReductionPerforms : Prop :=
  ∀ (s : State) (x : Nat) (a : Access) (ty : Ty) (v : Nat) (n : Bool) (m : Nat) (e : Int), AccessOf s x a → a.scr = false →
    globalMay s a = true → a.det = false → a.op = .redFloat ty v → ty ∈ [Ty.f64, .f32, .f16, .bf16] →
    a.addr % (tyWidth ty / 8) = 0 → decodeF ty v = .fin n m e → physKind a.addr = .hbm → offImages s a.core [a.addr] →
    let d := a.addr
    let die := ((List.range 8).map fun k => bits d (16 + 3 * k) 3).foldl (· ^^^ ·) 0 / 2
    let unit := fun (n : Bool) (m : Nat) (e : Int) => inUnits (-2176) n m e
    (∀ u ∈ (dieOf s die).targets, u.addr = d → tyWidth u.ty = tyWidth ty → u ∈ (dieOf s die).targets →
        (∀ u' ∈ (dieOf s die).targets, u'.addr = d → tyWidth u'.ty = tyWidth ty → u' = u) →
        ∃ t u', exec (.accessPerforms x) s = .next t ∧ u' ∈ (dieOf t die).targets ∧ u'.addr = d ∧ u'.ty = ty
          ∧ u'.sum = u.sum + unit n m e)
    ∧ (targetsAt s d (tyWidth ty / 8) = [] → ∀ n0 m0 e0,
        decodeF ty (ofBytes ((List.range (tyWidth ty / 8)).map fun j => homeCell s.mem (d + j))) = .fin n0 m0 e0 →
        ∃ t u', exec (.accessPerforms x) s = .next t ∧ u' ∈ (dieOf t die).targets ∧ u'.addr = d ∧ u'.ty = ty
          ∧ u'.launch = a.launch ∧ u'.sum = unit n0 m0 e0 + unit n m e)

/-- R376, R377, R393: `redget` whose addresses reach memory issues a read of each element; where a target is live there, it
delivers the target's sum rounded once in the mode, and `.fin` writes it back and frees the target. -/
def Claims.ReductionReads : Prop :=
  (∀ (o : ExtOps) (s : State) (c : Ctx) (pa : Nat → Nat), Free (.redget o) s c →
    let n := fullBytes o
    let e := if tyWidth o.ty = 16 then 2 else n
    let fin := o.imm.getLsbD 10
    (∀ k ∈ c.lanes, Reaches c true fin false (globalAtomicAddr c o k) n (pa k)
      ∧ ∀ j < n / e, paOf c (globalAtomicAddr c o k + e * j) = pa k + e * j) →
    IssuesAccesses (.redget o) s c (some (o.d.toNat, regCount o)) (fun k a => a.scr = false ∧ a.lanes = [k] ∧ a.len = e
      ∧ a.addr = pa k + e * a.elemIx ∧ a.op = .redget o.ty (c.mode o.rm) fin))
  ∧ (∀ (s : State) (x : Nat) (a : Access) (ty : Ty) (mode : Nat) (fin : Bool) (u : Target), AccessOf s x a → a.scr = false →
    globalMay s a = true → a.det = false → a.elemIx = 0 → a.op = .redget ty mode fin → ty ∈ [Ty.f64, .f32, .f16, .bf16] →
    a.segs = [] → a.len = tyWidth ty / 8 → u.ty = ty → u.sum ≠ 0 →
    u.fl.nan = false → u.fl.inv = false → u.fl.pinf = false → u.fl.ninf = false → a.die < 4 →
    (dieOf s (homeDie a.addr)).targets.find? (fun t => t.addr == a.addr && tyWidth t.ty == tyWidth ty) = some u →
    let v := roundF ty mode false (u.sum < 0) u.sum.natAbs (-2176)
    ∃ t, exec (.accessPerforms x) s = .next t ∧ Delivered s t a (bytesOf a.len v.1)
      ∧ (fin = false → t.mem = s.mem ∧ (dieOf t (homeDie a.addr)).targets = (dieOf s (homeDie a.addr)).targets)
      ∧ (fin = true → u ∉ (dieOf t (homeDie a.addr)).targets
          ∧ ViewWritten s t (fun v => v.die = a.die) ((byteAddrs a).zip (bytesOf a.len v.1))))

/-- R328 to R330, R353: `ldt` and `stt` of a tile that meets no limit issue one access to all its rows, enter the range
scoreboard and, beyond `.blk`, the lock queue of the home. -/
def Claims.TileIssues : Prop :=
  ∀ p ∈ [((.ldt : ExtOps → Instr), true), (.stt, false)], ∀ (o : ExtOps) (s : State) (c : Ctx), Free (p.1 o) s c →
    c.lanes ≠ [] →
    sameTile c o →
    let u := tileArgs c o
    descCauses c.b u.d 0 u.rows u.rb = [] → tileLimits u = [] → (p.2 = false → tileOwn c u = [] ∧ tilePoison c u = []) →
    tilePages c u { r := p.2, w := !p.2, misa := false } = [] → u.a + 255 * u.pitch + 1024 < 2 ^ 57 →
    (∀ i < u.rows, ∀ j < u.rb, ∃ l, translate s c.l.pasid (u.row i + j) = .ok l
      ∧ ((u.row i + j) % 4096 ≠ 4095 → paOf c (u.row i + j + 1) = l.pa + 1)) →
    rangesFull c.b = false → (clusterOf s (homeCluster (paOf c u.a))).locks.length < 64 →
    (p.2 = false → c.l.mmrev ≠ 1) →
    ∃ t a k, exec (p.1 o) s = .next t ∧ issuedAccesses s t = [a] ∧ blockAfter t c = some k ∧ BytesKept s t
      ∧ a.scr = false ∧ a.b = c.bid ∧ a.party = c.party ∧ a.tgt = c.bid ∧ a.scope = u.scope ∧ a.locked = false
      ∧ a.op = (if p.2 then .tileLoad u.rows u.rb u.d.base u.d.rpitch u.d.rc
          else .tileStore u.rows u.rb u.d.base u.d.rpitch u.d.rc)
      ∧ (∀ i < u.rows, ∀ j < u.rb, (byteAddrs a)[i * u.rb + j]? = some (paOf c (u.a + i * u.pitch + j)))
      ∧ (∃ r ∈ k.x.ranges, r.out = !p.2 ∧ r.lo = u.d.base ∧ r.hi + 1 = u.d.base + (u.rows - 1) * u.d.rpitch + u.rb
          ∧ r.owner = a.id)
      ∧ (u.scope ≠ 1 → (clusterOf t (homeCluster (paOf c u.a))).locks
          = (clusterOf s (homeCluster (paOf c u.a))).locks ++ [a.id])
      ∧ (p.2 = true → ∃ g x, groupAfter t c = some g ∧ x ∈ g.longs ∧ a.long = some x.id ∧ x.done = false)

/-- R328, R329, R353: a tile that is misaligned, or whose pitch is where that counts, raises MISA, one beyond the limits TLIM, one
beyond `.blk` that crosses a 64 KiB boundary TSPAN, each with the tile's base and in every active lane; operands that differ raise
NUNI; nothing is issued. What the translations of its rows met is noted, and none waits for the host (R447). -/
def Claims.TileCauses : Prop :=
  ∀ p ∈ [((.ldt : ExtOps → Instr), true), (.stt, false)], ∀ (o : ExtOps) (s : State) (c : Ctx), Free (p.1 o) s c →
    let u := tileArgs c o
    (¬sameTile c o → c.lanes ≠ [] → exec (p.1 o) s = .next (raise c (causeAll .nuni c.lanes)))
    ∧ (sameTile c o → c.lanes ≠ [] →
      let eas := ((List.range u.rows).map fun i => (pieces (u.row i) u.rb).map (·.1)).flatten
      (∀ a ∈ eas, a < 2 ^ 57 → ∀ e, translate s c.l.pasid a ≠ .ats e) →
      ∀ x, (x = Cause.misa ∧ (u.a % 4 ≠ 0 ∨ (1 < u.rows ∧ u.pitch % 4 ≠ 0)))
        ∨ (x = .tlim ∧ (16384 < u.rows * u.rb ∨ (1 < u.rows ∧ u.pitch < u.rb)))
        ∨ (x = .tspan ∧ u.scope ≠ 1 ∧ u.a / 65536 ≠ (u.a + (u.rows - 1) * u.pitch + u.rb - 1) / 65536) →
      ∃ cs, exec (p.1 o) s = .next (noteLanes c eas (raise c cs)) ∧ (noteLanes c eas (raise c cs)).accesses = s.accesses
        ∧ (∀ y ∈ cs, y.1 ∈ c.lanes) ∧ ∀ k ∈ c.lanes, (k, x, u.a) ∈ cs)

/-- R258, R330, R353: a tile load beyond `.blk` performs: row i, byte j of the tile stands where the descriptor places it, no other byte of the
space changes, and its range entry is gone. -/
def Claims.TileLoadPerforms : Prop :=
  ∀ (s : State) (x : Nat) (a : Access) (k : Block) (rows rb base pitch rc : Nat), AccessOf s x a → a.scr = false →
    globalMay s a = true → a.op = .tileLoad rows rb base pitch rc → a.scope ≠ 1 → tileFits rows rb pitch rc → tget s.blocks a.tgt = some k →
    noTargets s a.ranges → (byteAddrs a).length = rows * rb →
    ∃ t k', exec (.accessPerforms x) s = .next t ∧ t.mem = s.mem ∧ tget t.blocks a.tgt = some k'
      ∧ (∀ i < rows, ∀ j < rb, some (rdCell k'.scr (rowAddr base pitch rc rb i j)) = (viewOf s a.viewer a.ranges)[i * rb + j]?)
      ∧ (∀ q, (∀ i < rows, ∀ j < rb, q ≠ rowAddr base pitch rc rb i j) → rdCell k'.scr q = rdCell k.scr q)
      ∧ ∀ r ∈ k'.x.ranges, r.owner ≠ x

/-- R330, R353: a tile store reads its rows once its pages are there and nothing holds them; beyond `.blk` it then writes them all
at once, and it leaves, and gives up its lock, when every die has applied what it wrote. -/
def Claims.TileStorePerforms : Prop :=
  (∀ (s : State) (b x : Nat) (a : Access) (k : Block) (rows rb base pitch rc : Nat),
    s.accesses.find? (fun y => y.id == x) = some a → a.id = x → tget s.blocks b = some k → xferOf s k.core x = none →
    a.op = .tileStore rows rb base pitch rc → a.srcRead = false →
    (∀ r ∈ k.x.ranges, r.out = false → r.owner < x → overlap base ((rows - 1) * pitch + rb) r.lo (r.hi + 1 - r.lo) = false) →
    (∀ i < rows, pagesIn k (base + i * pitch) rb = true) →
    ∃ t a', exec (.sourceReadDone b x) s = .next t ∧ a' ∈ t.accesses ∧ a'.id = x ∧ a'.srcRead = true
      ∧ a'.data.length = rows * rb
      ∧ (∀ i < rows, ∀ j < rb, a'.data[i * rb + j]? = some (rdCell k.scr (rowAddr base pitch rc rb i j)))
      ∧ ∀ k', tget t.blocks b = some k' → ∀ r ∈ k'.x.ranges, r.owner ≠ x)
  ∧ (∀ (s : State) (x : Nat) (a : Access) (rows rb base pitch rc : Nat), AccessOf s x a → a.scr = false →
    globalMay s a = true → a.op = .tileStore rows rb base pitch rc → a.scope ≠ 1 → noTargets s a.ranges → a.die < 4 →
    offImages s a.core (byteAddrs a) →
    ∃ t, exec (.accessPerforms x) s = .next t ∧ ViewWritten s t (writeSeen a) ((byteAddrs a).zip a.data)
      ∧ t.accesses = s.accesses.map fun y => if y.id = x then { y with landed := true } else y)
  ∧ (∀ (s : State) (x : Nat) (a : Access) (k : Block), s.accesses.find? (fun y => y.id == x) = some a → a.landed = true →
    (∀ q ∈ s.cores, ∀ y ∈ q.2.xfers, y.id ≠ x) → tget s.blocks a.b = some k → Alive k →
    (∀ w ∈ s.mem.log, w.id = x → ∀ d < 4, d ∈ w.applied) →
    ∃ t, exec (.accessPerforms x) s = .next t ∧ t.mem = s.mem ∧ t.accesses = s.accesses.filter (fun y => y.id != x)
      ∧ ∀ cl < 8, x ∉ (clusterOf t cl).locks)

/-- R332, R353, R360: a `.blk` tile moves one 4-byte word at a time, in an order that is open: a word of a store is written for the
observers of its block, a word of a load is read as its block sees it, and the tile has performed with its last word. -/
def Claims.BlockTilesMoveByWords : Prop :=
  ∀ (s : State) (x : Nat) (a : Access), AccessOf s x a → a.scr = false → a.op.tile = true → a.scope = 1 →
    globalMay s a = true → a.die < 4 → a.wordsLeft ≠ [] → (∀ w ∈ a.wordsLeft, noTargets s [(w.2, 4)]) →
    (a.op.writes = true → ∀ w ∈ a.wordsLeft, offImages s a.core ((List.range 4).map (w.2 + ·))) →
    ∃ t w, exec (.accessPerforms x) s = .next t ∧ w ∈ a.wordsLeft
      ∧ (let bs := if a.op.writes then (a.data.drop (4 * w.1)).take 4 else viewOf s a.viewer [(w.2, 4)]
        (a.op.writes = true → ViewWritten s t (fun v => v.b = a.b) (((List.range 4).map (w.2 + ·)).zip bs))
        ∧ (a.op.writes = false → t.mem = s.mem)
        ∧ (a.wordsLeft.length = 1 → t.accesses = s.accesses.filter (fun y => y.id != x))
        ∧ (a.wordsLeft.length ≠ 1 →
            t.accesses = s.accesses.map fun y => if y.id = x then { a with parts := a.parts ++ [(w.1, bs)] } else y))

/-- R330: TILE_LOCK_GRANT: the first tile of a home's queue without a lock takes it, if it may perform and no locked tile that
it meets stores, or it stores. -/
def Claims.TileLockGrants : Prop :=
  ∀ (s : State) (cl : Nat) (a : Access) (rest : List Nat), (clusterOf s cl).locks = a.id :: rest →
    s.accesses.find? (fun y => y.id == a.id) = some a → a.locked = false → globalMay s { a with locked := true } = true →
    (∀ y ∈ s.accesses, y.id ≠ a.id → y.locked = true → lineMeet y a = true → a.op.writes = false ∧ y.op.writes = false) →
    ∃ t, exec (.tileLockGrant cl) s = .next t ∧ t.accesses = s.accesses.map (fun y => if y.id = a.id then { y with locked := true } else y)
      ∧ t.mem = s.mem

/-- R357, R358: `prf` changes no register, byte or access; `cflush` of lines that a store may reach issues one access to the line of each
lane, and changes no register or byte. That access performs where every die's view of the line agrees with its home: later reads
get those bytes. (It is ordered as a store of the line is: DESIGN CHOICE, log 99.) -/
def Claims.CacheHints : Prop :=
  ∀ (o : ExtOps) (s : State) (c : Ctx),
    (Free (.prf o) s c → ∃ t, exec (.prf o) s = .next t ∧ BytesKept s t ∧ RegistersKept t c ∧ t.accesses = s.accesses)
    ∧ (Free (.cflush o) s c → (∀ k ∈ c.lanes, ∃ pa, Reaches c false true false (globalAddr c o k) 1 pa) →
      IssuesAccesses (.cflush o) s c none (fun k a => a.scr = false ∧ a.lanes = [k] ∧ a.op = .flush
        ∧ a.addr = paOf c (globalAddr c o k) / 128 * 128 ∧ a.len = 128))
    ∧ ∀ (x : Nat) (a : Access), AccessOf s x a → a.scr = false → globalMay s a = true → a.op = .flush →
      ∃ t, exec (.accessPerforms x) s = .next t ∧ t.mem = s.mem ∧ t.accesses = s.accesses.filter (fun y => y.id != x)
        ∧ ∀ p ∈ byteAddrs a, ∀ d < 4, viewCell t.mem d p = homeCell t.mem p

/-- R359: `xprobe` opens a long instruction that gives each lane the attributes of its page, or 0; so it does for a page of which the
host has said that there is no translation. -/
def Claims.TranslationProbe : Prop :=
  ∀ (o : ExtOps) (s : State) (c : Ctx), Free (.xprobe o) s c →
    let ea := fun k => c.rd2 o.a.r.toNat k
    (∀ k ∈ c.lanes, ea k < 2 ^ 57 → ∀ io, translate s c.l.pasid (ea k) = .ats io → (probeNote s c.l.pasid (ea k)).isSome) →
    ∃ t g x, exec (.xprobe o) s = .next t ∧ groupAfter t c = some g ∧ x ∈ g.longs ∧ x.reg = o.d.toNat ∧ x.nregs = 1
      ∧ x.done = false ∧ t.accesses = s.accesses
      ∧ ∀ k ∈ c.lanes, ∃ w, (k, [BitVec.ofNat 32 w]) ∈ x.res
        ∧ (2 ^ 57 ≤ ea k → w = 0)
        ∧ (ea k < 2 ^ 57 → ((∃ e, translate s c.l.pasid (ea k) = .absent e) ∨ ∃ e, translate s c.l.pasid (ea k) = .ats e) → w = 0)
        ∧ ∀ l, ea k < 2 ^ 57 → translate s c.l.pasid (ea k) = .ok l →
          w.testBit 0 = true ∧ w.testBit 1 = false ∧ w.testBit 2 = l.r ∧ w.testBit 3 = l.w ∧ w.testBit 4 = l.sysatom
          ∧ w.testBit 5 = l.nc ∧ w.testBit 6 = l.ctx ∧ (w.testBit 7 = true ↔ physKind l.pa = .host)
          ∧ (w.testBit 8 = true ↔ physKind l.pa = .remote)
          ∧ (w.testBit 9 = true ↔ ∃ r ∈ c.l.publish, r.1 ≤ ea k ∧ ea k < r.1 + r.2)
          ∧ w / 1024 = (if l.size = 16 then 1 else if l.size = 21 then 2 else if l.size = 30 then 3 else 0)

/-! ### Blocks, barriers and fences -/

/-- R26, R280, R311: `fork` waits until every live group has arrived; then both sequencers start at the entries that the lead
group named, with the registers of its lowest live lane, and every group goes on. -/
def Claims.ForkGathers : Prop :=
  ∀ (o : ExtOps) (s : State) (c : Ctx), Free (.fork o) s c → c.sq = none → c.b.forked = false → c.lanes ≠ [] →
    GroupsInOrder c.b →
    let lead := leadGroup c.b
    (lead = some c.party → (∀ j ∈ c.lanes, ∀ k ∈ c.lanes, c.rd2 o.a.r.toNat j = c.rd2 o.a.r.toNat k
        ∧ c.rd2 o.b.r.toNat j = c.rd2 o.b.r.toNat k)
      ∧ ∀ k ∈ c.lanes, c.rd2 o.a.r.toNat k % 4 = 0 ∧ c.rd2 o.b.r.toNat k % 4 = 0) →
    let here : Nat → Prop := fun g => g = c.party ∨ ∃ e ∈ c.b.forkArr, e.1 = g
    ((∃ g ∈ liveGroups c.b, ¬here g) → ∃ t k, exec (.fork o) s = .next t ∧ blockAfter t c = some k ∧ k.forked = false
      ∧ (∃ e ∈ k.forkArr, e.1 = c.party) ∧ WaitFor t c .fork)
    ∧ ∀ l g m q, lead = some l → tget c.b.groups l = some g → (∀ x ∈ liveGroups c.b, here x) → fileReady g = true →
      (if l = c.party ∧ (∀ e ∈ c.b.forkArr, e.1 ≠ l) then ∃ k ∈ c.lanes, m = c.rd2 o.a.r.toNat k ∧ q = c.rd2 o.b.r.toNat k
        else c.b.forkArr.find? (fun e => e.1 == l) = some (l, m, q)) →
      ∃ t k, exec (.fork o) s = .next t ∧ blockAfter t c = some k ∧ k.forked = true ∧ k.forkArr = []
        ∧ StartedAt k.mseq m g c.use.kills ∧ StartedAt k.cseq q g c.use.kills ∧ k.mseq.drm = g.drm
        ∧ ∀ x ∈ k.groups, ∀ y ∈ x.2.slices, y.wait ≠ .fork

/-- R26, R311: a second `fork` raises QERR; in the lead group, entries that differ raise NUNI and a misaligned one MISA. -/
def Claims.ForkCauses : Prop :=
  ∀ (o : ExtOps) (s : State) (c : Ctx), Free (.fork o) s c →
    (c.b.forked = true → exec (.fork o) s = .next (raise c (causeAll .qerr c.lanes)))
    ∧ (c.b.forked = false → leadGroup c.b = some c.party →
      let same := ∀ j ∈ c.lanes, ∀ k ∈ c.lanes, c.rd2 o.a.r.toNat j = c.rd2 o.a.r.toNat k
        ∧ c.rd2 o.b.r.toNat j = c.rd2 o.b.r.toNat k
      (¬same → exec (.fork o) s = .next (raise c (causeAll .nuni c.lanes)))
      ∧ ∀ k ∈ c.lanes, same → ∀ a, a % 4 ≠ 0 → a = c.rd2 o.a.r.toNat k ∨ (c.rd2 o.a.r.toNat k % 4 = 0 ∧ a = c.rd2 o.b.r.toNat k) →
        exec (.fork o) s = .next (raise c (causeAll .misa c.lanes a)))

/-- R27: a group at `join` waits until both sequencers have stopped and every live group has arrived; `join` stops a
sequencer that awaits no result. -/
def Claims.JoinGathers : Prop :=
  ∀ (o : ExtOps) (s : State) (c : Ctx), Free (.join o) s c →
    let here := fun g => g = c.party ∨ g ∈ c.b.joinArr
    let done := c.b.mseq.running = false ∧ c.b.cseq.running = false ∧ ∀ g ∈ liveGroups c.b, here g
    (c.sq = none → GroupsInOrder c.b → ∃ t k, exec (.join o) s = .next t ∧ blockAfter t c = some k
      ∧ (done → k.joinArr = [] ∧ ∀ x ∈ k.groups, ∀ y ∈ x.2.slices, y.wait ≠ .join)
      ∧ (¬done → c.party ∈ k.joinArr ∧ WaitFor t c .join))
    ∧ (∀ q, c.sq = some q → q.busy = [] → Alive c.b → c.b.forkArr = [] → ∃ t z, exec (.join o) s = .next t ∧ seqAfter t c = some z
        ∧ z.running = false)

/-- R305: `mbarv`, once what it follows has performed: the arrival count rises; at the expected count the phase completes.
A count that differs from the phase's raises BARM. -/
def Claims.MatrixBarrierArrivals : Prop :=
  ∀ (o : ExtOps) (s : State) (c : Ctx), Free (.mbarv o) s c → c.lanes ≠ [] → (c.sq = none → wholeGang c = true) →
    mbarWaits c = false →
    let b := o.imm.toNat % 16
    let n := o.imm.toNat / 16 % 64
    let x := mbarOf c.b b
    ((x.e = none ∨ x.e = some n) → ∃ t k, exec (.mbarv o) s = .next t ∧ blockAfter t c = some k
      ∧ mbarOf k b = (if x.arrived + 1 = n then { x with arrived := 0, e := none, c := (x.c + 1) % 2 ^ 32 }
          else { x with arrived := x.arrived + 1, e := some n })
      ∧ (∀ j, j ≠ b → mbarOf k j = mbarOf c.b j) ∧ .matrixBarrierRelease c.bid b ∈ t.agenda ∧ RegistersKept t c)
    ∧ (∀ e, x.e = some e → e ≠ n → exec (.mbarv o) s = .next (raise c (causeAll .barm c.lanes)))

/-- R306: `mbarw` makes its party wait, and a release of the barrier is due. -/
def Claims.MatrixBarrierWaits : Prop :=
  ∀ (o : ExtOps) (s : State) (c : Ctx), Free (.mbarw o) s c → c.lanes ≠ [] → (c.sq = none → wholeGang c = true) →
    ∃ t k, exec (.mbarw o) s = .next t ∧ blockAfter t c = some k
      ∧ (c.sq = none → WaitFor t c (.mbarw o.imm.toNat))
      ∧ (∀ q, c.sq = some q → ∃ z, seqAfter t c = some z ∧ z.wait = .mbarw o.imm.toNat)
      ∧ (∀ j, mbarOf k j = mbarOf c.b j) ∧ .matrixBarrierRelease c.bid o.imm.toNat ∈ t.agenda ∧ RegistersKept t c

/-- R305: a group whose issuing gang does not hold all its live slices raises NUNI at a matrix barrier. -/
def Claims.MatrixBarrierGangs : Prop :=
  ∀ i ∈ [(.mbarv : ExtOps → Instr), .mbarw], ∀ (o : ExtOps) (s : State) (c : Ctx), Free (i o) s c → c.lanes ≠ [] →
    c.sq = none → (∃ (k : Nat) (x : Slice), k < 8 ∧ c.g.slices[k]? = some x ∧ x.live ≠ 0 ∧ k ∉ c.sl) →
    exec (i o) s = .next (raise c (causeAll .nuni c.all))

/-- R306: MATRIX_BARRIER_RELEASE: a party's wait ends, and its count rises, where the completed phases stand ahead of it. -/
def Claims.MatrixBarrierReleases : Prop :=
  ∀ (s : State) (b n : Nat) (k : Block), tget s.blocks b = some k → GroupsInOrder k → n < 16 →
    let x := mbarOf k n
    ∃ t k', exec (.matrixBarrierRelease b n) s = .next t ∧ tget t.blocks b = some k'
      ∧ (mbarOf k' n).c = x.c ∧ (mbarOf k' n).arrived = x.arrived ∧ (mbarOf k' n).e = x.e
      ∧ (∀ p g, tget k.groups p = some g → (∃ y ∈ g.slices, y.wait = .mbarw n) →
          (isAhead x.c (tcount x.waits p) → tcount (mbarOf k' n).waits p = (tcount x.waits p + 1) % 2 ^ 32
            ∧ ∃ g', tget k'.groups p = some g' ∧ ∀ y ∈ g'.slices, y.wait ≠ .mbarw n)
          ∧ (¬isAhead x.c (tcount x.waits p) → tcount (mbarOf k' n).waits p = tcount x.waits p ∧ tget k'.groups p = some g))
      ∧ (k.mseq.wait = .mbarw n → (isAhead x.c (tcount x.waits mseqParty) → k'.mseq.wait = .none
            ∧ tcount (mbarOf k' n).waits mseqParty = (tcount x.waits mseqParty + 1) % 2 ^ 32)
          ∧ (¬isAhead x.c (tcount x.waits mseqParty) → k'.mseq = k.mseq))
      ∧ (k.cseq.wait = .mbarw n → (isAhead x.c (tcount x.waits cseqParty) → k'.cseq.wait = .none
            ∧ tcount (mbarOf k' n).waits cseqParty = (tcount x.waits cseqParty + 1) % 2 ^ 32)
          ∧ (¬isAhead x.c (tcount x.waits cseqParty) → k'.cseq = k.cseq))

/-- R384: `bar` and `barv`, once what they follow has performed: the contributions of the lanes are added; at the expectation
the phase completes. `bar` then waits. -/
def Claims.NamedBarrierArrivals : Prop :=
  ∀ p ∈ [((.bar : ExtOps → Instr), true), (.barv, false)], ∀ (o : ExtOps) (s : State) (c : Ctx) (e : Nat), Free (p.1 o) s c →
    c.lanes ≠ [] → (∀ k ∈ c.lanes, c.rd o.a.r.toNat k % 2 ^ 16 = e) → arrivalWaits c = false →
    let x := nbarOf c.b o.imm.toNat
    let n := (c.lanes.map fun k => c.rd o.a.r.toNat k / 2 ^ 16 % 2 ^ 16).sum
    (e ≠ 0 → (x.e = none ∨ x.e = some e) → x.total + n ≤ e → o.imm.toNat < 32 →
      ∃ t k, exec (p.1 o) s = .next t ∧ blockAfter t c = some k
        ∧ nbarOf k o.imm.toNat = (if x.total + n = e then { x with total := 0, e := none, c := (x.c + 1) % 2 ^ 32 }
            else { x with total := x.total + n, e := some e })
        ∧ (∀ j, j ≠ o.imm.toNat → nbarOf k j = nbarOf c.b j)
        ∧ (p.2 = true → c.sq = none → WaitFor t c (.bar o.imm.toNat ((x.c + 1) % 2 ^ 32)))
        ∧ .namedBarrierRelease c.bid o.imm.toNat ∈ t.agenda)
    ∧ (e = 0 ∨ (∃ y, x.e = some y ∧ y ≠ e) → exec (p.1 o) s = .next (raise c (causeAll .barm c.lanes)))
    ∧ (e ≠ 0 → (x.e = none ∨ x.e = some e) → e < x.total + n →
      exec (p.1 o) s = .next (raise c (causeAll .bovf c.lanes)))

/-- R384: expectations that differ among the active lanes raise NUNI. -/
def Claims.NamedBarrierLanes : Prop :=
  ∀ i ∈ [(.bar : ExtOps → Instr), .barv], ∀ (o : ExtOps) (s : State) (c : Ctx), Free (i o) s c →
    (∃ j ∈ c.lanes, ∃ k ∈ c.lanes, c.rd o.a.r.toNat j % 2 ^ 16 ≠ c.rd o.a.r.toNat k % 2 ^ 16) →
    exec (i o) s = .next (raise c (causeAll .nuni c.lanes))

/-- R385: `barw` makes its slices wait, and a release of the barrier is due. -/
def Claims.NamedBarrierWaits : Prop :=
  ∀ (o : ExtOps) (s : State) (c : Ctx), Free (.barw o) s c → c.lanes ≠ [] →
    ∃ t k, exec (.barw o) s = .next t ∧ blockAfter t c = some k ∧ (c.sq = none → WaitFor t c (.barw o.imm.toNat))
      ∧ (∀ q, c.sq = some q → c.party = cseqParty → ∃ z, seqAfter t c = some z ∧ z.wait = .barw o.imm.toNat)
      ∧ (∀ j, nbarOf k j = nbarOf c.b j) ∧ .namedBarrierRelease c.bid o.imm.toNat ∈ t.agenda ∧ RegistersKept t c

/-- R385: NAMED_BARRIER_RELEASE: a slice that waits by `barw` goes on where the completed phases stand ahead of its count, which
rises; one that waits by `bar` goes on when its phase has completed, and its count becomes that phase's number. -/
def Claims.NamedBarrierReleases : Prop :=
  ∀ (s : State) (b n : Nat) (k : Block), tget s.blocks b = some k → GroupsInOrder k → n < 32 →
    let x := nbarOf k n
    ∃ t k', exec (.namedBarrierRelease b n) s = .next t ∧ tget t.blocks b = some k'
      ∧ (nbarOf k' n).c = x.c ∧ (nbarOf k' n).total = x.total ∧ (nbarOf k' n).e = x.e
      ∧ ∀ p g (i : Nat) (y : Slice), tget k.groups p = some g → g.slices[i]? = some y → ∃ g' y', tget k'.groups p = some g'
        ∧ g'.slices[i]? = some y' ∧ Slice.path y' = Slice.path y
        ∧ let w := tcount x.waits (8 * p + i)
          let w' := tcount (nbarOf k' n).waits (8 * p + i)
          (y.wait = .barw n → (isAhead x.c w → y'.wait = .none ∧ w' = (w + 1) % 2 ^ 32)
            ∧ (¬isAhead x.c w → y' = y ∧ w' = w))
          ∧ (∀ ph, y.wait = .bar n ph → (¬isAhead ph x.c → y'.wait = .none ∧ w' = ph) ∧ (isAhead ph x.c → y' = y ∧ w' = w))
          ∧ ((∀ ph, y.wait ≠ .bar n ph) → y.wait ≠ .barw n → y' = y ∧ w' = w)

/-- R386: `sbar` raises ILL outside step-mode launches and NUNI where its gang lacks a live slice; otherwise it waits, and the
release of its launch is due. -/
def Claims.StepBarrierArrivals : Prop :=
  ∀ (o : ExtOps) (s : State) (c : Ctx), Free (.sbar o) s c →
    (c.l.step = false → exec (.sbar o) s = .next (raise c (causeAll .ill c.sliceLanes)))
    ∧ (c.l.step = true → (∃ (k : Nat) (x : Slice), k < 8 ∧ c.g.slices[k]? = some x ∧ x.live ≠ 0 ∧ k ∉ c.sl) →
      exec (.sbar o) s = .next (raise c (causeAll .nuni c.all)))
    ∧ (c.l.step = true → wholeGang c = true → sbarWaits c = false →
      ∃ t, exec (.sbar o) s = .next t ∧ WaitFor t c (.sbar o.imm.toNat) ∧ .sbarRelease c.b.launch ∈ t.agenda
        ∧ RegistersKept t c ∧ BytesKept s t)

/-- R386: SBAR_RELEASE of a launch without replicas: once every party has arrived with one tag, all go on. -/
def Claims.StepBarrierReleases : Prop :=
  ∀ (s : State) (l tag : Nat) (x : Launch), tget s.launches l = some x → sbarReady s l x = true → x.r.setNo = 0 →
    Rises s.blocks → (∀ p ∈ sbarParties s l, p.2.2 = tag) →
    ∃ t y, exec (.sbarRelease l) s = .next t ∧ tget t.launches l = some y ∧ y.sbars = x.sbars + 1
      ∧ ∀ p ∈ sbarParties s l, ∃ k g, tget t.blocks p.1 = some k ∧ tget k.groups p.2.1 = some g
        ∧ ∀ z ∈ g.slices, z.wait ≠ .sbar tag

/-- R370, R389: `fence`, with fewer than eight fences outstanding, writes the next fence number to D. The fence covers the
earlier accesses of its kind that the group has not seen perform, its transfers and its writes. -/
def Claims.FenceNumbers : Prop :=
  ∀ (o : ExtOps) (s : State) (c : Ctx), Free (.fence o) s c → c.lanes ≠ [] → (openFences s c.g).length < 8 →
    let no := (c.g.fenceNo + 1) % 2 ^ 32
    let kind := o.imm.toNat
    ∃ t g, exec (.fence o) s = .next t ∧ groupAfter t c = some g ∧ g.fenceNo = no
      ∧ (∀ k ∈ c.lanes, destAfter t c false o.d.toNat k = no)
      ∧ ∃ f, g.fences = openFences s c.g ++ [f] ∧ f.no = no ∧ f.kind = kind ∧ f.scope = scopeOf o
        ∧ ∀ x, x ∈ f.covers ↔
          (∃ a ∈ s.accesses, a.id = x ∧ a.b = c.bid ∧ a.party = c.party
            ∧ ((kind ∈ [1, 3] ∧ a.op.reads = true) ∨ (kind ∈ [0, 2, 3] ∧ a.op.writes = true)))
          ∨ (∃ y ∈ (coreOf s c.b.core).xfers, y.id = x ∧ y.b = c.bid ∧ y.party = c.party ∧ y.drain = false)
          ∨ (kind ∈ [0, 2, 3] ∧ ∃ w ∈ s.mem.log, w.id = x ∧ (w.who = whoOf c.bid c.party ∨ w.who = whoXfer c.bid c.party))

/-- R370, R389: `fwait` on fences that are all complete goes on; otherwise its slices wait for those that are not. A value that
differs among the lanes raises NUNI. -/
def Claims.FenceWaits : Prop :=
  ∀ (o : ExtOps) (s : State) (c : Ctx), Free (.fwait o) s c → c.lanes ≠ [] →
    ((∃ j ∈ c.lanes, ∃ k ∈ c.lanes, c.rd o.a.r.toNat j ≠ c.rd o.a.r.toNat k) →
      exec (.fwait o) s = .next (raise c (causeAll .nuni c.lanes)))
    ∧ ∀ n n', (∀ k ∈ c.lanes, c.rd o.a.r.toNat k = n) →
      (isAhead n c.g.fenceNo → n' = c.g.fenceNo) → (¬isAhead n c.g.fenceNo → n' = n) →
      let late := fun (f : Fence) => n ≠ 0 ∧ (n' + 2 ^ 32 - f.no) % 2 ^ 32 < 2 ^ 31
      ((∀ f ∈ openFences s c.g, ¬late f) → ∃ t, exec (.fwait o) s = .next t ∧ RegistersKept t c ∧
        ∀ i ∈ c.sl, ∀ (x y : Slice), c.g.slices[i]? = some x → sliceAfter t c i = some y → y.wait = x.wait ∧ y.pc = fallsTo c x)
      ∧ ((∃ f ∈ openFences s c.g, late f) → ∃ t ns, exec (.fwait o) s = .next t ∧ WaitFor t c (.fwait ns) ∧ RegistersKept t c
        ∧ ∀ x, x ∈ ns ↔ ∃ f ∈ openFences s c.g, f.no = x ∧ late f)

/-- R369, R370: FWAIT_RELEASE: the slices whose fences have all completed go on; a fence completes when all that it covers has
performed at its scope, one of kind `.ll` when the reads have. -/
def Claims.FenceReleases : Prop :=
  ∀ (s : State) (b p : Nat) (k : Block) (g : Group), tget s.blocks b = some k → tget k.groups p = some g →
    ∃ t k' g', exec (.fwaitRelease b p) s = .next t ∧ tget t.blocks b = some k' ∧ tget k'.groups p = some g'
      ∧ (∀ f ∈ g.fences, (∀ i ∈ f.covers, Covered s f i) → (∀ f' ∈ g.fences, f'.no = f.no → f' = f) →
          f ∉ g'.fences)
      ∧ ∀ (i : Nat) (y : Slice) ns, g.slices[i]? = some y → y.wait = .fwait ns → ∃ y', g'.slices[i]? = some y'
        ∧ Slice.path y' = Slice.path y
        ∧ ((∀ n ∈ ns, ∀ f ∈ g.fences, f.no = n → ∀ i ∈ f.covers, Covered s f i) → y'.wait = .none)
        ∧ ((∃ n ∈ ns, ∃ f ∈ g.fences, f.no = n ∧ ∃ i ∈ f.covers, ¬Covered s f i) → y' = y)

/-- R165, R409: XACQ_GRANT: the first request of a team's pool gets its lines once they are free, and its slices go on; where a
handler runs, what its group's slices will go on to is the end of their wait. -/
def Claims.ExtendedPoolGrants : Prop :=
  ∀ (s : State) (c t : Nat) (b gi n m : Nat) (k : Block) (g : Group), headRequest s c t = some (b, gi, n, m) →
    tget s.blocks b = some k → tget k.groups gi = some g →
    (poolFree k (gi / 8) < n → exec (.xacqGrant c t) s = .next s)
    ∧ (n ≤ poolFree k (gi / 8) → ∃ u k' g', exec (.xacqGrant c t) s = .next u ∧ tget u.blocks b = some k'
      ∧ tget k'.groups gi = some g' ∧ g'.quota = g.quota + n ∧ g'.lines = g.lines
      ∧ (g.aside = none → ∀ j < 8, ∀ y, g.slices[j]? = some y → ∃ y', g'.slices[j]? = some y' ∧ Slice.path y' = Slice.path y
        ∧ y'.wait = if m.testBit j = true ∧ y.wait = .xacq then .none else y.wait)
      ∧ ∀ as, g.aside = some as → (∃ j < 8, ∃ a, as[j]? = some a ∧ m.testBit j = true ∧ a.wait = .xacq) →
        ∃ as', g'.aside = some as' ∧ ∀ j < 8, ∀ a, as[j]? = some a → ∃ a', as'[j]? = some a'
          ∧ a'.wait = if m.testBit j = true ∧ a.wait = .xacq then .none else a.wait)

/-- R150: SLEEP_WAKE: a sleeper whose time has come goes on; one whose time has not come sleeps on. -/
def Claims.SleepersWake : Prop :=
  ∀ (s : State) (b p : Nat) (m : BitVec 8) (k : Block) (g : Group), tget s.blocks b = some k → tget k.groups p = some g →
    ∃ t k' g', exec (.sleepWake b (.group b p m)) s = .next t ∧ tget t.blocks b = some k' ∧ tget k'.groups p = some g'
      ∧ ∀ (j : Nat) (y : Slice), g.slices[j]? = some y → ∃ y', g'.slices[j]? = some y' ∧ Slice.path y' = Slice.path y
        ∧ ∀ till, y.wait = .sleep till → y'.wait = if m.getLsbD j = true ∧ till ≤ sref s then .none else .sleep till

/-! ### The matrix engine -/

/-- R170, R288, R299, R312: `mma` and `mmaz` of a feeder group that may name every line of both images enter the engine, with the
codebooks active now, and hold those lines. They wait only where the spill queue lacks room for their contributions beside those of
the products of the core that have not acted, as it may once it could not take 256 of each. -/
def Claims.FeederFormsEnter : Prop :=
  ∀ p ∈ [((.mmaReg : ExtOps → Instr), false), (.mmazReg, true)], ∀ (o : ExtOps) (s : State) (c : Ctx) (g : Group),
    Free (p.1 o) s c →
    let f := o.imm.toNat % 32
    let i := p.1
    tget c.b.groups f = some g → (∀ r ∈ feederLines o, nameable g r = true) →
    (queueShort c (regOp c o) o p.2 = true → exec (i o) s = .next s)
    ∧ ((coreOf s c.b.core).spillQ.length
        + 256 * (((blocksOn s c.b.core).map fun x => (unacted x.2).length).sum + 1) ≤ 1024
      ∨ queueShort c (regOp c o) o p.2 = false →
    ∃ t k q g', exec (i o) s = .next t ∧ blockAfter t c = some k ∧ k.x.mops = c.b.x.mops ++ [q] ∧ q.id = s.nextId
      ∧ q.instr = i o ∧ q.acc = o.d.toNat ∧ q.group = some f ∧ q.regs = feederLines o ∧ q.read = false ∧ q.acted = false
      ∧ q.stalled = none ∧ q.lutA = c.b.x.lutA.getD c.b.x.bank [] ∧ q.lutB = c.b.x.lutB.getD c.b.x.bank []
      ∧ k.x.accs = c.b.x.accs ∧ tget k.groups f = some g' ∧ g'.lines = g.lines ∧ (∀ r ∈ feederLines o, (r, q.id, []) ∈ g'.holds))

/-- R263, R289, R290: the scratchpad forms of `mma` and `mmaz` whose images and scale record lie in the block's space, aligned,
enter the engine where the core can track what they will read, no copy into the space is due there (R486) and the spill queue has
room for their contributions; else they wait. -/
def Claims.ScratchFormsEnter : Prop :=
  ∀ p ∈ [((.mmaSp : ExtOps → Instr), false), (.mmazSp, true)], ∀ (o : ExtOps) (s : State) (c : Ctx), Free (p.1 o) s c →
    let i := p.1
    let tile := o.imm.toNat % 32
    let va := c.rd2 o.a.r.toNat 0
    let vb := c.rd2 o.b.r.toNat 0
    let scl := c.rd o.c.r.toNat 0 + 64 * tile
    let good := fun v ty => imageCauses c.b (descOf v) ty tile = []
    good va o.ty → good vb (typeB o) → (o.imm.getLsbD 9 = true → scl % 16 = 0 ∧ scl + 64 ≤ progSize c.b) →
    let foot := [((descFields va).1 + tile * (descFields va).2.2.2, 15 * (descFields va).2.2.1 + imageRow o.ty)
          , ((descFields vb).1 + tile * (descFields vb).2.2.2, 15 * (descFields vb).2.2.1 + imageRow (typeB o))]
        ++ (if o.imm.getLsbD 9 then [(scl, 64)] else [])
    let copied := ∃ f ∈ foot, ∃ r ∈ c.b.x.ranges, r.out = false ∧ overlap f.1 f.2 r.lo (r.hi + 1 - r.lo) = true
    (16 ≤ footprints s c.b.core ∨ copied ∨ queueShort c (spOp c o) o p.2 = true → exec (i o) s = .next s)
    ∧ (footprints s c.b.core < 16 → ¬copied →
      (coreOf s c.b.core).spillQ.length
        + 256 * (((blocksOn s c.b.core).map fun x => (unacted x.2).length).sum + 1) ≤ 1024
      ∨ queueShort c (spOp c o) o p.2 = false →
    ∃ t k q, exec (i o) s = .next t ∧ blockAfter t c = some k ∧ k.x.mops = c.b.x.mops ++ [q] ∧ q.id = s.nextId
      ∧ q.instr = i o ∧ q.acc = o.d.toNat ∧ q.read = false ∧ q.acted = false ∧ q.stalled = none
      ∧ q.foot = foot ∧ k.x.accs = c.b.x.accs)

/-- R263, R288 to R290: a feeder group that the block does not have raises TLIM and a line that it may not name REGX; an image
outside the space raises TLIM, one in the park ring PERM, and misaligned fields MISA; nothing enters the engine. -/
def Claims.MatrixFormCauses : Prop :=
  (∀ i ∈ [(.mmaReg : ExtOps → Instr), .mmazReg], ∀ (o : ExtOps) (s : State) (c : Ctx), Free (i o) s c →
    let f := o.imm.toNat % 32
    (tget c.b.groups f = none → exec (i o) s = .next (raise c [(0, .tlim, 0)]))
    ∧ ∀ g, tget c.b.groups f = some g → (∃ r ∈ feederLines o, nameable g r = false) →
      exec (i o) s = .next (raise c [(0, .regx, 0)]))
  ∧ (∀ i ∈ [(.mmaSp : ExtOps → Instr), .mmazSp], ∀ (o : ExtOps) (s : State) (c : Ctx), Free (i o) s c →
    ∀ p ∈ [(c.rd2 o.a.r.toNat 0, o.ty), (c.rd2 o.b.r.toNat 0, typeB o)],
      let d := descFields p.1
      let stop := d.1 + o.imm.toNat % 32 * d.2.2.2 + 15 * d.2.2.1 + imageRow p.2
      let space := progSize c.b + ringSize c.b
      ∀ x, (x = Cause.misa ∧ (d.1 % 16 ≠ 0 ∨ d.2.2.1 % 16 ≠ 0 ∨ d.2.2.2 % 16 ≠ 0))
          ∨ (x = .tlim ∧ (d.2.2.1 < imageRow p.2 ∨ space < stop ∨ (imageRow p.2 = 16 ∧ d.2.1 ≠ 0)))
          ∨ (x = .perm ∧ progSize c.b < stop ∧ stop ≤ space) →
        ∃ cs, exec (i o) s = .next (raise c cs) ∧ (0, x, d.1) ∈ cs)

/-- R166, R170, R288: MATRIX_OPERAND_READ of a register form whose lines are ready: byte b of an image is byte b mod 4 of lane
(b mod 128) div 4 of its line b div 128, 0 in exited lanes. -/
def Claims.FeederOperandsRead : Prop :=
  ∀ i ∈ [(.mmaReg : ExtOps → Instr), .mmazReg], ∀ (o : ExtOps) (s : State) (b m f : Nat) (k : Block) (g : Group) (q : MatOp),
    tget s.blocks b = some k → k.x.mops.find? (fun x => x.id == m && !x.read && !x.acted) = some q → q.instr = i o →
    q.group = some f → tget k.groups f = some g → q.regs = feederLines o →
    (∀ r ∈ feederLines o, lineReady g m r = true ∧ poisonedReg g r = false) →
    (∀ h ∈ g.holds, h.2.1 = m → h.2.2 = []) →
    ∃ t k' q', exec (.matrixOperandRead b m) s = .next t ∧ tget t.blocks b = some k' ∧ q' ∈ k'.x.mops ∧ q'.id = m
      ∧ q'.read = true ∧ q'.instr = q.instr ∧ q'.acc = q.acc
      ∧ q'.aImg = (List.range (128 * imageLines o.ty)).map (feederByte g o.a.r.toNat)
      ∧ q'.bImg = (List.range (128 * imageLines o.ty)).map (feederByte g o.b.r.toNat)
      ∧ q'.scl = (if o.imm.getLsbD 9 then (List.range 64).map (feederByte g o.c.r.toNat) else [])
      ∧ ∃ g', tget k'.groups f = some g' ∧ (∀ h ∈ g'.holds, h.2.1 ≠ m)
        ∧ (∀ r ∈ q.kills, r ∈ feederLines o → tget g'.lines r = none)
        ∧ ∀ r, r ∉ q.kills → (tget g'.lines r).map (fun l => { l with used := 0 })
            = (tget g.lines r).map fun l => { l with used := 0 }

/-- R258, R289, R290: MATRIX_OPERAND_READ of a scratchpad form whose pages are there and which no earlier copy into the space
holds: row i of an image stands where its descriptor places it. -/
def Claims.ScratchOperandsRead : Prop :=
  ∀ i ∈ [(.mmaSp : ExtOps → Instr), .mmazSp], ∀ (o : ExtOps) (s : State) (b m : Nat) (k : Block) (q : MatOp),
    tget s.blocks b = some k → k.x.mops.find? (fun x => x.id == m && !x.read && !x.acted) = some q → q.instr = i o →
    q.group = none →
    (∀ f ∈ q.foot, pagesIn k f.1 f.2 = true ∧ poisoned k.scrPoison f.1 f.2 = false
      ∧ ∀ r ∈ k.x.ranges, r.out = false → r.owner < m → overlap f.1 f.2 r.lo (r.hi + 1 - r.lo) = false) →
    let va := q.regs.getD 0 0 + 2 ^ 32 * q.regs.getD 1 0
    let vb := q.regs.getD 2 0 + 2 ^ 32 * q.regs.getD 3 0
    let tile := o.imm.toNat % 32
    ∃ t k' q', exec (.matrixOperandRead b m) s = .next t ∧ tget t.blocks b = some k' ∧ q' ∈ k'.x.mops ∧ q'.id = m
      ∧ q'.read = true ∧ q'.instr = q.instr ∧ q'.acc = q.acc ∧ k'.scr = k.scr
      ∧ (∀ i < 16, ∀ j < imageRow o.ty, q'.aImg[i * imageRow o.ty + j]? = some (tileByte k va tile (imageRow o.ty) i j))
      ∧ (∀ i < 16, ∀ j < imageRow (typeB o),
          q'.bImg[i * imageRow (typeB o) + j]? = some (tileByte k vb tile (imageRow (typeB o)) i j))
      ∧ (∀ j < 64, o.imm.getLsbD 9 = true → q'.scl[j]? = some (rdCell k.scr (q.regs.getD 4 0 + 64 * tile + j)))

/-- R293 to R299, R312: MATRIX_INSTRUCTION_COMPLETE of a product whose operands have been read: the exact value of each of the
256 elements rises by the exact sum of its products (from 0 for `mmaz`), and its flags gain those of its special products. -/
def Claims.ProductsAccumulate : Prop :=
  ∀ p ∈ [((.mmaReg : ExtOps → Instr), false), (.mmaSp, false), (.mmazReg, true), (.mmazSp, true)],
    ∀ (o : ExtOps) (s : State) (b m : Nat) (k : Block) (q : MatOp),
    tget s.blocks b = some k → FirstOp k m q → q.instr = p.1 o → q.instr.wellFormed = true → q.read = true →
    (o.imm.getLsbD 9 = false → q.scl = []) → q.acc < 8 → k.core < 768 → Alive k →
    (∀ e < 256, ElemSound (elemOf k q.acc e)) → (coreOf s k.core).spillQ.length ≤ 768 →
    (p.2 = true → ∀ x ∈ (coreOf s k.core).spillQ, x.b ≠ b ∨ x.acc ≠ q.acc) →
    ∃ t k', exec (.matrixInstructionComplete b m) s = .next t ∧ tget t.blocks b = some k' ∧ k'.core = k.core
      ∧ (∀ i < 16, ∀ j < 16,
          let e := 16 * i + j
          let ps := productsOf q o.ty (typeB o) i j
          elemExact t k' b q.acc e = (if p.2 then 0 else elemExact s k b q.acc e) + sumUnits ps
            ∧ (elemOf k' q.acc e).fl = flagsWith (if p.2 then {} else (elemOf k q.acc e).fl) ps)
      ∧ ∀ a, a ≠ q.acc → accOf k' a = accOf k a

/-- R298, R299: SPILL_CONTRIBUTION_ADD moves the oldest contribution of a core into its element's entry: no exact value of a
spilled element changes. -/
def Claims.ContributionsArrive : Prop :=
  ∀ (s : State) (core b acc e : Nat) (k : Block) (x : Contribution) (rest : List Contribution),
    (coreOf s core).spillQ = x :: rest → tget s.blocks b = some k → k.core = core → core < 768 → e < 256 → acc < 8 →
    x.elem < 256 → x.acc < 8 → (elemOf k x.acc x.elem).sp = true ∨ x.b ≠ b →
    ∃ t, exec (.spillContributionAdd core) s = .next t ∧ (coreOf t core).spillQ = rest ∧ tget t.blocks b = some k
      ∧ elemExact t k b acc e = elemExact s k b acc e

/-- R313, R314, R318: `acld`, `acst` and `lutld` of an aligned address enter the engine; a misaligned one raises MISA. -/
def Claims.AddressedFormsEnter : Prop :=
  ∀ p ∈ [((.acld : ExtOps → Instr), 64, true), (.acst, 64, true), (.lutld, 32, false)],
    ∀ (o : ExtOps) (s : State) (c : Ctx), Free (p.1 o) s c →
    let va := c.rd2 o.a.r.toNat 0
    (va % p.2.1 = 0 → ∃ t k q, exec (p.1 o) s = .next t ∧ blockAfter t c = some k ∧ k.x.mops = c.b.x.mops ++ [q]
      ∧ q.id = s.nextId ∧ q.instr = p.1 o ∧ q.addr = va ∧ (p.2.2 = true → q.acc = o.d.toNat) ∧ q.acted = false
      ∧ q.stalled = none ∧ k.x.accs = c.b.x.accs)
    ∧ (va % p.2.1 ≠ 0 → exec (p.1 o) s = .next (raise c [(0, .misa, va)]))

/-- R313, R314: an `acst` whose pages may be written acts: the image of its accumulator stands at its address in the view of
its die; `.clr` empties the accumulator. -/
def Claims.AccumulatorStores : Prop :=
  ∀ (o : ExtOps) (s : State) (b m : Nat) (k : Block) (q : MatOp) (segs : List (Nat × Nat)),
    tget s.blocks b = some k → FirstOp k m q → q.instr = .acst o → q.acc < 8 → k.core < 768 → Alive k →
    (∀ x ∈ (coreOf s k.core).spillQ, x.b ≠ b ∨ x.acc ≠ q.acc) →
    engRange s (recOf s k).pasid q.addr (imageLen k q.acc) false true false false = .ok segs →
    (segAddrs segs).Nodup → (∀ a ∈ segAddrs segs, targetsAt s a 1 = []) →
    upToDate s.mem (k.core / 192) ((segAddrs segs).map fun a => (a, 0)) = true → lockedBytes s segs = false →
    targetsKnown s (k.core / 192) segs = true → accSpoiled s k.core b q.acc = false → offImages s k.core (segAddrs segs) →
    ∃ t k', exec (.matrixInstructionComplete b m) s = .next t ∧ tget t.blocks b = some k' ∧ k'.x.mops = k.x.mops.filter (·.id ≠ m)
      ∧ accOf k' q.acc = (if o.imm.getLsbD 0 then [] else accOf k q.acc)
      ∧ ∀ (j : Nat) a v, (segAddrs segs)[j]? = some a → (imageOf s k b q.acc)[j]? = some v → viewCell t.mem (k.core / 192) a = v

/-- R314: an `acld` without `.add` of an image that passes its checks sets each element to its record and, where it has
spilled, its entry to its tail; an image that fails them raises TLIM and changes no accumulator. -/
def Claims.AccumulatorLoads : Prop :=
  ∀ (o : ExtOps) (s : State) (b m : Nat) (k : Block) (q : MatOp) (img : List Byte),
    tget s.blocks b = some k → FirstOp k m q → q.instr = .acld o → q.acc < 8 → k.core < 768 → Alive k →
    (∀ x ∈ (coreOf s k.core).spillQ, x.b ≠ b ∨ x.acc ≠ q.acc) → (coreOf s k.core).spillQ.length ≤ 768 →
    imageBytes s b k q.addr = .ok img → engPoison s k q.addr img.length = false →
    ∃ t k', exec (.matrixInstructionComplete b m) s = .next t ∧ tget t.blocks b = some k'
      ∧ (imageBad img = true → k'.x.accs = k.x.accs ∧ MatrixCause t b (codeOf .tlim) 1 q.addr)
      ∧ (imageBad img = false → o.imm.getLsbD 0 = false → ∀ e < 256,
          let st := recField img e 52 4
          let el := elemOf k' q.acc e
          el.w = (BitVec.ofNat 384 (recField img e 0 48)).toInt ∧ el.a = (BitVec.ofNat 32 (recField img e 48 4)).toInt
            ∧ el.av = st.testBit 10 ∧ el.sp = st.testBit 9 ∧ el.fl = ⟨st.testBit 8, st.testBit 7, st.testBit 6, st.testBit 5,
                st.testBit 4, st.testBit 3, st.testBit 2⟩
            ∧ (el.sp = true → entryOf t k.core b q.acc e
                = (BitVec.ofNat 4352 (ofBytes ((img.drop (recField img e 56 4)).take 544))).toInt))

/-- R314: an `acld` with `.add` of an image that passes its checks adds each element's value and flags to the accumulator's. -/
def Claims.AccumulatorImagesAdd : Prop :=
  ∀ (o : ExtOps) (s : State) (b m : Nat) (k : Block) (q : MatOp) (img : List Byte),
    tget s.blocks b = some k → FirstOp k m q → q.instr = .acld o → o.imm.getLsbD 0 = true → q.acc < 8 → k.core < 768 →
    Alive k → (∀ x ∈ (coreOf s k.core).spillQ, x.b ≠ b ∨ x.acc ≠ q.acc) → (coreOf s k.core).spillQ.length ≤ 768 →
    imageBytes s b k q.addr = .ok img → imageBad img = false → engPoison s k q.addr img.length = false →
    (∀ e < 256, ElemSound (elemOf k q.acc e)) →
    let im := fun e => imageElemOf img e
    (∀ e < 256, (im e).1.av = false → (im e).1.sp = false → (im e).1.w = 0) →
    ∃ t k', exec (.matrixInstructionComplete b m) s = .next t ∧ tget t.blocks b = some k' ∧ k'.core = k.core
      ∧ ∀ e < 256, elemExact t k' b q.acc e = elemExact s k b q.acc e
            + (if (im e).1.sp then (im e).2.getD 0 else (im e).1.w * 2 ^ ((im e).1.a + 2176).toNat)
          ∧ let f := (elemOf k q.acc e).fl
            let g := (im e).1.fl
            (elemOf k' q.acc e).fl = ⟨f.nan || g.nan, f.inv || g.inv, f.nvs || g.nvs, f.pinf || g.pinf, f.ninf || g.ninf,
              f.zp || g.zp, f.zn || g.zn⟩

/-- R313, R314: the image of an accumulator passes the checks of `acld`, and names the state that it was made from. -/
def Claims.AccumulatorImagesRestore : Prop :=
  ∀ (s : State) (k : Block) (b acc : Nat), (∀ e < 256, ElemFits (elemOf k acc e)
      ∧ ((elemOf k acc e).sp = true → -(2 : Int) ^ 4351 ≤ entryOf s k.core b acc e ∧ entryOf s k.core b acc e < 2 ^ 4351)) →
    let img := imageOf s k b acc
    imageBad img = false ∧ img.length = imageLen k acc
      ∧ ∀ e < 256, imageElemOf img e = (elemOf k acc e, if (elemOf k acc e).sp then some (entryOf s k.core b acc e) else none)

/-- R92, R93, R318: a `lutld` acts: 16 entries go to the inactive bank of its table, and every other bank stays as it is;
`lutsw` waits for those before it and makes the inactive banks active. -/
def Claims.CodebookBanks : Prop :=
  (∀ (o : ExtOps) (s : State) (b m : Nat) (k : Block) (q : MatOp) (segs : List (Nat × Nat)),
    tget s.blocks b = some k → FirstOp k m q → q.instr = .lutld o → Alive k → k.x.bank < 2 →
    engRead s k q.addr 32 = .ok segs → engPoison s k q.addr 32 = false →
    ∃ t k', exec (.matrixInstructionComplete b m) s = .next t ∧ tget t.blocks b = some k' ∧ k'.x.bank = k.x.bank
      ∧ (∀ j, (o.imm.getLsbD 0 = true ∨ j = k.x.bank) → k'.x.lutA.getD j [] = k.x.lutA.getD j [])
      ∧ (∀ j, (o.imm.getLsbD 0 = false ∨ j = k.x.bank) → k'.x.lutB.getD j [] = k.x.lutB.getD j [])
      ∧ ∀ i < 16, ((if o.imm.getLsbD 0 then k'.x.lutB else k'.x.lutA).getD (1 - k.x.bank) [])[i]?
          = some (BitVec.ofNat 32 (ofBytes (((engBytes s b k segs).drop (2 * i)).take 2))))
  ∧ ∀ (o : ExtOps) (s : State) (c : Ctx), Free (.lutsw o) s c →
    (∀ q ∈ c.b.x.mops, ∀ o', q.instr ≠ .lutld o') →
    ∃ t k, exec (.lutsw o) s = .next t ∧ blockAfter t c = some k ∧ k.x.bank = 1 - c.b.x.bank ∧ k.x.lutA = c.b.x.lutA
      ∧ k.x.lutB = c.b.x.lutB

/-- R315, R336, R404: `mdrain` of a record that meets every check enters the engine; a record of another type, of rank below 2 or
with reserved bytes raises TLIM, wherever it stands; else a misaligned address raises MISA, as it does where the record cannot be
read. -/
def Claims.DrainsEnter : Prop :=
  ∀ (o : ExtOps) (s : State) (c : Ctx), Free (.mdrain o) s c →
    let va := c.rd2 o.a.r.toNat 0
    let r := o.imm.toNat % 64
    (va % 32 ≠ 0 → (∀ segs, engRead s c.b va 96 ≠ .ok segs) → (∀ a, engRead s c.b va 96 ≠ .ats a) →
      exec (.mdrain o) s = .next (raise c [(0, .misa, va)]))
    ∧ ∀ segs, engRead s c.b va 96 = .ok segs → engPoison s c.b va 96 = false →
      let tsr := engBytes s c.bid c.b segs
      ((tsrAt tsr 8 1 % 16 ≠ tyCode o.ty ∨ tsrAt tsr 9 1 < 2 ∨ tsrAt tsr 12 4 ≠ 0) →
        exec (.mdrain o) s = .next (raise c [(0, .tlim, va)]))
      ∧ ∀ q : MatOp, q.instr = .mdrain o → q.acc = o.d.toNat → q.addr = va → q.tsr = tsr → q.pc = c.pc → q.id = s.nextId →
        q.row0 = (BitVec.ofNat 32 (c.rd r 0)).toInt → q.col0 = (BitVec.ofNat 32 (c.rd (r + 1) 0)).toInt →
        (va % 32 ≠ 0 → drainBad c.l c.bid q o ≠ some .tlim → exec (.mdrain o) s = .next (raise c [(0, .misa, va)]))
        ∧ (va % 32 = 0 → drainBad c.l c.bid q o = none →
        ∃ t k q', exec (.mdrain o) s = .next t ∧ blockAfter t c = some k ∧ k.x.mops = c.b.x.mops ++ [q']
          ∧ q'.id = s.nextId ∧ q'.instr = .mdrain o ∧ q'.acc = o.d.toNat ∧ q'.tsr = tsr ∧ q'.row0 = q.row0 ∧ q'.col0 = q.col0
          ∧ q'.mode = c.mode o.rm ∧ q'.stalled = none)

/-- R29, R101, R297, R315, R316: DRAIN_HANDOVER of the drain that the bulk copy engine's turn has come to, outside deterministic
mode, without atomic-add and with no special term: a transfer holds each element's value, rounded once; its flags reach every live group; `.clr` empties the accumulator. -/
def Claims.DrainsHandOver : Prop :=
  ∀ (o : ExtOps) (s : State) (b m : Nat) (k : Block) (q : MatOp),
    tget s.blocks b = some k → FirstOp k m q → q.instr = .mdrain o → q.acc < 8 → Alive k → q.tsr ≠ [] →
    (tsrAt q.tsr 10 2).testBit 2 = false → (recOf s k).det = false → (coreOf s k.core).xfers.length < 64 →
    (coreOf s k.core).drain = some (b, m) → accSpoiled s k.core b q.acc = false →
    (∀ x ∈ (coreOf s k.core).spillQ, x.b ≠ b ∨ x.acc ≠ q.acc) →
    (∀ e < 256, let f := (elemOf k q.acc e).fl; f.nan = false ∧ f.inv = false ∧ f.pinf = false ∧ f.ninf = false) →
    let v := fun e => drained s k.core b q.acc e o.ty q.mode o.sat (elemOf k q.acc e)
    ∃ t k' x, exec (.drainHandover b m) s = .next t ∧ tget t.blocks b = some k'
      ∧ (coreOf t k.core).xfers = (coreOf s k.core).xfers ++ [x] ∧ x.id = m ∧ x.b = b ∧ x.drain = true ∧ x.dir = 1
      ∧ x.tsr = q.tsr ∧ x.org = [q.col0, q.row0, 0, 0, 0] ∧ x.vals = (List.range 256).map (fun e => (v e).1)
      ∧ (∀ p g, tget k.groups p = some g → ∃ g', tget k'.groups p = some g' ∧ g'.flags = if groupLive g then
          g.flags ||| BitVec.ofNat 6 (orFlags ((List.range 256).map fun e => (v e).2)) else g.flags)
      ∧ accOf k' q.acc = (if o.imm.getLsbD 6 then [] else accOf k q.acc)

/-! ### Transfers -/

/-- R355: a `cpy` whose record, descriptor and origin meet no cause, with room in the range scoreboard and the queue, becomes
the last transfer of its engine and enters the scoreboard, OUT for direction 1. -/
def Claims.CopiesEnter : Prop :=
  ∀ (o : ExtOps) (s : State) (c : Ctx) (va : Nat), Free (.cpy o) s c → c.lanes ≠ [] → cpyUniform c o = true →
    (∀ k ∈ c.lanes, c.rd2 o.a.r.toNat k = va) → va % 32 = 0 →
    (∀ j < 96, ∃ pa, Reaches c true false false (va + j) 1 pa) →
    (∀ g ∈ physPieces c va 96, poisoned s.mem.poison g.1 g.2 = false) →
    mayRead s (c.b.core / 192) (physPieces c va 96) = true → lockedBytes s (physPieces c va 96) = false →
    let tsr := engBytes s c.bid c.b (physPieces c va 96)
    let r := o.imm.toNat % 256
    let dir := o.imm.toNat / 4096
    cpyCauses c (cpyXfer c o tsr) va = [] → rangesFull c.b = false → (coreOf s c.b.core).xfers.length < 64 →
    (∀ q, c.sq = some q → q.busy = []) →
    ∃ t k x, exec (.cpy o) s = .next t ∧ blockAfter t c = some k
      ∧ (coreOf t c.b.core).xfers = (coreOf s c.b.core).xfers ++ [x] ∧ x.id = s.nextId ∧ x.b = c.bid ∧ x.party = c.party
      ∧ x.dir = dir ∧ x.tsr = tsr ∧ x.scope = scopeOf o ∧ x.started = false ∧ x.drain = false ∧ x.moved = []
      ∧ (∀ l ∈ c.lanes, x.org = (List.range 5).map (fun j => (BitVec.ofNat 32 (c.rd (r + j) l)).toInt)
          ∧ x.desc = (c.rd o.b.r.toNat l, c.rd (o.b.r.toNat + 1) l))
      ∧ (∃ e ∈ k.x.ranges, e.owner = x.id ∧ e.out = decide (dir = 1)) ∧ RegistersKept t c

/-- R323, R336, R350, R355: operands of a `cpy` that differ among the lanes raise NUNI; a misaligned record address raises MISA, and
an absent page of the record XLAT; a record out of form raises TLIM alone, and another whose base or strides do not align its
elements MISA. What the record's translations met is noted where one of the first two is raised; none waits for the host (R447). -/
def Claims.CopyCauses : Prop :=
  ∀ (o : ExtOps) (s : State) (c : Ctx), Free (.cpy o) s c → c.lanes ≠ [] →
    (cpyUniform c o = false → exec (.cpy o) s = .next (raise c (causeAll .nuni c.lanes)))
    ∧ ∀ va, cpyUniform c o = true → (∀ k ∈ c.lanes, c.rd2 o.a.r.toNat k = va) →
      let eas := (pieces va 96).map (·.1)
      let ready := mayRead s (c.b.core / 192) (physPieces c va 96) = true ∧ lockedBytes s (physPieces c va 96) = false
      (∀ a ∈ eas, a < 2 ^ 57 → ∀ e, translate s c.l.pasid a ≠ .ats e) →
      (va % 32 ≠ 0 → ready → ∃ cs, exec (.cpy o) s = .next (noteLanes c eas (raise c cs))
        ∧ (∀ x ∈ cs, x.1 ∈ c.lanes) ∧ ∀ k ∈ c.lanes, (k, Cause.misa, va) ∈ cs)
      ∧ (∀ a ∈ eas, 2 ^ 57 ≤ a ∨ (∃ e, translate s c.l.pasid a = .absent e) →
        ∃ cs, exec (.cpy o) s = .next (noteLanes c eas (raise c cs))
          ∧ (∀ x ∈ cs, x.1 ∈ c.lanes) ∧ ∀ k ∈ c.lanes, (k, Cause.xlat, a) ∈ cs)
      ∧ (va % 32 = 0 → (∀ j < 96, ∃ pa, Reaches c true false false (va + j) 1 pa) →
        (∀ g ∈ physPieces c va 96, poisoned s.mem.poison g.1 g.2 = false) → ready →
        let tsr := engBytes s c.bid c.b (physPieces c va 96)
        let o0 := fun k => (BitVec.ofNat 32 (c.rd (o.imm.toNat % 256) k)).toInt
        ∀ k ∈ c.lanes,
          (RecordOutOfForm tsr (o0 k) → exec (.cpy o) s = .next (raise c (causeAll .tlim c.lanes va)))
          ∧ (¬RecordOutOfForm tsr (o0 k) → RecordMisaligned tsr → ∃ cs, exec (.cpy o) s = .next (raise c cs)
            ∧ (∀ x ∈ cs, x.1 ∈ c.lanes) ∧ ∀ j ∈ c.lanes, (j, Cause.misa, va) ∈ cs))

/-- R258, R337, R490: of a type with whole bytes, the unit of box element (c0 … c4) moves that element: its global bytes are at
BASE + x0 e + Σ xk STRk where every index lies in its extent, and its scratchpad bytes in its row where the descriptor places
them. -/
def Claims.BoxElements : Prop :=
  ∀ (x : Xfer) (c : Nat → Nat), RecordGood x.tsr → x.drain = false → tyWidth (tsrTy x.tsr) ≠ 4 → x.org.length = 5 →
    (∀ k < 5, c k < tsrBox x.tsr k) →
    let e := elemBytes (tsrTy x.tsr)
    let d := descFields (x.desc.1 + 2 ^ 32 * x.desc.2)
    boxUnit x c < unitCount x
      ∧ (inExtents x c → unitGlobal x (boxUnit x c) = some ((BitVec.ofInt 64 (boxAddress x c)).toNat, e))
      ∧ (¬inExtents x c → unitGlobal x (boxUnit x c) = none)
      ∧ unitScratch x (boxUnit x c) = (List.range e).map fun j =>
          rowAddr d.1 d.2.2.1 d.2.1 (tsrBox x.tsr 0 * e) (boxRow x c) (c 0 * e + j)

/-- R334, R338, R345, R361: ACCESS_PERFORMS of a transfer into the space moves one unit that may move: in the extents, from
global memory or the weight store; out of them, zeros where ZF is set, and nothing where it is not. No other byte changes. -/
def Claims.ElementsMoveIn : Prop :=
  ∀ (s : State) (n : Nat) (x : Xfer) (k : Block), Moving s n x k → x.dir ≠ 1 → tyWidth (tsrTy x.tsr) ≠ 4 → x.drain = false →
    movable s k x ≠ [] → Rises s.cores →
    (∀ u ∈ movable s k x, ∀ g ∈ unitSegs s k x u, physKind g.1 ≠ .remote ∧ poisoned s.mem.poison g.1 g.2 = false
      ∧ targetsAt s g.1 g.2 = [] ∧ ∀ j < g.2, targetsAt s (g.1 + j) 1 = []) →
    (∀ u ∈ movable s k x, (unitScratch x u).Nodup) → (∀ u ∈ movable s k x, unitIn x u ≠ [] →
      (segAddrs (unitSegs s k x u)).length = (unitScratch x u).length) →
    ∃ t k' u x', exec (.accessPerforms n) s = .next t ∧ u ∈ movable s k x ∧ tget t.blocks x.b = some k'
      ∧ x' ∈ (coreOf t k.core).xfers ∧ x'.id = n ∧ x'.moved = x.moved ++ [u] ∧ t.mem = s.mem
      ∧ (∀ (j : Nat) a, (unitScratch x u)[j]? = some a → rdCell k'.scr a =
          if unitIn x u = [] then (if (tsrAt x.tsr 10 2).testBit 1 then 0 else rdCell k.scr a)
          else nearCell s.mem (engViewer k.core x.b) ((segAddrs (unitSegs s k x u)).getD j 0))
      ∧ ∀ a, a ∉ unitScratch x u → rdCell k'.scr a = rdCell k.scr a

/-- R334, R338, R361, R364: ACCESS_PERFORMS of a transfer out of the space that neither adds nor publishes moves one unit that may
move: its element enters, at its address, the view of the observers that its scope gives the write; out of the extents nothing is
written. -/
def Claims.ElementsMoveOut : Prop :=
  ∀ (s : State) (n : Nat) (x : Xfer) (k : Block), Moving s n x k → x.dir = 1 → tyWidth (tsrTy x.tsr) ≠ 4 →
    tsrAt x.tsr 10 2 / 4 % 4 = 0 → k.core < 768 → movable s k x ≠ [] → Rises s.cores →
    (∀ u ∈ movable s k x, offImages s k.core (segAddrs (unitSegs s k x u))
      ∧ ∀ g ∈ unitSegs s k x u, physKind g.1 ≠ .remote ∧ targetsAt s g.1 g.2 = []) →
    ∃ t u x', exec (.accessPerforms n) s = .next t ∧ u ∈ movable s k x ∧ x' ∈ (coreOf t k.core).xfers ∧ x'.id = n
      ∧ x'.moved = x.moved ++ [u]
      ∧ ViewWritten s t (writeSeen (unitAccess k x (unitSegs s k x u))) (match unitIn x u with
          | [] => []
          | y :: _ => (segAddrs (unitSegs s k x u)).zip
              (bytesOf (elemBytes (tsrTy x.tsr)) (x.vals.getD ((unitAt x u).1 * boxOf x.drain x.tsr 0 + y.1) 0)))

/-- R266, R337, R355: SOURCE_READ_DONE of a copy out of the space that may read its source: its elements are the box's, row by
row, and its scoreboard entry is gone. -/
def Claims.CopySourcesRead : Prop :=
  ∀ (s : State) (n : Nat) (x : Xfer) (k : Block), tget s.blocks x.b = some k → xferOf s k.core n = some x →
    sourceMay s k x = true → RecordGood x.tsr → x.drain = false → tyWidth (tsrTy x.tsr) ≠ 4 →
    let d := descFields (x.desc.1 + 2 ^ 32 * x.desc.2)
    let e := elemBytes (tsrTy x.tsr)
    poisoned k.scrPoison d.1 ((boxRows false x.tsr - 1) * d.2.2.1 + rowBytes x.tsr) = false →
    ∃ t k' x', exec (.sourceReadDone x.b n) s = .next t ∧ tget t.blocks x.b = some k' ∧ xferOf t k.core n = some x'
      ∧ x'.sourceRead = true ∧ k'.scr = k.scr ∧ (∀ r ∈ k'.x.ranges, r.owner ≠ n)
      ∧ ∀ c : Nat → Nat, (∀ j < 5, c j < tsrBox x.tsr j) →
        x'.vals.getD (boxUnit x c) 0 = ofBytes ((List.range e).map fun j =>
          rdCell k.scr (rowAddr d.1 d.2.2.1 d.2.1 (tsrBox x.tsr 0 * e) (boxRow x c) (c 0 * e + j)))

/-- R334, R339: TRANSFER_START starts the first transfer that waits, while fewer than four move; TRANSFER_COMPLETE takes out a
transfer whose units have all moved, with its scoreboard entry, and leaves any other as it is. -/
def Claims.TransferTurns : Prop :=
  (∀ (s : State) (c : Nat) (x : Xfer), (coreOf s c).xfers.find? (fun x => !x.started) = some x →
    let busy := ((coreOf s c).xfers.filter Xfer.started).length
    (busy < 4 → ∃ t, exec (.transferStart c) s = .next t ∧ (coreOf t c).xfers
      = (coreOf s c).xfers.map fun y => if y.id = x.id then { y with started := true } else y)
    ∧ (4 ≤ busy → exec (.transferStart c) s = .next s))
  ∧ ∀ (s : State) (c n : Nat) (x : Xfer) (k : Block), xferOf s c n = some x → tget s.blocks x.b = some k → Alive k →
    let done := x.started = true ∧ (x.dir = 1 → x.sourceRead = true) ∧ ∀ u < unitCount x, u ∈ x.moved
    (done → ∃ t k', exec (.transferComplete c n) s = .next t ∧ (coreOf t c).xfers = (coreOf s c).xfers.filter (·.id ≠ n)
      ∧ tget t.blocks x.b = some k' ∧ k'.x.ranges = k.x.ranges.filter (·.owner ≠ n))
    ∧ (¬done → exec (.transferComplete c n) s = .next s)

/-- R343, R356: `publish` of an address in a published buffer that no transfer still writes issues the swap of the buffer; an
address in none raises PERM, and addresses that differ NUNI. -/
def Claims.Publishes : Prop :=
  ∀ (o : ExtOps) (s : State) (c : Ctx), Free (.publish o) s c → c.lanes ≠ [] →
    ((∃ j ∈ c.lanes, ∃ k ∈ c.lanes, c.rd2 o.a.r.toNat j ≠ c.rd2 o.a.r.toNat k) →
      exec (.publish o) s = .next (raise c (causeAll .nuni c.lanes)))
    ∧ ∀ k ∈ c.lanes, (∀ j ∈ c.lanes, c.rd2 o.a.r.toNat j = c.rd2 o.a.r.toNat k) →
      let va := globalAddr c o k
      ((∀ r ∈ c.l.publish, ¬(r.1 ≤ va ∧ va < r.1 + r.2)) → exec (.publish o) s = .next (raise c (causeAll .perm c.lanes va)))
      ∧ ∀ r, c.l.publish.find? (fun r => decide (r.1 ≤ va) && decide (va < r.1 + r.2)) = some r → publishWaits c r = false →
        ∃ t a, exec (.publish o) s = .next t ∧ issuedAccesses s t = [a] ∧ a.op = .swap r.1 r.2 ∧ a.scope = scopeOf o
          ∧ a.b = c.bid ∧ a.party = c.party ∧ BytesKept s t ∧ RegistersKept t c

/-! ### Completion and settlement of long instructions -/

/-- R130, R133, R166: FAST_COMPLETION of a long instruction whose latency has passed and whose accesses have performed, and that
parks nothing: its results stand in its lanes but for registers killed since its issue, its flags are raised, it is done, and no
other register changes. -/
def Claims.FastCompletions : Prop :=
  ∀ (s : State) (b g n : Nat) (k : Block) (gr : Group) (x : LongX), tget s.blocks b = some k → tget k.groups g = some gr →
    gr.longs.find? (fun x => x.id == n && !x.done) = some x →
    ((coreOf s k.core).stopped = true ∨ x.left ≠ 0 ∨ (∃ a ∈ s.accesses, a.b = b ∧ a.party = g ∧ a.long = some n) →
      exec (.fastCompletion b g n) s = .next s)
    ∧ ((coreOf s k.core).stopped = false → x.left = 0 →
      (∀ a ∈ s.accesses, a.b = b → a.party = g → a.long ≠ some n) → x.parks = [] → x.sent = [] →
      (x.res.map (·.1)).Nodup →
      ∃ t k' g', exec (.fastCompletion b g n) s = .next t ∧ tget t.blocks b = some k' ∧ tget k'.groups g = some g'
        ∧ (∀ l ws (j : Nat) w, (l, ws) ∈ x.res → l < 32 → ws[j]? = some w → x.reg + j ∉ x.dead → rdReg g' (x.reg + j) l = w.toNat)
        ∧ (∀ r l, l < 32 → r ∈ x.dead ∨ (∀ y ∈ x.res, ¬(y.1 = l ∧ x.reg ≤ r ∧ r < x.reg + y.2.length)) →
            rdReg g' r l = rdReg gr r l)
        ∧ g'.flags = gr.flags ||| x.flags ∧ (∀ y ∈ g'.longs, y.id = n → y.done = true) ∧ g'.pend = gr.pend
        ∧ k'.scr = k.scr
        ∧ (teamRows s k.core (teamOf k g) + rowsFor gr x.kept ≤ 1024 → t.mem = s.mem))

/-- R133, R218, R221: FAST_COMPLETION of a long instruction whose records all find places: they stand in the ring, and those
registers of the instruction that have not been killed have as many more pending lanes as the records have. -/
def Claims.RecordsArePlaced : Prop :=
  ∀ (s : State) (b g n : Nat) (k : Block) (gr : Group) (x : LongX), tget s.blocks b = some k → tget k.groups g = some gr →
    gr.longs.find? (fun x => x.id == n && !x.done) = some x → (coreOf s k.core).stopped = false → x.left = 0 →
    (∀ a ∈ s.accesses, a.b = b → a.party = g → a.long ≠ some n) →
    let w := writeRecords (sref s) (cycleOf s k) k (ringFree k + min x.need k.cap) x.parks
    x.sent = [] → w.2 = [] → (x.parks.map fun r => r.lanes.length).sum ≠ 0 →
    ∃ t k' g', exec (.fastCompletion b g n) s = .next t ∧ tget t.blocks b = some k' ∧ tget k'.groups g = some g'
      ∧ k'.x.park.map ParkRec.id = k.x.park.map ParkRec.id ++ x.parks.map ParkRec.id ∧ k'.scr = w.1.scr
      ∧ (∀ r, tcount g'.pend r = tcount gr.pend r
          + if x.reg ≤ r ∧ r < x.reg + x.nregs ∧ r ∉ x.dead then (x.parks.map fun r => r.lanes.length).sum else 0)
      ∧ g'.flags = gr.flags ||| x.flags ∧ (∀ y ∈ g'.longs, y.id = n → y.done = true)
      ∧ ∀ r ∈ k'.x.park, (∃ p ∈ x.parks, p.id = r.id) → r.marked = true ∧ r.dead = x.dead

/-- R133, R166, R227: SETTLEMENT of a decided record of a block whose lines are resident: its values stand in its lanes, the
pending lanes of its registers are fewer by its lanes where fast completion has marked them, its flags are raised, and its places
are free. A register killed before it settles takes nothing. -/
def Claims.RecordsSettle : Prop :=
  ∀ (s : State) (b n : Nat) (k : Block) (g : Group) (r : ParkRec), tget s.blocks b = some k →
    k.x.park.find? (fun r => r.id == n && r.stage == 4) = some r → tget k.groups (8 * r.team + r.group) = some g →
    (coreOf s k.core).stopped = false → imagesOnly k = false → (r.values.map (·.1)).Nodup →
    let regs := if r.pair then [r.dreg, r.dreg + 1] else [r.dreg]
    let dead := deadRegs k (8 * r.team + r.group) r
    (∀ v ∈ r.values, v.1 < 32 ∧ v.2.length ≤ regs.length) →
    (∀ q ∈ regs, ∀ l, tget g.lines q = some l → l.resident = true) →
    ∃ t k' g', exec (.settlement b n) s = .next t ∧ tget t.blocks b = some k'
      ∧ tget k'.groups (8 * r.team + r.group) = some g'
      ∧ (∀ l ws (j : Nat) w, (l, ws) ∈ r.values → ws[j]? = some w → r.dreg + j ∉ dead → rdReg g' (r.dreg + j) l = w.toNat)
      ∧ (∀ q l, l < 32 → (∀ v ∈ r.values, v.1 ≠ l) ∨ q ∉ regs ∨ q ∈ dead → rdReg g' q l = rdReg g q l)
      ∧ g'.flags = g.flags ||| r.flags
      ∧ (∀ q ∈ regs, tcount g'.pend q = tcount g.pend q - if r.marked = true ∧ q ∉ dead then r.lanes.length else 0)
      ∧ (∀ y ∈ k'.x.park, y.id ≠ n) ∧ k'.scr = k.scr

/-- R222 to R224, R244: WEU_ADMISSION moves the next record of a cluster into the wide evaluation unit; WEU_DECISION decides it or
passes a hard one to the exact stage; EXACT_PASS_START admits every record that waits for its class; EXACT_PASS_END decides
them. -/
def Claims.RecordStages : Prop :=
  (∀ (s : State) (cl c b : Nat) (k : Block) (r : ParkRec), clusterRec s cl = some (c, b, k, r) → cl < 8 → Rises s.blocks →
    recPoisoned k r = false → ∃ t k' r', exec (.weuAdmission cl) s = .next t ∧ tget t.blocks b = some k' ∧ r' ∈ k'.x.park
      ∧ r'.id = r.id ∧ r'.stage = 1 ∧ (clusterOf t cl).weu = (clusterOf s cl).weu ++ [r.id])
  ∧ (∀ (s : State) (cl n b : Nat) (k : Block) (r : ParkRec), n ∈ (clusterOf s cl).weu → cl < 8 → Rises s.blocks →
    findRec s n = some (b, k, r) → ∃ t k' r', exec (.weuDecision cl n) s = .next t ∧ tget t.blocks b = some k'
      ∧ r' ∈ k'.x.park ∧ r'.id = n ∧ r'.values = r.values
      ∧ (let pass := r.hard = true ∧ r.cls ≠ 0
        (pass → r'.stage = 2 ∧ (n, r.cls) ∈ (clusterOf t cl).passWait) ∧ (¬pass → r'.stage = 4))
      ∧ n ∉ (clusterOf t cl).weu)
  ∧ (∀ (s : State) (cl e : Nat) (p : Pass), cl < 8 → (clusterOf s cl).passes[e]? = some p → p.busy = false →
    let mine := ((clusterOf s cl).passWait.filter fun r => r.2 == if e < 2 then 2 else 1).map (·.1)
    mine ≠ [] → ∃ t p', exec (.exactPassStart cl e) s = .next t ∧ (clusterOf t cl).passes[e]? = some p' ∧ p'.busy = true
      ∧ p'.recs = mine ∧ (∀ r ∈ (clusterOf t cl).passWait, r.2 ≠ if e < 2 then 2 else 1)
      ∧ ∀ k' ∈ t.blocks, ∀ r ∈ k'.2.x.park, r.id ∈ mine → r.stage = 3)
  ∧ ∀ (s : State) (cl e : Nat) (p : Pass), cl < 8 → (clusterOf s cl).passes[e]? = some p → p.busy = true →
    ∃ t p', exec (.exactPassEnd cl e) s = .next t ∧ (clusterOf t cl).passes[e]? = some p' ∧ p'.busy = false
      ∧ ∀ k' ∈ t.blocks, ∀ r ∈ k'.2.x.park, r.id ∈ p.recs → r.stage = 4

/-! ### Fills -/

/-- R124, R414: ICACHE_FILL for a party that misses an instruction word: the line of a page that may be fetched from stands in
the cache, as the code stood at the last launch (R470) and else as the die sees memory at the fill, which is the model's choice
(log 44); an absent page records FETCH for the party. -/
def Claims.InstructionFills : Prop :=
  ∀ (s : State) (b va : Nat) (k : Block) (m : Issuer × DWord × Nat), tget s.blocks b = some k →
    (fetchMisses s b k).find? (fun m => m.2.2 / 128 == va / 128) = some m →
    let pasid := (recOf s k).pasid
    (coreOf s k.core).stopped = false → icLine (coreOf s k.core) pasid va = none →
    (∀ l, translate s pasid va = .ok l → l.r = true → physKind l.pa = .hbm ∨ physKind l.pa = .lpddr ∨ physKind l.pa = .host →
      ∃ t x, exec (.icacheFill b va) s = .next t ∧ icLine (coreOf t k.core) pasid va = some x
        ∧ x.bytes = (List.range 128).map (fun j => codeByte s (k.core / 192) pasid (va / 128 * 128 + j) (l.pa / 128 * 128 + j))
        ∧ t.blocks = s.blocks)
    ∧ ∀ e gi (g : Group) msk, translate s pasid va = .absent e → m.1 = .group b gi msk → tget k.groups gi = some g →
      gi < 32 → g.cause = none → k.ended = false →
      ∃ t k' g' r, exec (.icacheFill b va) s = .next t ∧ tget t.blocks b = some k' ∧ tget k'.groups gi = some g'
        ∧ g'.cause = some r ∧ r.code = 0x0D ∧ r.addr = m.2.2 ∧ r.pc = m.2.1 ∧ g'.lines = g.lines

/-- R164, R463: LINE_FILL of a line that something needs: its words are those of the context image, and it is resident. -/
def Claims.LineFills : Prop :=
  ∀ (s : State) (b gi r : Nat) (k : Block) (g : Group) (x : Line) (bs : List Byte), tget s.blocks b = some k →
    tget k.groups gi = some g → tget g.lines r = some x → x.resident = false → k.placed = true →
    (coreOf s k.core).stopped = false → lineWanted s b gi r k g = true → vaRead s (recOf s k).pasid (imageVa (recOf s k) k.sblock gi + 128 * r) 128 = some bs →
    teamRows s k.core (teamOf k gi) < 1024 →
    ∃ t k' g' y, exec (.lineFill b gi r) s = .next t ∧ tget t.blocks b = some k' ∧ tget k'.groups gi = some g'
      ∧ tget g'.lines r = some y ∧ y.resident = true
      ∧ (∀ l < 32, rdReg g' r l = ofBytes ((bs.drop (4 * l)).take 4) % 2 ^ 32)
      ∧ ∀ q, q ≠ r → tget g'.lines q = tget g.lines q

/-! ### Stopping, leaving and coming back -/

/-- R398, R399: BLOCK_STOPPED waits until every long instruction of the block has reached fast completion. -/
def Claims.StopsWaitForLongs : Prop :=
  ∀ (s : State) (b : Nat) (k : Block), tget s.blocks b = some k →
    (k.h.halt ≠ .halting ∨ ∃ g ∈ k.groups, ∃ x ∈ g.2.longs, x.done = false) → exec (.blockStopped b) s = .next s

/-- R405: TIME_SLICE_EXPIRY, outside step mode and the debugger: the running blocks whose time is over are halted for their
slice, and count anew. -/
def Claims.TimeSlices : Prop :=
  ∀ (s : State) (l b : Nat) (x : Launch) (k : Block), tget s.launches l = some x → x.r.step = false → debugHeld s l = false →
    Rises s.blocks → tget s.blocks b = some k → k.launch = l → k.placed = true → k.ended = false → k.complete = false →
    k.h.halt = .running →
    ∃ t k', exec (.timeSliceExpiry l) s = .next t ∧ tget t.blocks b = some k'
      ∧ (13000 * x.r.slice ≤ k.h.sliceUsed → k'.h.halt = .halting ∧ k'.h.why = some .tslice ∧ k'.h.sliceUsed = 0)
      ∧ (k.h.sliceUsed < 13000 * x.r.slice → x.tslHeld = false → k' = k)

/-- R30, R31, R286, R415: PREEMPT halts a running block, and in step mode every running block of its launch with it; one that
has stopped for it is pre-empted: it keeps its slot and its lines, and the pins of its program area are cleared. One that is to
give up its slot, which no block in step mode does, waits until its matrix instructions have completed; then no page is pinned
and no line resident, and live registers stay live in the images. A pre-empted one may give up its slot later. -/
def Claims.Preemption : Prop :=
  ∀ (s : State) (b : Nat) (slot : Bool) (k : Block), tget s.blocks b = some k →
    (k.h.halt = .running → k.placed = true → k.ended = false → k.complete = false → mayPreempt s k = true →
      debugHeld s k.launch = false →
      ∃ t k', exec (.preempt b slot) s = .next t ∧ tget t.blocks b = some k' ∧ k'.h.halt = .halting ∧ k'.h.why = some .preempt
        ∧ ∀ x ∈ placedOf s k.launch, stepMode s k = true → x.2.h.halt = .running → ∃ j, tget t.blocks x.1 = some j
            ∧ j.h.halt = .halting)
    ∧ (k.h.halt = .stopped → k.h.handler = none → k.h.why = some .tslice ∨ k.h.why = some .preempt → k.h.held = false →
      (slot = false ∨ stepMode s k = true) → Rises k.pages → ∃ t k', exec (.preempt b slot) s = .next t ∧ tget t.blocks b = some k'
        ∧ k'.h.halt = .preempted ∧ k'.placed = k.placed ∧ k'.teams = k.teams ∧ k'.core = k.core
        ∧ (∀ p y, tget k'.pages p = some y → 4096 * p < progSize k → y.pinned = false)
        ∧ ∀ gi g, tget k.groups gi = some g → ∃ g', tget k'.groups gi = some g' ∧ g'.lines = g.lines)
    ∧ (slot = true → stepMode s k = false → k.h.held = false →
      (k.h.halt = .stopped ∧ k.h.handler = none ∧ (k.h.why = some .tslice ∨ k.h.why = some .preempt)
        ∨ k.h.halt = .preempted ∧ debugHeld s k.launch = false) →
      (atRest s b k = true → Rises k.groups → (∀ x ∈ k.groups, Rises x.2.lines) →
        ∃ t k', exec (.preempt b slot) s = .next t ∧ tget t.blocks b = some k'
        ∧ k'.h.halt = .swapped ∧ k'.placed = false ∧ k'.teams = [] ∧ (∀ p ∈ k'.pages, p.2.pinned = false)
        ∧ (∀ gi g, tget k.groups gi = some g → ∃ g', tget k'.groups gi = some g'
            ∧ ∀ r, ((tget g'.lines r).isSome = (tget g.lines r).isSome ∧ ∀ x, tget g'.lines r = some x → x.resident = false))
        ∧ ∀ y, tget t.launches k.launch = some y → b ∈ y.swapped)
      ∧ (atRest s b k = false → exec (.preempt b slot) s = .next s))

/-- R161, R172, R412: a line that leaves its row. One written since its fill is in the context image; it stays live and is not
resident, and no other line changes. -/
def Claims.LinesAreWrittenBack : Prop :=
  ∀ (s : State) (b gi r pa : Nat) (k : Block) (g : Group) (x : Line), tget s.blocks b = some k → tget k.groups gi = some g →
    tget g.lines r = some x → x.resident = true →
    ∃ k' g' y, tget (evictLine s b gi r).blocks b = some k' ∧ tget k'.groups gi = some g' ∧ tget g'.lines r = some y
      ∧ y.resident = false ∧ y.dirty = false ∧ (∀ q, q ≠ r → tget g'.lines q = tget g.lines q)
      ∧ (x.dirty = false → (evictLine s b gi r).mem = s.mem)
      ∧ (x.dirty = true →
          (∀ j < 128, devicePa s (recOf s k).pasid (imageVa (recOf s k) k.sblock gi + 128 * r + j) = some (pa + j)) →
          ∀ l < 32, ofBytes (physRead (evictLine s b gi r) (pa + 4 * l) 4) = rdReg g r l)

/-- R23 to R25, R412, R468: BLOCK_PLACEMENT places nothing while no launch waits for a core or a command holds it back; the
distributor chooses a core of a permitted die with a free slot and free teams, in the cluster of least load. -/
def Claims.Placement : Prop :=
  (∀ s : State, nextLaunch s = none ∨ s.front.pairDown = true → exec .blockPlacement s = .next s)
  ∧ ∀ (s : State) (dies n c : Nat), chooseCore s dies n = some c → c < 768 ∧ dies.testBit (c / 192) = true
      ∧ n ≤ (freeTeams s c).length ∧ freeSlots s c ≠ [] ∧ (clusterOf s (c / 96)).retained = false
      ∧ (clusterOf s (c / 96)).offline = false
      ∧ (∀ c', c' < 768 → eligible s dies n c' = true → clusterLoad s (c / 96) ≤ clusterLoad s (c' / 96))
      ∧ ∀ c', c' / 96 = c / 96 → eligible s dies n c' = true → coreLoad s c ≤ coreLoad s c'

/-- R19, R24, R163, R280: BLOCK_PLACEMENT of the next block of a launch with no initialised line: a block stands on the chosen
core, each group at the kernel entry with its live lanes, and no line of it is live. -/
def Claims.NewBlocks : Prop :=
  ∀ (s : State) (l c : Nat) (x : Launch), nextLaunch s = some l → tget s.launches l = some x → heldBack s l = false →
    s.front.pairDown = false → x.r.step = false → x.r.node = false → x.r.inits = [] → x.swapped = [] →
    chooseCore s x.r.dies (teamsOf x.r) = some c → (∀ k ∈ s.blocks, k.1 < s.nextId) →
    ∃ t k, exec .blockPlacement s = .next t ∧ tget t.blocks s.nextId = some k ∧ k.launch = l ∧ k.sblock = x.next
      ∧ k.core = c ∧ k.placed = true ∧ k.h.halt = .running ∧ k.mseq.running = false ∧ k.cseq.running = false
      ∧ k.scr = [] ∧ k.x = {} ∧ (k.groups.map (·.1)) = List.range ((x.r.nl + 31) / 32)
      ∧ (∀ gi g, tget k.groups gi = some g → g.base = x.r.base ∧ g.quota = 0 ∧ g.lines = [] ∧ g.flags = 0 ∧ g.drm = 0
          ∧ g.slices.length = 8 ∧ ∀ (j : Nat) y, g.slices[j]? = some y → y.pc = x.r.entry ∧ y.act = y.live ∧ y.stack = []
            ∧ y.gang = 0 ∧ y.wait = .none
            ∧ ∀ i < 4, y.live.getLsbD i = decide (32 * gi + 4 * j + i < x.r.nl))
      ∧ ∃ y, tget t.launches l = some y ∧ y.next = x.next + 1

/-- R464, R466: HANG_DETECTION: a launch with a block placed for longer than its limit ends with status 0x0301; any other goes on;
while the pair restarts it does nothing. -/
def Claims.HangsEnd : Prop :=
  (∀ (s : State) (l : Nat), s.front.pairDown = true → exec (.hangDetection l) s = .next s)
  ∧ ∀ (s : State) (l : Nat) (x : Launch), tget s.launches l = some x → s.front.pairDown = false →
    let hung := ∃ b ∈ s.blocks, b.2.launch = l ∧ 13000 * x.r.lb < b.2.h.placedFor
    (hung → exec (.hangDetection l) s = .next (endLaunch s l 0x0301)) ∧ (¬hung → exec (.hangDetection l) s = .next s)

/-! ### Memory-mapped registers and translation -/

/-- R11, R12, R433, R442, R450 to R454: MMIO_WRITE to a register that holds what is written: a read gives the written bits that
it has, and no other such register changes. -/
def Claims.RegistersHoldWhatIsWritten : Prop :=
  ∀ (s : State) (v : BitVec 64), s.front.r.ready = true → s.front.vcw.length = 18 → ∀ p ∈ plainRegs,
    ∃ t, exec (.mmioWrite p.1 (8 * p.2.1) v) s = .next t ∧ mmioRead t p.1 p.2.1 = v.toNat &&& p.2.2
      ∧ ∀ q ∈ plainRegs, q.1 ≠ p.1 → mmioRead t q.1 q.2.1 = mmioRead s q.1 q.2.1

/-- R449 to R454, R460: MMIO_WRITE to a register that starts an action: the action is due, and nothing else changes; the same
for every doorbell, and for a result 1 or 2 in FE_PRQRESP whatever its reserved bits hold. A request in FE_QREQ is in progress
until it has a result; one that comes meanwhile is logged. -/
def Claims.RegistersThatAct : Prop :=
  ∀ (s : State) (v : BitVec 64), s.front.r.ready = true →
    (∀ p ∈ actionRegs, exec (.mmioWrite p.1 (8 * p.2.1) v) s
      = .next { s with agenda := s.agenda ++ p.2.2 (BitVec.ofNat 64 (v.toNat % 2 ^ (8 * p.2.1))) })
    ∧ (∀ k < 16384, exec (.mmioWrite (0x20000 + 8 * k) 64 v) s = .next { s with agenda := s.agenda ++ [.doorbellWrite k v] })
    ∧ (v.toNat / 2 ^ 32 % 4 = 1 → exec (.mmioWrite 0x060 64 v) s
        = .next { s with agenda := s.agenda ++ [.pagePresentResponse (v.toNat % 2 ^ 32)] })
    ∧ (v.toNat / 2 ^ 32 % 4 = 2 → exec (.mmioWrite 0x060 64 v) s
        = .next { s with agenda := s.agenda ++ [.pageNotPresentResponse (v.toNat % 2 ^ 32)] })
    ∧ (v.toNat / 2 ^ 62 = 1 ∨ v.toNat / 2 ^ 62 = 2 → ∃ t, exec (.mmioWrite 0x040 64 v) s = .next t ∧ t.front.r.qBusy = true
        ∧ (s.front.r.qBusy = false → t = { s with front := { s.front with r := { s.front.r with qBusy := true, qReq := some v } } })
        ∧ (s.front.r.qBusy = true → Logs s t 6 10 (1024 * s.pkg.toNat) 0x40 0 ∧ t.front.r = s.front.r))

/-- R13, R473, R491: an access that is not of a register's width and alignment reads all ones, and writes nothing but an entry
of the error log; until READY a write has no effect and every register but FE_STATUS and FE_FWSTAT reads 0, which is the model's
choice (log 102). A host read of such a width or alignment, at BAR0 or through BAR2, is logged too. -/
def Claims.RejectedAccesses : Prop :=
  ∀ (s : State) (off width : Nat) (v : BitVec 64),
    (s.front.r.ready = true → width % 8 ≠ 0 ∨ accessOk off (width / 8) = false →
      ∃ t, exec (.mmioWrite off width v) s = .next t ∧ Logs s t 6 10 (1024 * s.pkg.toNat) off 0 ∧ t.front.r = s.front.r
        ∧ t.front.vcw = s.front.vcw ∧ t.dies = s.dies ∧ t.clusters = s.clusters ∧ t.blocks = s.blocks ∧ t.agenda = s.agenda)
    ∧ (∀ n, accessOk off n = false → mmioRead s off n = 2 ^ (8 * n) - 1)
    ∧ (s.front.r.ready = false → s.front.r.fwrecov = false → exec (.mmioWrite off width v) s = .next s)
    ∧ (∀ n, s.front.r.ready = false → accessOk off n = true → off ≠ 0x000 → off ≠ 0x014 → mmioRead s off n = 0)
    ∧ (∀ n, s.front.r.ready = true → (accessOk off n = true → runEvent (.mmioRead off n) s = .next s)
        ∧ (accessOk off n = false → ∃ t, runEvent (.mmioRead off n) s = .next t ∧ Logs s t 6 10 (1024 * s.pkg.toNat) off 0))
    ∧ ∀ x : HostAccess, s.front.r.ready = true → x.op = .read → s.front.r.bar2.toNat * 2 ^ 30 + x.off = 0x80000000000 + off →
        physKind (0x80000000000 + off) = .regs →
        (accessOk off x.len = true → exec (.hostBar2Access x) s = .next s)
        ∧ (accessOk off x.len = false → ∃ t, exec (.hostBar2Access x) s = .next t ∧ Logs s t 6 10 (1024 * s.pkg.toNat) off 0)

/-- R382, R421, R438: DENIED_CLEAR, SE_COLL_CLEAR and ERR_LOG_OVF_CLEAR clear what they name, and nothing else. -/
def Claims.StatusClears : Prop :=
  ∀ (s : State) (d : Nat), s.front.r.ready = true → d < 4 →
    (∃ t, exec (.deniedClear d) s = .next t ∧ dieOf t d = { dieOf s d with denied := false, reason := 0 }
      ∧ (∀ j, j ≠ d → dieOf t j = dieOf s j) ∧ t.front = s.front ∧ t.mem = s.mem)
    ∧ (∃ t, exec (.seCollClear d) s = .next t ∧ dieOf t d = { dieOf s d with collValid := false, collCnt := 0 }
      ∧ (∀ j, j ≠ d → dieOf t j = dieOf s j) ∧ t.front = s.front ∧ t.mem = s.mem)
    ∧ ∃ t, exec .errLogOvfClear s = .next t ∧ t.front.l = { s.front.l with errOvf := false, errDrop := 0 }
      ∧ t.front.r = s.front.r ∧ t.dies = s.dies ∧ t.mem = s.mem

/-- R451: INVALIDATE_RANGE and INVALIDATE_ALL discard the cached translations of the PASID that they cover and no other, and set
BUSY; while BUSY is set, or with a reserved bit, a request is rejected and logged. -/
def Claims.Invalidations : Prop :=
  ∀ (s : State) (v : BitVec 64), s.front.r.ready = true →
    let p := s.front.r.invalP.toNat
    let lo := v.toNat / 4096 % 2 ^ 45 * 4096
    let hi := lo + 4096 * (v.toNat / 16 % 256 + 1)
    let good := s.front.r.invBusy = false ∧ v.toNat / 2 ^ 57 = 0 ∧ v.toNat % 8 = 0
    (good →
      (∃ t, exec (.invalidateRange v) s = .next t ∧ t.front.r.invBusy = true ∧ t.mem = s.mem
        ∧ (∀ e ∈ t.tlb, e ∈ s.tlb ∧ (e.pasid = p → e.va + 2 ^ e.size ≤ lo ∨ hi ≤ e.va))
        ∧ ∀ e ∈ s.tlb, (e.pasid ≠ p ∨ e.va + 2 ^ e.size ≤ lo ∨ hi ≤ e.va) → e ∈ t.tlb)
      ∧ ∃ t, exec (.invalidateAll v) s = .next t ∧ t.front.r.invBusy = true ∧ t.mem = s.mem
        ∧ ∀ e, e ∈ t.tlb ↔ e ∈ s.tlb ∧ e.pasid ≠ p)
    ∧ (¬good → ∃ t, exec (.invalidateRange v) s = .next t ∧ exec (.invalidateAll v) s = .next t
        ∧ Logs s t 6 10 (1024 * s.pkg.toNat) 0x38 0 ∧ t.tlb = s.tlb ∧ t.front.r = s.front.r)

/-- R451: INVALIDATION_COMPLETE: once every access that may use an old translation has performed, BUSY is cleared, DONE
advances and vector 7 is raised. -/
def Claims.InvalidationsComplete : Prop :=
  ∀ s : State, s.front.r.invBusy = true →
    ((∀ i ∈ s.front.r.invWait, ∀ a ∈ s.accesses, a.id ≠ i) → ∃ t, exec .invalidationComplete s = .next t
      ∧ t.front.r.invBusy = false ∧ t.front.r.invDone = s.front.r.invDone + 1 ∧ t.front.msix = s.front.msix ++ [7])
    ∧ ((∃ i ∈ s.front.r.invWait, ∃ a ∈ s.accesses, a.id = i) → exec .invalidationComplete s = .next s)

/-! ### Page requests -/

/-- R303, R323, R458: ENGINE_TRANSLATION_FAULT: with a place in the ring, the transfer or matrix instruction waits and a request
stands at the ring's head; vector 1 is raised if the ring was empty. -/
def Claims.EngineFaultsPost : Prop :=
  ∀ (s : State) (k : Block) (va : Nat), s.front.r.prqEn = true → s.front.r.prqHead + 1 ≠ s.front.r.prqTail →
    k.ended = false → atsLeaf s (recOf s k).pasid va = none →
    (∀ a, translate s (recOf s k).pasid va ≠ .absent (some a)) →
    (∀ j < 16, inResidentImage s (s.front.r.prqPa.toNat * 32768 + 16 * s.front.r.prqHead.toNat + j) = false) →
    let posted := fun (t : State) (wr : Bool) =>
      t.front.r.prqHead = s.front.r.prqHead + 1
      ∧ physRead t (s.front.r.prqPa.toNat * 32768 + 16 * s.front.r.prqHead.toNat) 16
        = bytesOf 8 (va / 4096 * 4096) ++ bytesOf 4 ((recOf s k).pasid + (if wr then 2 ^ 31 else 0)) ++ bytesOf 4 s.front.nextTag
      ∧ t.front.msix = (if s.front.r.prqHead = s.front.r.prqTail then s.front.msix ++ [1] else s.front.msix)
    (∀ c x y, xferOf s c x = some y → tget s.blocks y.b = some k → xferHit s y = .absent va →
      ∃ t y', exec (.engineTranslationFault (.transfer c x)) s = .next t ∧ posted t (y.dir == 1)
        ∧ xferOf t c x = some y' ∧ y'.stalled = some s.front.nextTag ∧ y'.moved = y.moved)
    ∧ ∀ b m q, tget s.blocks b = some k → k.x.mops.find? (fun o => o.id == m) = some q → q.stalled = none →
      matHit s b k q = .absent va →
      ∃ t k' q' wr, exec (.engineTranslationFault (.matrix b m)) s = .next t ∧ posted t wr ∧ tget t.blocks b = some k'
        ∧ k'.x.mops.find? (fun o => o.id == m) = some q' ∧ q'.stalled = some s.front.nextTag

/-- R303, R323, R400: ENGINE_PERMISSION_FAULT: a transfer of a group raises PERM there, a matrix instruction in its sequencer;
neither does anything further. -/
def Claims.EngineFaultsRaise : Prop :=
  ∀ (s : State) (k : Block) (va : Nat), k.ended = false →
    (∀ c x y pa g, xferOf s c x = some y → tget s.blocks y.b = some k → xferHit s y = .denied va pa → y.party < 32 →
      tget k.groups y.party = some g → g.cause = none →
      ∃ t, exec (.enginePermissionFault (.transfer c x)) s = .next t ∧ GroupCause t y.b y.party 0x06 2 va
        ∧ xferOf t c x = none)
    ∧ ∀ b m q pa, tget s.blocks b = some k → k.x.mops.find? (fun o => o.id == m) = some q → q.stalled = none →
      matHit s b k q = .denied va pa →
      ∃ t k', exec (.enginePermissionFault (.matrix b m)) s = .next t ∧ MatrixCause t b 0x06 1 va
        ∧ tget t.blocks b = some k' ∧ ∀ o ∈ k'.x.mops, o.id ≠ m

/-- R303, R323, R458: FE_PRQRESP. PAGE_PRESENT_RESPONSE lets who waited go on; PAGE_NOT_PRESENT_RESPONSE raises XLAT there; a
response with no request is logged. -/
def Claims.PageResponses : Prop :=
  ∀ (s : State) (tag : Nat),
    (∀ q, s.front.reqs.find? (fun q => q.tag == tag && !q.host && q.posted) = some q →
      ∃ t, exec (.pagePresentResponse tag) s = .next t ∧ (∀ p ∈ t.front.reqs, p.tag ≠ tag)
        ∧ (∀ c x y, q.who = .xfer c x → xferOf s c x = some y → xferOf t c x = some { y with stalled := none })
        ∧ ∀ b m k o, q.who = .mat b m → tget s.blocks b = some k → k.x.mops.find? (fun o => o.id == m) = some o →
          ∃ k', tget t.blocks b = some k' ∧ k'.x.mops.find? (fun o => o.id == m) = some { o with stalled := none })
    ∧ (∀ q, s.front.reqs.find? (fun q => q.tag == tag && !q.host && (q.posted || !s.front.r.prqEn)) = some q →
      ∃ t, exec (.pageNotPresentResponse tag) s = .next t
        ∧ (∀ c x y k g, q.who = .xfer c x → xferOf s c x = some y → tget s.blocks y.b = some k → k.ended = false →
            y.party < 32 → tget k.groups y.party = some g → g.cause = none → GroupCause t y.b y.party 0x07 2 q.va)
        ∧ ∀ b m k o, q.who = .mat b m → tget s.blocks b = some k → k.ended = false →
          k.x.mops.find? (fun o => o.id == m) = some o → MatrixCause t b 0x07 1 q.va)
    ∧ (s.front.r.ready = true → (∀ q ∈ s.front.reqs, q.tag = tag → q.host = true) →
      ∃ t, exec (.pagePresentResponse tag) s = .next t ∧ exec (.pageNotPresentResponse tag) s = .next t
        ∧ Logs s t 6 10 (1024 * s.pkg.toNat) 0x60 0 ∧ t.blocks = s.blocks ∧ t.cores = s.cores)

/-- R359, R447, R458: ATS_TRANSLATION_COMPLETION for an address of an ATS leaf that has no cached host page: the host's page is
cached, or a page request goes to the host, unless `xprobe` alone asked, which posts none; PRI_RESPONSE ends a request that is with
the host, which holds 2,048 of them, and a failure is remembered. -/
def Claims.HostTranslations : Prop :=
  (∀ (s : State) (pasid va iova h : Nat), atsLeaf s pasid va = some iova → atsFind s pasid iova = none →
    priPending s pasid (iova / 4096) = false →
    (∃ t, exec (.atsTranslationCompletion pasid va (some h)) s = .next t
      ∧ atsFind t pasid iova = some (2 ^ 39 + h % 2 ^ 39) ∧ t.mem = s.mem)
    ∧ (hostAsked s pasid (iova / 4096) = true → ∃ t q, exec (.atsTranslationCompletion pasid va none) s = .next t
      ∧ t.front.reqs = s.front.reqs ++ [q] ∧ q.host = true ∧ q.va = va ∧ q.pasid = pasid ∧ q.tag = s.front.nextTag)
    ∧ (hostAsked s pasid (iova / 4096) = false → ∃ t, exec (.atsTranslationCompletion pasid va none) s = .next t
      ∧ t.front = s.front ∧ t.mem = s.mem ∧ probeNote t pasid va ≠ none))
  ∧ ∀ (s : State) (tag : Nat) (q : PageReq) (p g : Nat), (priOutstanding s).find? (fun q => q.tag == tag) = some q →
    q.who = .ats p g →
    (∃ t, exec (.priResponse tag true) s = .next t ∧ t.ats = s.ats ∧ ∀ r ∈ t.front.reqs, r.tag ≠ tag)
    ∧ ∃ t, exec (.priResponse tag false) s = .next t ∧ atsFailed t p (4096 * g) = true ∧ ∀ r ∈ t.front.reqs, r.tag ≠ tag

/-- R447: ATS_INVALIDATION discards the host's translations of the pages it names, and no other. -/
def Claims.HostInvalidations : Prop :=
  ∀ (s : State) (pasid va pages : Nat), ∃ t, exec (.atsInvalidation pasid va pages) s = .next t ∧ t.mem = s.mem
    ∧ ∀ e, e ∈ t.ats ↔ e ∈ s.ats ∧ ¬(e.pasid = pasid ∧ va / 4096 ≤ e.va ∧ e.va < va / 4096 + pages)

/-- R453: PRQ_TAIL_WRITE: FE_PRQTAIL takes the written index; a request that waited for a place takes the ring's head. -/
def Claims.RequestRing : Prop :=
  ∀ (s : State) (v : BitVec 32), s.front.r.ready = true →
    ((∀ q ∈ s.front.reqs, q.posted = true) → ∃ t, exec (.prqTailWrite v) s = .next t
      ∧ t.front.r.prqTail = BitVec.ofNat 11 v.toNat ∧ t.front.r.prqHead = s.front.r.prqHead ∧ t.mem = s.mem)
    ∧ ∀ q, s.front.reqs.filter (fun q => !q.posted) = [q] → s.front.r.prqEn = true →
      s.front.r.prqHead + 1 ≠ BitVec.ofNat 11 v.toNat →
      (∀ j < 16, inResidentImage s (s.front.r.prqPa.toNat * 32768 + 16 * s.front.r.prqHead.toNat + j) = false) →
      ∃ t, exec (.prqTailWrite v) s = .next t ∧ t.front.r.prqHead = s.front.r.prqHead + 1
        ∧ physRead t (s.front.r.prqPa.toNat * 32768 + 16 * s.front.r.prqHead.toNat) 16
          = bytesOf 8 (q.va / 4096 * 4096) ++ bytesOf 4 (q.pasid + (if q.write then 2 ^ 31 else 0)) ++ bytesOf 4 q.tag
        ∧ (∃ r ∈ t.front.reqs, r.tag = q.tag ∧ r.posted = true) ∧ ∀ r ∈ t.front.reqs, r.tag = q.tag → r.posted = true

/-! ### Command queues -/

/-- R452, R459: QUEUE_CREATE: a malformed descriptor gives result 3, a key that exists 2, a full probe chain 1; else the QCB in
the first free place of the chain holds the descriptor and is valid, and a lookup finds it. -/
def Claims.QueuesAreCreated : Prop :=
  ∀ (s : State) (v : BitVec 64), s.front.r.ready = true → v.toNat / 2 ^ 62 = 1 →
    let pa := v.toNat / 64 % 2 ^ 46 * 64
    let key := physNat s pa 4
    let free := (probes key).find? fun x => !qcbValid s x
    ∃ t, exec (.queueCreate v) s = .next t
      ∧ (descBad s pa = true → t.front.r.qResult = 3 ∧ t.mem = s.mem ∧ t.front.queues = s.front.queues)
      ∧ (descBad s pa = false → (lookupQueue s key (probes key)).isSome = true →
          t.front.r.qResult = 2 ∧ t.mem = s.mem ∧ t.front.queues = s.front.queues)
      ∧ (descBad s pa = false → lookupQueue s key (probes key) = none → free = none →
          t.front.r.qResult = 1 ∧ t.mem = s.mem ∧ t.front.queues = s.front.queues)
      ∧ ∀ n, descBad s pa = false → lookupQueue s key (probes key) = none → free = some n →
          t.front.r.qResult = 0 ∧ t.front.r.qBusy = false ∧ t.front.r.qSlot.toNat = n ∧ qcbValid t n = true ∧ lookupQueue t key (probes key) = some n
          ∧ (runOf t n).cmds = [] ∧ (runOf t n).tail.toNat = physNat s (pa + 20) 4
          ∧ ∀ j < 64, j < 4 ∨ 8 ≤ j → physRead t (qcbPa s n + j) 1 = physRead s (pa + j) 1

/-- R452, R459: QUEUE_DESTROY: a malformed descriptor gives result 3, a queue that is not found 2; else its slot becomes a tombstone and the front end
keeps nothing of it. -/
def Claims.QueuesAreDestroyed : Prop :=
  ∀ (s : State) (v : BitVec 64), s.front.r.ready = true → v.toNat / 2 ^ 62 = 2 →
    let pa := v.toNat / 64 % 2 ^ 46 * 64
    let key := physNat s pa 4
    ∃ t, exec (.queueDestroy v) s = .next t
      ∧ (descBad s pa = true → t.front.r.qResult = 3 ∧ t.front.queues = s.front.queues ∧ t.mem = s.mem)
      ∧ (descBad s pa = false → lookupQueue s key (probes key) = none → t.front.r.qResult = 2 ∧ t.front.queues = s.front.queues ∧ t.mem = s.mem)
      ∧ ∀ n, descBad s pa = false → lookupQueue s key (probes key) = some n → t.front.r.qResult = 0 ∧ t.front.r.qSlot.toNat = n
          ∧ qcbValid t n = false ∧ qcbTomb t n = true ∧ tget t.front.queues n = none
          ∧ ∀ m, m ≠ n → tget t.front.queues m = tget s.front.queues m

/-- R460: DOORBELL_WRITE: a tail word whose sequence number stands ahead and whose tail is within the ring is accepted; one with
a reserved bit is logged; any other is discarded. RECONCILE_PASS applies the shadow tail of each queue in the same way. -/
def Claims.Doorbells : Prop :=
  ∀ (s : State) (n : Nat) (v : BitVec 64), s.front.r.ready = true → s.front.pairDown = false → qcbValid s n = true →
    let d := (v.toNat / 2 ^ 32 % 2 ^ 24 + 2 ^ 24 - qcb s n 40 4 % 2 ^ 24) % 2 ^ 24
    let ok := 0 < d ∧ d < 2 ^ 23 ∧ (v.toNat % 2 ^ 32 + 2 ^ 32 - qcb s n 20 4) % 2 ^ 32 ≤ qcb s n 16 4
    (v.toNat / 2 ^ 57 = 0 → ok → ∃ t, exec (.doorbellWrite n v) s = .next t ∧ (runOf t n).tail.toNat = v.toNat % 2 ^ 32
      ∧ (runOf t n).urg = ((runOf s n).urg || v.getLsbD 56) ∧ (runOf t n).cmds = (runOf s n).cmds
      ∧ qcb t n 40 4 = v.toNat / 2 ^ 32 % 2 ^ 24)
    ∧ (v.toNat / 2 ^ 57 = 0 → ¬ok → exec (.doorbellWrite n v) s = .next s)
    ∧ (v.toNat / 2 ^ 57 ≠ 0 → ∃ t, exec (.doorbellWrite n v) s = .next t
        ∧ Logs s t 6 10 (1024 * s.pkg.toNat) (0x20000 + 8 * n) 0 ∧ t.front.queues = s.front.queues)
    ∧ ∀ q, s.front.queues = [(n, q)] → v.toNat = qcb s n 24 8 →
        ∃ t, exec .reconcilePass s = .next t ∧ exec (.doorbellWrite n v) s = .next t

/-- R461: a malformed command at the head of a queue completes with status 0x0105. -/
def Claims.MalformedCommands : Prop :=
  ∀ (s : State) (q : Nat) (c : Cmd), headCommand s q = some c → c.bad = true →
    ∃ t, exec (.launch q) s = .next t ∧ CommandDone s t q c 0x0105 0 ∧ t.launches = s.launches ∧ t.blocks = s.blocks

/-- R464: LAUNCH: a command that the static checks refuse, or that cannot start within its bound, which counts from the time at which
the pair read it if it reads it again (R466), completes with its status; an admitted one is a launch at the end of the order of
admission, with no block yet. Its object is loaded then or before its first block is placed, a free choice (R470, R479). The malformed
entries that keep bytes of its record from being reached are logged (R450, R457). -/
def Claims.Launches : Prop :=
  ∀ (s : State) (q : Nat) (c : Cmd), commandOf s q 1 = some c → s.front.r.fwState ≠ 4 → nextQueue s = some q →
    let s0 : State := { s with front := { s.front with
      queues := tmod s.front.queues q fun r => { r with urg := false, readAt := none } } }
    let s' := noteAbsent s0 c.pasid (c.f 16 8) 128 (1024 * s.pkg.toNat)
    let s'' := noteAbsent s' c.pasid ((vaNat s' c.pasid (c.f 16 8) 8).getD 0) 128 (1024 * s.pkg.toNat)
    let from_ := (runOf s q).readAt.getD s.time
    let id := s.front.nextLaunch
    (∀ e, staticChecks s' q c.pasid (c.f 16 8) = .error e →
      ∃ t, exec (.launch q) s = .next t ∧ CommandDone s'' t q c e 0 ∧ t.launches = s.launches ∧ t.front.order = s.front.order)
    ∧ ∀ r o, staticChecks s' q c.pasid (c.f 16 8) = .ok (r, o) →
      ((r.node = false ∧ startable s' r r.blocks from_ = false) →
        ∃ t, exec (.launch q) s = .next t ∧ CommandDone s' t q c 0x0101 0 ∧ t.launches = s.launches
          ∧ t.front.order = s.front.order)
      ∧ (r.node = true ∨ startable s' r r.blocks from_ = true →
        ∃ t x, exec (.launch q) s = .next t ∧ tget t.launches id = some x ∧ x.r = { r with compl := c.compl } ∧ x.next = 0
          ∧ (x.toLoad = none ∨ x.toLoad = some o)
          ∧ x.ending = none ∧ t.front.order = s.front.order ++ [id] ∧ t.blocks = s.blocks ∧ CommandKept s t q c (some id)
          ∧ t.front.nextLaunch = id % (2 ^ 32 - 1) + 1)

/-- R68, R162, R217, R463, R464, R470: a launch that the static checks accept keeps the limits of its block, its registers and its
scratchpad. -/
def Claims.AdmittedLaunchesFit : Prop :=
  ∀ (s : State) (q pasid va : Nat) (r : LaunchRec) (o : List Byte), staticChecks s q pasid va = .ok (r, o) →
    1 ≤ r.nl ∧ r.nl ≤ 1024 ∧ 1 ≤ r.dies ∧ r.dies < 16 ∧ 1 ≤ r.base ∧ r.base + r.ext ≤ 256
    ∧ min 8 ((r.nl + 31) / 32) * r.base + r.ext ≤ 1024
    ∧ (r.scratch + 4095) / 4096 * 4096 + (64 * r.park + 4095) / 4096 * 4096 ≤ 0x100000
    ∧ 16 ≤ r.park ∧ r.park ≤ 4096 ∧ 1 ≤ r.lb ∧ (r.node = false → 1 ≤ r.blocks ∧ r.blocks ≤ 2 ^ 20)

/-- R465: RECORD of a node takes the next index of its launch; with no such node it completes with 0x0105. -/
def Claims.Records : Prop :=
  ∀ (s : State) (q : Nat) (c : Cmd), commandOf s q 2 = some c → debugHeld s (c.f 16 4) = false →
    let bad := ∀ x, tget s.launches (c.f 16 4) = some x →
      x.r.node = false ∨ x.r.pasid ≠ c.pasid ∨ x.closed = true ∨ 65536 < c.f 32 4
    (bad → ∃ t, exec (.record q) s = .next t ∧ CommandDone s t q c 0x0105 0 ∧ t.launches = s.launches)
    ∧ ∀ x, ¬bad → tget s.launches (c.f 16 4) = some x → x.records.length < 31 →
      ∃ t y, exec (.record q) s = .next t ∧ tget t.launches (c.f 16 4) = some y ∧ CommandKept s t q c (some (c.f 16 4))
        ∧ y.records = x.records ++ [(x.recNo, c.f 24 8, c.compl)] ∧ y.recNo = x.recNo + 1 ∧ y.blockRecs = x.blockRecs

/-- R463, R465, R466: a batch of a node, of up to 32 records, becomes a block to be placed if it is startable and its areas lie in
context pages: when the gather time has passed (GATHER_TIMER, not while the pair restarts), at FLUSH and at FLUSH with CLOSE. -/
def Claims.Batches : Prop :=
  ∀ (s : State) (l : Nat) (x : Launch), tget s.launches l = some x → x.r.node = true → x.records ≠ [] → x.ending = none →
    debugHeld s l = false →
    let batched := fun (t : State) => ∃ y, tget t.launches l = some y ∧ y.records = x.records.drop 32
      ∧ y.blockRecs = x.blockRecs ++ [(x.blockRecs.length, x.records.take 32)]
    (x.r.gather ≠ 0 → x.oldest + 13000 * x.r.gather ≤ s.time → s.front.pairDown = false →
        startable s x.r 1 s.time = true → areasOk s x.r x.blockRecs.length 1 = true →
      ∃ t, exec (.gatherTimer l) s = .next t ∧ batched t)
    ∧ (s.time < x.oldest + 13000 * x.r.gather → exec (.gatherTimer l) s = .next s)
    ∧ ∀ q c, commandOf s q 7 = some c → c.f 16 4 = l → x.r.pasid = c.pasid →
      startable (finishCommand s q c 0 0) x.r 1 s.time = true → areasOk (finishCommand s q c 0 0) x.r x.blockRecs.length 1 = true →
      (c.f 20 1 % 2 = 0 → ∃ t, exec (.flush q) s = .next t ∧ batched t ∧ CommandDone s t q c 0 0)
      ∧ (c.f 20 1 % 2 = 1 → x.finishedBlocks ≤ x.blockRecs.length →
          ∃ t, exec (.flushClose q) s = .next t ∧ batched t ∧ (∃ y, tget t.launches l = some y ∧ y.closed = true)
            ∧ CommandDone s t q c 0 0)

/-- R461, R466: SIGNAL is kept until it is the first of its queue; SIGNAL_WRITE then, outside a restart of the pair, writes its value,
raises its vector and completes it. -/
def Claims.Signals : Prop :=
  (∀ (s : State) (q : Nat) (c : Cmd), commandOf s q 3 = some c →
    let v := c.f 32 2
    (v ≠ 0 ∧ (v < 8 ∨ 2047 < v) → ∃ t, exec (.signal q) s = .next t ∧ CommandDone s t q c 0x0105 0)
    ∧ (v = 0 ∨ (8 ≤ v ∧ v ≤ 2047) → ∃ t, exec (.signal q) s = .next t ∧ CommandKept s t q c none
        ∧ qcb t q 20 4 = (qcb s q 20 4 + 1) % 2 ^ 32))
  ∧ ∀ (s : State) (q : Nat) (x : Command) (rest : List Command), (runOf s q).cmds = x :: rest → x.kind = 3 →
    s.front.pairDown = false →
    let pasid := qcb s q 0 4 / 4096
    let bs := (x.bytes.drop 24).take 8
    let s' := agentWrite s pasid (x.f 16 8) bs
    ∃ t, exec (.signalWrite q) s = .next t ∧ (runOf t q).cmds = rest
      ∧ ∀ pa cp, x.bytes.length = 64 → (∀ j < 8, devicePa s pasid (x.f 16 8 + j) = some (pa + j)) →
          (∀ j < 8, inResidentImage s (pa + j) = false) → noTargets s [(pa, 8)] →
          (∀ j < 16, devicePa s' (qcb s' q 0 4 / 4096) (x.compl + j) = some (cp + j)) →
          (∀ j < 16, inResidentImage s' (cp + j) = false) → noTargets s' [(cp, 16)] →
          t.front.msix = (if x.f 32 2 = 0 then s.front.msix else s.front.msix ++ [x.f 32 2])
          ∧ (cp + 16 ≤ pa ∨ pa + 8 ≤ cp → physRead t pa 8 = bs)
          ∧ physRead t cp 16 = bytesOf 2 0 ++ bytesOf 2 0 ++ bytesOf 4 0 ++ bytesOf 8 (sref s)

/-- R461, R466: WAIT is kept; WAIT_SATISFIED completes it once the value at its address is large enough, outside a restart of the
pair. -/
def Claims.Waits : Prop :=
  (∀ (s : State) (q : Nat) (c : Cmd), commandOf s q 4 = some c →
    ∃ t, exec (.wait q) s = .next t ∧ CommandKept s t q c none ∧ qcb t q 20 4 = (qcb s q 20 4 + 1) % 2 ^ 32)
  ∧ ∀ (s : State) (q v : Nat) (x : Command), keptOf s q 4 = some x →
    vaNat s (qcb s q 0 4 / 4096) (x.f 16 8) 8 = some v →
    (x.f 24 8 ≤ v → ∃ t, exec (.waitSatisfied q) s = .next t ∧ (runOf t q).cmds = (runOf s q).cmds.erase x)
    ∧ (v < x.f 24 8 → exec (.waitSatisfied q) s = .next s)

/-- R345, R468: WEIGHTS outside the store or its dies completes with 0x0105, else it is kept; once no launch runs on its dies, the
bytes stand in the weight store of each of them. -/
def Claims.WeightCommands : Prop :=
  (∀ (s : State) (q : Nat) (c : Cmd), commandOf s q 5 = some c → keptOf s q 5 = none →
    (0x20000000 < c.f 24 8 + c.f 32 8 ∨ 15 < c.f 40 1 → ∃ t, exec (.weights q) s = .next t ∧ CommandDone s t q c 0x0105 0)
    ∧ (c.f 24 8 + c.f 32 8 ≤ 0x20000000 → c.f 40 1 ≤ 15 → ∃ t, exec (.weights q) s = .next t ∧ CommandKept s t q c none))
  ∧ ∀ (s : State) (q : Nat) (x : Command) (bs : List Byte), keptOf s q 5 = some x →
    (diesBusy s (x.f 40 1) = true → exec (.weights q) s = .next s)
    ∧ (diesBusy s (x.f 40 1) = false → vaRead s (qcb s q 0 4 / 4096) (x.f 16 8) (x.f 32 8) = some bs →
      x.f 24 8 + x.f 32 8 ≤ 0x20000000 →
      ∃ t, exec (.weights q) s = .next t ∧ (runOf t q).cmds = (runOf s q).cmds.erase x
        ∧ ((∀ j < 16, ∀ p, devicePa (writeWeights s x bs) (qcb (writeWeights s x bs) q 0 4 / 4096) (x.compl + j) = some p →
              physKind p ≠ .weight ∧ inResidentImage (writeWeights s x bs) p = false ∧ targetsAt s p 1 = []) →
            ∀ d < 4, (x.f 40 1).testBit d = true → physRead t (weightBase d + x.f 24 8) bs.length = bs))

/-- R233, R468: SLOTLOAD of a slot outside 24 to 63 completes with 0x0105, else it is kept; once no launch runs, a package whose
signature verifies and whose header is well formed stands in its slot, and another changes none. -/
def Claims.SlotCommands : Prop :=
  (∀ (s : State) (q : Nat) (c : Cmd), commandOf s q 6 = some c → keptOf s q 6 = none →
    (c.f 24 1 < 24 ∨ 63 < c.f 24 1 → ∃ t, exec (.slotload q) s = .next t ∧ CommandDone s t q c 0x0105 0)
    ∧ (24 ≤ c.f 24 1 → c.f 24 1 ≤ 63 → ∃ t, exec (.slotload q) s = .next t ∧ CommandKept s t q c none))
  ∧ ∀ (s : State) (q : Nat) (x : Command), keptOf s q 6 = some x →
    (diesBusy s 15 = true → exec (.slotload q) s = .next s)
    ∧ (diesBusy s 15 = false → ∀ bs, packageAt s (qcb s q 0 4 / 4096) (x.f 16 8) = some bs →
      ∃ t, exec (.slotload q) s = .next t ∧ (runOf t q).cmds = (runOf s q).cmds.erase x
        ∧ (∀ f, Config.falconVerifies bs = true → slotOf bs = some f → tget t.front.slots (x.f 24 1) = some f)
        ∧ (Config.falconVerifies bs = false ∨ slotOf bs = none → t.front.slots = s.front.slots))

/-- R425: REPLICA with an unknown action, or of a launch that is not held, completes with 0x0105; a held replica is released, or
ends with 0x0303. -/
def Claims.ReplicaCommands : Prop :=
  ∀ (s : State) (q : Nat) (c : Cmd), commandOf s q 8 = some c →
    (c.f 20 1 ≠ 1 → c.f 20 1 ≠ 2 → ∃ t, exec (.replicaRelease q) s = .next t ∧ exec (.replicaEnd q) s = .next t
      ∧ CommandDone s t q c 0x0105 0)
    ∧ (∀ x, tget s.launches (c.f 16 4) = some x → x.replicaHeld = true → c.f 20 1 = 1 →
      ∃ t y, exec (.replicaRelease q) s = .next t ∧ tget t.launches (c.f 16 4) = some y ∧ y.replicaHeld = false
        ∧ y.sbars = x.sbars + 1)
    ∧ (∀ x, tget s.launches (c.f 16 4) = some x → x.replicaHeld = true → x.ending = none → Rises s.blocks → c.f 20 1 = 2 →
      ∃ t, exec (.replicaEnd q) s = .next t ∧ LaunchEnded s t (c.f 16 4) 0x0303)
    ∧ ((∀ x, tget s.launches (c.f 16 4) = some x → x.replicaHeld = false) →
      (c.f 20 1 = 1 → ∃ t, exec (.replicaRelease q) s = .next t ∧ CommandDone s t q c 0x0105 0)
      ∧ (c.f 20 1 = 2 → ∃ t, exec (.replicaEnd q) s = .next t ∧ CommandDone s t q c 0x0105 0))

/-- R229, R462: HOST_ENDS_LAUNCH ends a launch with status 0x0302. -/
def Claims.HostEnds : Prop :=
  ∀ (s : State) (l : Nat) (x : Launch), tget s.launches l = some x → x.ending = none → Rises s.blocks →
    ∃ t, exec (.hostEndsLaunch l) s = .next t ∧ LaunchEnded s t l 0x0302

/-! ### The host, other packages and collisions -/

/-- R377, R381, R447: HOST_BAR2_ACCESS. A write to memory, or an atomic of 4 or 8 bytes, changes the bytes at their homes and in
every view where no group's context image is resident and no target is live; a read changes nothing and returns the bytes; a line that a
synchronisation engine holds collides first. -/
def Claims.HostAccesses : Prop :=
  ∀ (s : State) (x : HostAccess), s.front.r.ready = true →
    let pa := s.front.r.bar2.toNat * 2 ^ 30 + x.off
    let n := if x.op = .write then x.data.length else x.len
    physKind pa = .hbm ∨ physKind pa = .lpddr →
      (x.op = .read → exec (.hostBar2Access x) s = .next s
        ∧ (noTargets s [(pa, n)] → bar2Read s x.off n = homeBytes s.mem pa n))
      ∧ (x.op ≠ .read → heldLines s pa n ≠ [] →
          let es := (heldLines s pa n).map (fun l => Event.atomicCollision (homeDie (128 * l)) l) ++ [.hostBar2Access x]
          exec (.hostBar2Access x) s = .next { s with agenda := s.agenda ++ es })
      ∧ (x.op ≠ .read → heldLines s pa n = [] → noTargets s [(pa, n)] → (∀ j < n, inResidentImage s (pa + j) = false) →
          x.op = .write ∨ n = 4 ∨ n = 8 →
          let old := ofBytes (homeBytes s.mem pa n)
          let a := ofBytes (x.data.take n)
          let v := match x.op with
            | .write => ofBytes x.data
            | .fetchAdd => (old + a) % 2 ^ (8 * n)
            | .swap => a
            | .cas => if old = a then ofBytes ((x.data.drop n).take n) else old
            | .read => old
          ∃ t, exec (.hostBar2Access x) s = .next t ∧ physRead t pa n = bytesOf n v
            ∧ (∀ p, p < pa ∨ pa + n ≤ p → homeCell t.mem p = homeCell s.mem p)
            ∧ ∀ d p, d < 4 → viewCell t.mem d p = homeCell t.mem p)

/-- R322, R447: a host access to an address that holds nothing is logged, and a read there returns all ones. -/
def Claims.HostAccessesNowhere : Prop :=
  ∀ (s : State) (x : HostAccess), s.front.r.ready = true →
    physKind (s.front.r.bar2.toNat * 2 ^ 30 + x.off) = .nothing →
    (∃ t, exec (.hostBar2Access x) s = .next t
      ∧ Logs s t 8 10 (1024 * s.pkg.toNat) (s.front.r.bar2.toNat * 2 ^ 30 + x.off) 0)
    ∧ ∀ n, bar2Read s x.off n = List.replicate n 0xFF

/-- R347: KEASET_REMOTE_ACCESS of another package: a read changes nothing; a write, or an integer addition, changes the bytes at
its address where no image is resident and no target live. -/
def Claims.RemoteAccesses : Prop :=
  ∀ (s : State) (pa : Nat), physKind pa = .hbm ∨ physKind pa = .lpddr →
    (∀ n, exec (.keasetRemoteAccess (.read pa n)) s = .next s)
    ∧ (∀ bs, noTargets s [(pa, bs.length)] → (∀ j < bs.length, inResidentImage s (pa + j) = false) →
      ∃ t, exec (.keasetRemoteAccess (.write pa bs)) s = .next t ∧ physRead t pa bs.length = bs
        ∧ ∀ p, p < pa ∨ pa + bs.length ≤ p → homeCell t.mem p = homeCell s.mem p)
    ∧ ∀ ty bs, tyInt ty = true → 8 ≤ tyWidth ty → noTargets s [(pa, tyWidth ty / 8)] →
      (∀ j < tyWidth ty / 8, inResidentImage s (pa + j) = false) →
      ∃ t, exec (.keasetRemoteAccess (.add pa ty bs)) s = .next t
        ∧ physRead t pa (tyWidth ty / 8)
          = bytesOf (tyWidth ty / 8) ((ofBytes (homeBytes s.mem pa (tyWidth ty / 8)) + ofBytes bs) % 2 ^ tyWidth ty)

/-- R381, R382: ATOMIC_COLLISION of a held line: its targets are retired, the line is dropped, SE_COLL records it, and the error
log has an entry. -/
def Claims.Collisions : Prop :=
  ∀ (s : State) (d line : Nat),
    (line ∈ (dieOf s d).held → ∃ t, exec (.atomicCollision d line) s = .next t ∧ line ∉ (dieOf t d).held
      ∧ (∀ x ∈ (dieOf t d).targets, x.addr / 128 ≠ line) ∧ (dieOf t d).collValid = true
      ∧ (dieOf t d).collCnt.toNat = min 255 ((dieOf s d).collCnt.toNat + 1)
      ∧ (dieOf t d).collPa = (if (dieOf s d).collCnt = 0 then BitVec.ofNat 52 (128 * line) else (dieOf s d).collPa)
      ∧ Logs s t 5 8 (1024 * s.pkg.toNat + 256 * d) (128 * line) 0)
    ∧ (line ∉ (dieOf s d).held → exec (.atomicCollision d line) s = .next s)

/-! ### Firmware, bring-up and attestation -/

/-- R456, R466, R467: FW_VERIFY, FW_VERIFY_COMPLETE, FW_COMMIT and FW_COMMIT_RESTART: the states of an update. An image is rejected
for its format, its signature or its security version, in that order, which is the model's choice (log 132); it is installed once no
launch runs, and its version is then the fused minimum. -/
def Claims.FirmwareUpdates : Prop :=
  ∀ s : State,
    (s.front.r.ready = true ∨ s.front.r.fwrecov = true → s.front.r.fwState ≠ 1 → s.front.r.fwState ≠ 4 →
      ∃ t, exec .fwVerify s = .next t ∧ t.front.r.fwState = 1 ∧ t.front.msix = s.front.msix ++ [4])
    ∧ (s.front.pairDown = true → exec .fwVerifyComplete s = .next s)
    ∧ (s.front.r.fwState = 1 → s.front.pairDown = false → ∃ t, exec .fwVerifyComplete s = .next t ∧ t.front.msix = s.front.msix ++ [4]
      ∧ match Config.imageVersion (stagedImage s) with
        | none => t.front.r.fwState = 3 ∧ t.front.r.fwReason = 3
        | some v =>
          if Config.falconVerifies (stagedImage s) = false then t.front.r.fwState = 3 ∧ t.front.r.fwReason = 1
          else if v < (minSvn s).toNat then t.front.r.fwState = 3 ∧ t.front.r.fwReason = 2
          else t.front.r.fwState = 2 ∧ t.front.r.fwReason = 0)
    ∧ (s.front.r.ready = true ∨ s.front.r.fwrecov = true → s.front.r.fwState = 2 →
      ∃ t, exec .fwCommit s = .next t ∧ t.front.r.fwState = 4)
    ∧ (s.front.r.fwState = 4 → s.launches ≠ [] → exec (.fwCommitRestart true) s = .next s)
    ∧ (s.front.r.fwState = 4 → s.launches = [] →
      (∃ t, exec (.fwCommitRestart true) s = .next t ∧ t.front.r.fwState = 0 ∧ t.front.pairDown = true
        ∧ t.front.image = some (stagedImage s) ∧ minSvn t = t.front.r.svn
        ∧ ∀ v, Config.imageVersion (stagedImage s) = some v → t.front.r.svn = BitVec.ofNat 16 v)
      ∧ ∃ t, exec (.fwCommitRestart false) s = .next t ∧ t.front.r.fwrecov = true ∧ t.front.r.svn = s.front.r.svn
        ∧ t.front.image = s.front.image ∧ minSvn t = minSvn s)

/-- R456, R466: PAIR_MISMATCH, PAIR_RESTART_COMPLETE and WORKER_TIMEOUT: the pair stops and comes back, with vector 2 where FE_STATUS
changes; blocks and launches go on. -/
def Claims.PairRestarts : Prop :=
  ∀ s : State,
    (∃ t, exec .pairMismatch s = .next t ∧ t.front.pairDown = true ∧ t.front.r.fault = true
      ∧ t.front.msix = (if s.front.r.fault = true then s.front.msix else s.front.msix ++ [2])
      ∧ t.blocks = s.blocks ∧ t.launches = s.launches ∧ t.mem = s.mem)
    ∧ (s.front.pairDown = true → ∃ t, exec .pairRestartComplete s = .next t ∧ t.front.pairDown = false
      ∧ t.front.r.fault = false ∧ t.blocks = s.blocks ∧ t.launches = s.launches)
    ∧ ∀ w, ∃ t, exec (.workerTimeout w) s = .next t ∧ t.front.queues = s.front.queues ∧ t.launches = s.launches
      ∧ t.blocks = s.blocks ∧ t.mem = s.mem

/-- R454, R466, R469: ATTESTATION_REQUEST sets BUSY and clears DONE; ATTESTATION_REPORT writes the report after the nonce, whose first 32
bytes are the nonce's, sets DONE and raises vector 3, outside a restart of the pair. -/
def Claims.Attestation : Prop :=
  ∀ s : State,
    (∀ v : BitVec 64, s.front.r.ready = true → ∃ t, exec (.attestationRequest v) s = .next t ∧ t.front.r.attBusy = true
      ∧ t.front.r.attDone = false ∧ t.front.r.attPa.toNat = v.toNat / 2 ^ 12 % 2 ^ 40 ∧ t.mem = s.mem)
    ∧ (s.front.pairDown = true → exec .attestationReport s = .next s)
    ∧ (s.front.r.attBusy = true → s.front.pairDown = false →
      let pa := 4096 * s.front.r.attPa.toNat
      let n := (reportBody s (physRead s pa 32)).length + 1280
      (∀ j < n, inResidentImage s (pa + 64 + j) = false) → noTargets s [(pa + 64, n)] →
      ∃ t, exec .attestationReport s = .next t ∧ t.front.r.attDone = true
      ∧ t.front.r.attBusy = false ∧ t.front.msix = s.front.msix ++ [3]
      ∧ physRead t (pa + 64) 32 = physRead s pa 32
      ∧ ∀ p, p < pa + 64 → homeCell t.mem p = homeCell s.mem p)

/-- R467, R473: POWER_GOOD leaves the machine as reset leaves it, but for the committed image and the fused minimum; BRINGUP_STAGE_COMPLETE takes the stages in order, sets READY after
stage 7 and raises vector 2; a failed stage ends bring-up, by FAIL or in the recovery loader, the latter in stage 1 only. -/
def Claims.BringUp : Prop :=
  ∀ s : State, exec .powerGood s = .next { State.reset with
      tick := s.tick, front := { State.reset.front with image := s.front.image, fused := s.front.fused } }
    ∧ (s.front.r.ready = true ∨ s.front.r.fail = true ∨ s.front.r.fwrecov = true →
        ∀ ok, exec (.bringupStageComplete ok) s = .next s)
    ∧ (s.front.r.ready = false → s.front.r.fail = false → s.front.r.fwrecov = false →
      (∃ t, exec (.bringupStageComplete true) s = .next t ∧ t.front.r.stage = s.front.r.stage + 1
        ∧ t.front.r.ready = decide (s.front.r.stage = 7) ∧ t.front.msix = s.front.msix ++ [2])
      ∧ ∃ t, exec (.bringupStageComplete false) s = .next t ∧ t.front.r.stage = s.front.r.stage ∧ t.front.r.ready = false
        ∧ t.front.msix = s.front.msix ++ [2] ∧ (s.front.r.stage ≠ 1 → t.front.r.fail = true)
        ∧ (s.front.r.stage = 1 → t.front.r.fail = true ∨ t.front.r.fwrecov = true))

/-! ### The debugger and retention -/

/-- R411, R412: DBG_HALT of a launch that is attached, while no launch is held: BUSY and STATE 1, and every running block of it is
halted for the debugger. Of a launch that is not attached the result is 1; while another is held, 3. -/
def Claims.DebuggerHalts : Prop :=
  ∀ (s : State) (v : BitVec 64), s.front.r.ready = true → s.front.l.dbgBusy = false → v.toNat / 2 ^ 52 % 2 ^ 10 = 0 →
    v.toNat / 2 ^ 62 = 1 →
    let l := v.toNat % 2 ^ 32
    (∀ x, tget s.launches l = some x → x.r.debug = true →
      (s.front.l.dbgLaunch = 0 → Rises s.blocks → ∃ t, exec (.dbgHalt v) s = .next t ∧ t.front.l.dbgBusy = true
        ∧ t.front.l.dbgState = 1 ∧ t.front.l.dbgLaunch.toNat = l ∧ t.front.l.dbgResult = 0
        ∧ ∀ b k, tget s.blocks b = some k → k.launch = l → k.placed = true → k.ended = false → k.complete = false → k.h.halt = .running →
          ∃ k', tget t.blocks b = some k' ∧ k'.h.halt = .halting ∧ k'.h.why = some .dbg)
      ∧ (s.front.l.dbgLaunch ≠ 0 → s.front.l.dbgLaunch.toNat ≠ l →
        ∃ t, exec (.dbgHalt v) s = .next t ∧ t.front.l.dbgResult = 3 ∧ t.blocks = s.blocks))
    ∧ ((∀ x, tget s.launches l = some x → x.r.debug = false) →
      ∃ t, exec (.dbgHalt v) s = .next t ∧ t.front.l.dbgResult = 1 ∧ t.front.l.dbgState = s.front.l.dbgState
        ∧ t.blocks = s.blocks)

/-- R412: DEBUGGER_HALTED: once every placed block of the launch has stopped and its matrix instructions have completed, all of
them are held, STATE is 2 and vector 5 is raised. -/
def Claims.DebuggerHolds : Prop :=
  ∀ s : State, s.front.l.dbgState = 1 ∨ s.front.l.dbgState = 4 → Rises s.blocks →
    let mine := placedOf s s.front.l.dbgLaunch.toNat
    ((∀ x ∈ mine, x.2.h.held = true ∨ atRest s x.1 x.2 = true) →
      ∃ t, exec .debuggerHalted s = .next t ∧ t.front.l.dbgState = 2 ∧ t.front.l.dbgBusy = false
        ∧ t.front.msix = s.front.msix ++ [5] ∧ ∀ x ∈ mine, ∃ k, tget t.blocks x.1 = some k ∧ k.h.held = true)
    ∧ ((∃ x ∈ mine, x.2.h.held = false ∧ atRest s x.1 x.2 = false) → exec .debuggerHalted s = .next s)

/-- R413: DBG_RELEASE lets every held block go on, DBG_STEP the block it names and no other; a block that was stopped for the
debugger runs again. DBG_RELEASE_COMPLETE ends the hold. -/
def Claims.DebuggerReleases : Prop :=
  (∀ (s : State) (v : BitVec 64) (x : Launch), s.front.r.ready = true → s.front.l.dbgBusy = false →
    v.toNat / 2 ^ 52 % 2 ^ 10 = 0 → tget s.launches (v.toNat % 2 ^ 32) = some x → x.r.debug = true → Rises s.blocks →
    let waits := fun (k : Block) => k.h.held = true ∧ k.h.halt = .stopped ∧ k.h.why = some .dbg ∧ k.h.handler = none
      ∧ k.h.tslPend = false
    let stands := s.front.l.dbgLaunch.toNat = v.toNat % 2 ^ 32 ∧ s.front.l.dbgState = 2
    (v.toNat / 2 ^ 62 = 2 →
      (stands → ∃ t, exec (.dbgRelease v) s = .next t ∧ t.front.l.dbgState = 3 ∧ t.front.l.dbgBusy = true
        ∧ ((∀ x ∈ placedOf s (v.toNat % 2 ^ 32), waits x.2) → ∀ b k, (b, k) ∈ placedOf s (v.toNat % 2 ^ 32) →
          ∃ k', tget t.blocks b = some k' ∧ k'.h.halt = .running ∧ k'.h.held = false))
      ∧ (¬stands → ∃ t, exec (.dbgRelease v) s = .next t ∧ t.front.l.dbgResult = 2 ∧ t.blocks = s.blocks))
    ∧ (v.toNat / 2 ^ 62 = 3 →
      (stands → ∀ b k, (placedOf s (v.toNat % 2 ^ 32)).find? (fun x => x.2.sblock == v.toNat / 2 ^ 32 % 2 ^ 20) = some (b, k) →
        waits k → ∃ t k', exec (.dbgStep v) s = .next t ∧ t.front.l.dbgState = 4 ∧ tget t.blocks b = some k'
          ∧ k'.h.halt = .running ∧ k'.h.stepping = true ∧ ∀ b', b' ≠ b → tget t.blocks b' = tget s.blocks b')
      ∧ (¬stands → ∃ t, exec (.dbgStep v) s = .next t ∧ t.front.l.dbgResult = 2 ∧ t.blocks = s.blocks)))
  ∧ ∀ s : State, s.front.l.dbgState = 3 → ∃ t, exec .dbgReleaseComplete s = .next t ∧ t.front.l.dbgState = 0
      ∧ t.front.l.dbgLaunch = 0 ∧ t.front.l.dbgBusy = false

/-- R420: RETENTION_ENTRY halts the running blocks of a cluster; once all are at rest they are held and the cluster's cores stop. -/
def Claims.RetentionBegins : Prop :=
  ∀ (s : State) (cl : Nat), cl < 8 → (clusterOf s cl).retained = false → Rises s.blocks →
    (∀ b k, (b, k) ∈ blocksIn s cl → k.h.halt = .running →
      ∃ t k', exec (.retentionEntry cl) s = .next t ∧ tget t.blocks b = some k' ∧ k'.h.halt = .halting
        ∧ k'.h.why = some .retention ∧ (clusterOf t cl).retained = false)
    ∧ ((∀ x ∈ blocksIn s cl, haltable x.2 = false ∧ (x.2.h.held = true ∨ atRest s x.1 x.2 = true)) →
      ∃ t, exec (.retentionEntry cl) s = .next t ∧ (clusterOf t cl).retained = true
        ∧ (∀ c, c / 96 = cl → (coreOf t c).stopped = true)
        ∧ ∀ x ∈ blocksIn s cl, ∃ k, tget t.blocks x.1 = some k ∧ k.h.held = true)

/-- R122, R420, R440, R442: RETENTION_EXIT: the cores of the cluster run again, unless a relock of their die stops them still, with
STIME loaded from SREFT and PM_TOFS; with a parity
error the cluster is offline and the error is logged. -/
def Claims.RetentionEnds : Prop :=
  ∀ (s : State) (cl : Nat), cl < 8 → (clusterOf s cl).retained = true →
    (∃ t, exec (.retentionExit cl true) s = .next t ∧ (clusterOf t cl).retained = false ∧ (clusterOf t cl).offline = false
      ∧ ∀ c, c / 96 = cl → ((coreOf t c).stopped = true ↔ ∃ till r, (dieOf s (c / 192)).opStep = .relock till r)
        ∧ (stime t (coreOf t c) : Int) = 64 * ((sref s : Int) + (coreOf s c).tofs.toInt) % 2 ^ 64)
    ∧ ∃ t, exec (.retentionExit cl false) s = .next t ∧ (clusterOf t cl).offline = true ∧ (clusterOf t cl).retained = true
      ∧ Logs s t 4 9 (location s (96 * cl)) 0 0 ∧ t.blocks = s.blocks

/-! ### Operating points, islands and droop -/

/-- R438 to R440: OPERATING_POINT_REQUEST: a denied step changes no clock and no rail, leaves its reason and is logged; an accepted
one begins with the rail when the frequency does not fall, else with a relock. -/
def Claims.OperatingPoints : Prop :=
  ∀ (s : State) (d : Nat) (v : BitVec 32), s.front.r.ready = true → d < 4 →
    let f := v.toNat / 2 ^ 16 % 2 ^ 12
    let mv := v.toNat % 2 ^ 12
    let k := dieOf s d
    ∃ t, exec (.operatingPointRequest d v) s = .next t ∧ (dieOf t d).freq = k.freq ∧ (dieOf t d).volt = k.volt
      ∧ (dieOf t d).reqFreq.toNat = f ∧ (dieOf t d).reqVolt.toNat = mv
      ∧ (denialOf k f mv ≠ 0 → (dieOf t d).denied = true ∧ (dieOf t d).reason.toNat = denialOf k f mv
          ∧ (dieOf t d).opStep = k.opStep ∧ Logs s t 10 10 (location s (192 * d)) 0 (1 + 65536 * f))
      ∧ (denialOf k f mv = 0 →
          let up := sref s + 40 * (max k.volt.toNat mv - min k.volt.toNat mv)
          (dieOf t d).newFreq.toNat = f ∧ (dieOf t d).newVolt.toNat = mv
          ∧ (dieOf t d).opStep = if k.freq.toNat < f then .ramp up true else if f < k.freq.toNat then .relockDue
              else .ramp up false)

/-- R122, R440, R444: RELOCK_START stops the clocks of a die's cores for 1,500 ns; RELOCK_END gives the new frequency, loads STIME
from SREFT and PM_TOFS and counts the stall; RAIL_RAMP_END gives the new voltage. None of them comes early. -/
def Claims.Relocks : Prop :=
  ∀ (s : State) (d : Nat),
    let k := dieOf s d
    let mine := fun (c : Nat) => c / 192 = d ∧ (clusterOf s (c / 96)).retained = false
    (k.opStep = .relockDue → ∃ t, exec (.relockStart d) s = .next t
      ∧ (dieOf t d).opStep = .relock (sref s + 1500) (decide (k.newFreq.toNat < k.freq.toNat))
      ∧ ∀ c, mine c → (coreOf t c).stopped = true)
    ∧ (∀ till r, k.opStep = .relock till r →
      (sref s < till → exec (.relockEnd d) s = .next s)
      ∧ (till ≤ sref s → ∃ t, exec (.relockEnd d) s = .next t ∧ (dieOf t d).freq = k.newFreq
        ∧ (dieOf t d).opStep = (if r then .ramp (sref s + 40 * (max k.volt.toNat k.newVolt.toNat
            - min k.volt.toNat k.newVolt.toNat)) false else .idle)
        ∧ ∀ c, mine c → (coreOf t c).stopped = false ∧ (coreOf t c).ctr.ccstall = (coreOf s c).ctr.ccstall + 1950
          ∧ (stime t (coreOf t c) : Int) = 64 * ((sref s : Int) + (coreOf s c).tofs.toInt) % 2 ^ 64))
    ∧ ∀ till r, k.opStep = .ramp till r →
      (sref s < till → exec (.railRampEnd d) s = .next s)
      ∧ (till ≤ sref s → ∃ t, exec (.railRampEnd d) s = .next t ∧ (dieOf t d).volt = k.newVolt ∧ (dieOf t d).freq = k.freq
        ∧ (dieOf t d).opStep = if r then .relockDue else .idle)

/-- R435, R437: ISLAND_CONTROL_WRITE sets EN and DET of a die; with EN = 0 its islands in near-threshold mode begin to leave it. -/
def Claims.IslandControl : Prop :=
  ∀ (s : State) (d : Nat) (v : BitVec 32), s.front.r.ready = true → d < 4 → Rises s.cores →
    ∃ t, exec (.islandControlWrite d v) s = .next t ∧ (dieOf t d).islEn = v.getLsbD 0 ∧ (dieOf t d).islDet = v.getLsbD 1
      ∧ ∀ c k j, tget s.cores c = some k → c / 192 = d → j < 4 →
        (v.getLsbD 0 = true → (teamAt t c j).island = (teamAt s c j).island)
        ∧ (v.getLsbD 0 = false → (teamAt s c j).island = .nt →
            (teamAt t c j).island = .exiting (sref s + 10 * ((dieOf s d).volt.toNat - 450)) 450)
        ∧ (v.getLsbD 0 = false → (teamAt s c j).island = .full → (teamAt t c j).island = .full)

/-- R436, R437, R445: SAMPLE_BOUNDARY, once in each 10,000 ns: each team's stall ratios are those of the sample that ends, and an
island enters near-threshold mode where that is wanted, enabled and no step runs. -/
def Claims.SampleBoundaries : Prop :=
  ∀ s : State, Rises s.cores →
    (sref s / 10000 ≤ s.sampled → exec .sampleBoundary s = .next s)
    ∧ (s.sampled < sref s / 10000 → ∃ t, exec .sampleBoundary s = .next t ∧ t.sampled = sref s / 10000
      ∧ ∀ c k j, tget s.cores c = some k → j < 4 →
        let x := teamAt s c j
        let n := x.ctr.sample.getD 0 0
        (teamAt t c j).ctr.sample = [0, 0, 0, 0, 0]
        ∧ (∀ i < 4, (teamAt t c j).ctr.stallr.getD i 0 = if n = 0 then 0 else 255 * x.ctr.sample.getD (i + 1) 0 / n)
        ∧ ((dieOf s (c / 192)).opStep ≠ .idle ∨ (x.island = .full ∧ (dieOf s (c / 192)).islEn = false) →
            (teamAt t c j).island = x.island)
        ∧ ((dieOf s (c / 192)).opStep = .idle → x.island = .full → (dieOf s (c / 192)).islEn = true →
            entryWanted s c j (dieOf s (c / 192)).islDet (sampleShares x) = true → Hint.compute ∉ teamHints s c j →
            (teamAt t c j).island
              = .entering (sref s + 10 * ((dieOf s (c / 192)).volt.toNat - 450)) (dieOf s (c / 192)).volt.toNat))

/-- R117, R436, R437: NT_ENTRY_RAMP_END and NT_EXIT_RAMP_END: the island is in near-threshold mode, or out of it at full rate, no
sooner than its ramp ends. -/
def Claims.IslandRamps : Prop :=
  ∀ (s : State) (c j till mv : Nat), j < 4 →
    ((teamAt s c j).island = .entering till mv →
      (sref s < till → exec (.ntEntryRampEnd c j) s = .next s)
      ∧ (till ≤ sref s → ∃ t, exec (.ntEntryRampEnd c j) s = .next t ∧ (teamAt t c j).island = .nt))
    ∧ ((teamAt s c j).island = .exiting till mv →
      (sref s < till → exec (.ntExitRampEnd c j) s = .next s)
      ∧ (till ≤ sref s → ∃ t, exec (.ntExitRampEnd c j) s = .next t ∧ (teamAt t c j).island = .full
        ∧ stepsNow (teamAt t c j) = true))

/-- R443: DROOP_WARN enters the signature of every team of a cluster in its table of 32; DROOP_LIMIT injects a pulse, 12 in each
1,000 ns, and beyond them stretches cycles and is logged; STRETCH_END ends that once the window has passed or the sensor may have been
above its limit for 100 ns, which the model counts from the last crossing (log 116). -/
def Claims.Droops : Prop :=
  (∀ (s : State) (cl c : Nat) (k : Core) (j : Nat), Rises s.cores → tget s.cores c = some k → c / 96 = cl → cl < 8 → j < 4 →
    ∃ t, exec (.droopWarn cl) s = .next t
      ∧ ((Config.signature (teamAt s c j).hist).toNat, sref s) ∈ (teamAt t c j).sigs
      ∧ ((teamAt s c j).sigs.length ≤ 32 → (teamAt t c j).sigs.length ≤ 32))
  ∧ ∀ (s : State) (cl : Nat), cl < 8 →
    let k := clusterOf s cl
    let duty := if k.window = sref s / 1000 then k.duty else 0
    (duty < 12 → ∃ t, exec (.droopLimit cl) s = .next t ∧ (clusterOf t cl).inj = k.inj + 1
      ∧ (clusterOf t cl).duty = duty + 1 ∧ (clusterOf t cl).window = sref s / 1000 ∧ (clusterOf t cl).limited = k.limited)
    ∧ (12 ≤ duty → ∃ t, exec (.droopLimit cl) s = .next t ∧ (clusterOf t cl).limited = true ∧ (clusterOf t cl).inj = k.inj
      ∧ (clusterOf t cl).crossed = sref s
      ∧ Logs s t 10 10 (location s (192 * (cl / 2))) 0 2)
    ∧ (k.limited = true ∧ (k.window < sref s / 1000 ∨ k.crossed + 100 ≤ sref s) →
        ∃ t, exec (.stretchEnd cl) s = .next t ∧ (clusterOf t cl).limited = false)
    ∧ (¬(k.limited = true ∧ (k.window < sref s / 1000 ∨ k.crossed + 100 ≤ sref s)) → exec (.stretchEnd cl) s = .next s)

/-! ### Cycles, rounds and views -/

/-- R114, R116, R119, R120: CORE_CYCLE of a core whose clock runs: SCYC advances by one, STIME by the multiple of T0 of the slowest
class in flight, off by at most 0.1 %; no other core changes. A stopped clock does nothing. -/
def Claims.CoreCycles : Prop :=
  ∀ (s : State) (core : Nat), core < 768 → Rises s.blocks →
    let k := coreOf s core
    ((coreOf s core).stopped = true → exec (.coreCycle core) s = .next s)
    ∧ (k.stopped = false → ∃ t, exec (.coreCycle core) s = .next t ∧ (coreOf t core).begun = true ∧ t.time = s.time
      ∧ (coreOf t core).scyc = (if k.begun then (k.scyc + 1) % 2 ^ 64 else k.scyc) ∧ (∀ c, c ≠ core → coreOf t c = coreOf s c)
      ∧ (k.begun = true → k.loaded = true → k.fresh = false →
          let f := (dieOf s (core / 192)).freq.toNat
          let e := paceEighths (cyclePace k (clusterOf s (core / 96)).limited)
          f ≠ 0 → ∃ n, (coreOf t core).frac = (k.frac + n) % 2 ^ 80
            ∧ n * (8 * f) * 1000 ≤ 64 * 2 ^ 16 * 1000 * e * 1001 ∧ 64 * 2 ^ 16 * 1000 * e * 999 < (n + 1) * (8 * f) * 1000))

/-- R117, R134: CORE_CYCLE brings every result of a group one step nearer, if its team takes a step in the cycle. -/
def Claims.ResultsComeNearer : Prop :=
  ∀ (s : State) (core b gi : Nat) (k : Block) (g : Group), core < 768 → (coreOf s core).stopped = false →
    tget s.blocks b = some k → k.core = core → k.placed = true → tget k.groups gi = some g → teamOf k gi < 4 → Rises g.busy →
    let n := if stepsNow (teamAt s core (teamOf k gi)) then 1 else 0
    ∃ t k' g', exec (.coreCycle core) s = .next t ∧ tget t.blocks b = some k' ∧ tget k'.groups gi = some g'
      ∧ (∀ r, tcount g'.busy r = tcount g.busy r - n) ∧ g'.longs.map LongX.left = g.longs.map (fun x => x.left - n)

/-- R126: the pick among candidates: one is picked if there is one; one that has waited 64 opportunities comes first; while none
has waited 16, the class of the last pick is kept where it can be, and within a class the lowest charge is picked while the
draw record is over its threshold, else the longest wait. -/
def Claims.IssueOrder : Prop :=
  ∀ (prev : Pace) (hot : Bool) (cs : List Cand), (cs ≠ [] → ∃ c, pickFirst prev hot cs = some c)
    ∧ ∀ c, pickFirst prev hot cs = some c → c ∈ cs
      ∧ ((∃ d ∈ cs, 64 ≤ d.waited) → 64 ≤ c.waited)
      ∧ ((∀ d ∈ cs, d.waited < 16) →
          ((∃ d ∈ cs, d.info.pace = prev) → c.info.pace = prev)
          ∧ (hot = true → ∀ d ∈ cs, d.info.pace = c.info.pace → c.charge ≤ d.charge)
          ∧ (hot = false → ∀ d ∈ cs, d.info.pace = c.info.pace → d.waited ≤ c.waited))

/-- R127, R129: a team issues two gangs at most, of one class and without a common slice; in deterministic mode the lowest group and
slice comes first. -/
def Claims.DualIssue : Prop :=
  (∀ (s : State) (prev : Pace) (hot : Bool) (cs : List Cand), (pickFree s prev hot cs).length ≤ 2
    ∧ ∀ a b, pickFree s prev hot cs = [a, b] → a.info.pace = b.info.pace ∧ ∀ k ∈ a.sl, k ∉ b.sl)
  ∧ ∀ (s : State) (cs : List Cand), (pickRunning s cs).length ≤ 2
    ∧ (∀ a b, pickRunning s cs = [a, b] → a.info.pace = b.info.pace ∧ ∀ k ∈ a.sl, k ∉ b.sl)
    ∧ ∀ a rest, pickRunning s cs = a :: rest → ∀ d ∈ cs, a.g < d.g ∨ (a.g = d.g ∧ a.sl.headD 0 ≤ d.sl.headD 0)

/-- R118, R325, R431, R436, R464: FABRIC_CYCLE: reference time advances by 10/13 ns, the draw record drops its oldest cycle, the time
of every placed block that holds its teams counts, a window of stretched cycles that has passed ends, and a sample boundary that has
come is due. -/
def Claims.FabricCycles : Prop :=
  ∀ s : State, ∃ t, exec .fabricCycle s = .next t ∧ t.time = s.time + 10 ∧ t.fabric = s.fabric + 1 ∧ t.mem = s.mem
    ∧ (∀ j < 8, drawLevel (clusterOf t j) = min ((clusterOf s j).draws.take 15).sum (2 ^ 24 - 1))
    ∧ (∀ b k, tget s.blocks b = some k → ∃ k', tget t.blocks b = some k' ∧ k'.groups = k.groups
        ∧ k'.h.placedFor = k.h.placedFor + (if k.placed ∧ k.complete = false ∧ k.h.halt ≠ .preempted ∧ k.h.halt ≠ .swapped ∧ k.h.held = false
            then 10 else 0))
    ∧ (∀ j < 8, (clusterOf s j).limited = true → (clusterOf s j).window < (s.time + 10) / 13 / 1000 → .stretchEnd j ∈ t.agenda)
    ∧ (s.sampled < (s.time + 10) / 13 / 10000 → .sampleBoundary ∈ t.agenda)

/-- R156, R346: WEIGHT_REFRESH_WINDOW_END: nothing happens within a window, which lasts 1,500 ns of each 64,000; after it, the
reads of the bank group that it stalled are due. -/
def Claims.WeightRefresh : Prop :=
  ∀ (s : State) (d g : Nat),
    let start := (dieOf s d).swref.toNat + 1000 * g
    let within := start ≤ sref s ∧ (sref s - start) % 64000 < 1500
    (within → exec (.weightRefreshWindowEnd d g) s = .next s)
    ∧ (¬within → ∃ es, exec (.weightRefreshWindowEnd d g) s = .next { s with agenda := s.agenda ++ es }
        ∧ ∀ a ∈ s.accesses, isWeight a = true → a.die = d → (a.addr - weightBase d) / 128 % 64 = g → .accessPerforms a.id ∈ es)

/-- R374: SYNC_ROUND_END: the requests of rounds that have ended, each at a multiple of 256 ns of SREFT, are served in the order of
round, block, logical lane and name, as far as each may perform, and leave; those of a round that has not ended stay. -/
def Claims.SyncRounds : Prop :=
  ∀ (s : State) (d : Nat), d < 4 →
    (∃ t, exec (.syncRoundEnd d) s = .next t ∧ (∀ i ∈ (dieOf t d).round, i ∈ (dieOf s d).round)
      ∧ (∀ i ∈ (dieOf s d).round, (∀ a ∈ s.accesses, a.id = i → sref s / 256 ≤ a.arrive / 256) → i ∈ (dieOf t d).round)
      ∧ (∀ a rest, roundQueue s d = a :: rest → mayPerform s a = true → roundServed a = true →
        a.id ∉ (dieOf t d).round ∧ ∀ y ∈ t.accesses, y.id ≠ a.id)
      ∧ ((∀ a ∈ roundQueue s d, roundServed a = true) → (s.accesses.map Access.id).Nodup →
        ∃ l1 l2, roundQueue s d = l1 ++ l2 ∧ (∀ a ∈ l1, a.id ∉ (dieOf t d).round ∧ ∀ y ∈ t.accesses, y.id ≠ a.id)
          ∧ (∀ a ∈ l2, a.id ∈ (dieOf t d).round) ∧ ∀ a, l2.head? = some a → mayPerform t a = false))
    ∧ ((∀ a rest, roundQueue s d = a :: rest → mayPerform s a = false) → exec (.syncRoundEnd d) s = .next s)
    ∧ (roundQueue s d).Perm (s.accesses.filter fun a => decide (a.id ∈ (dieOf s d).round ∧ a.arrive / 256 < sref s / 256))
    ∧ (roundQueue s d).Pairwise fun a b => keyLt (roundKey s b) (roundKey s a) = false

/-- R362, R364, R365: CAUSAL_WRITE_APPLY: a write that may be applied changes the view of its die to its bytes, and no home and no
other view. -/
def Claims.WritesReachViews : Prop :=
  ∀ (s : State) (d x : Nat) (l1 l2 : List CWrite) (w : CWrite), d < 4 → mayApply s.mem d x = true →
    s.mem.log = l1 ++ w :: l2 → w.id = x → d ∉ w.applied → (∀ v ∈ l1, v.id = x → d ∈ v.applied) →
    ∃ t, exec (.causalWriteApply d x) s = .next t ∧ (∀ p, homeCell t.mem p = homeCell s.mem p)
      ∧ (∀ j p, j < 4 → j ≠ d → viewCell t.mem j p = viewCell s.mem j p)
      ∧ (∀ (v : Viewer) p, v.die < 4 → v.die ≠ d → nearCell t.mem v p = nearCell s.mem v p)
      ∧ ((∀ v ∈ l2, d ∉ v.applied) → ∀ p, viewCell t.mem d p = cellAt w.cells p (viewCell s.mem d p))

/-- R253, R254: PAGE_REFILL of a page that something waits for, with a frame free: it is resident and clean, with the bytes of
the backing region if it was ever written. -/
def Claims.PageRefills : Prop :=
  ∀ (s : State) (b p : Nat) (k : Block), tget s.blocks b = some k → pageWanted s b p k = true → k.placed = true →
    4096 * p < progSize k + ringSize k → framesUsed s k.core < 128 →
    let x := (tget k.pages p).getD {}
    x.resident = false →
    let filled := fun (t : State) (q : Nat → Byte) => ∃ k' y, tget t.blocks b = some k' ∧ tget k'.pages p = some y
      ∧ y.resident = true ∧ y.dirty = false ∧ y.written = x.written ∧ y.pinned = x.pinned
      ∧ ∀ a, rdCell k'.scr a = if 4096 * p ≤ a ∧ a < 4096 * p + 4096 then q (a - 4096 * p) else rdCell k.scr a
    (x.written = false → ∃ t, exec (.pageRefill b p) s = .next t ∧ filled t fun j => rdCell k.scr (4096 * p + j))
    ∧ ∀ bs, x.written = true → vaRead s (recOf s k).pasid (backingVa (recOf s k) k.sblock + 4096 * p) 4096 = some bs →
      ∃ t, exec (.pageRefill b p) s = .next t ∧ filled t fun j => bs.getD j 0

/-- R61, R400: UNDEFINED_ENCODING: the party that issues words which encode no instruction raises ILL, with the words. -/
def Claims.UndefinedEncodings : Prop :=
  ∀ (s : State) (ws : List (BitVec 32)) (c : Ctx), ctxOf s (.nop none) = some c → c.b.ended = false → gangFree c = true →
    (c.sq = none → c.g.cause = none → ∃ t g r, exec (.undefinedEncoding ws) s = .next t ∧ groupAfter t c = some g
      ∧ g.cause = some r ∧ r.code = 0x01 ∧ r.words = ws ∧ r.pc = c.pc ∧ g.lines = c.g.lines ∧ g.slices = c.g.slices)
    ∧ (c.sq ≠ none → ∃ t q r, exec (.undefinedEncoding ws) s = .next t ∧ seqAfter t c = some q ∧ q.cause = some r
      ∧ r.code = 0x01 ∧ r.words = ws ∧ ∀ i : Nat, q.regs[i]? = (c.sq.map fun q => q.regs).bind fun v => v[i]?)

/-- R414: FETCH_FAULT_SWAPOUT of a block that stopped for a fetch: it leaves its core, to the head of its launch's queue; an
absent page is requested; a page that is present and cannot be fetched from ends the launch. It leaves once its matrix
instructions have completed (R286). -/
def Claims.FetchSwapOuts : Prop :=
  ∀ (s : State) (b : Nat) (k : Block) (r : CauseRec), tget s.blocks b = some k → haltCause k = some r → r.code = 0x0D →
    k.h.halt = .stopped → k.placed = true → k.h.held = false →
    let p := (recOf s k).pasid
    let left := fun (t : State) => ∃ k', tget t.blocks b = some k' ∧ k'.h.halt = .swapped
      ∧ k'.placed = stepMode s k ∧ k'.teams = (if stepMode s k then k.teams else [])
      ∧ ∀ y, tget t.launches k.launch = some y → y.swapped.head? = some b
    (∀ l, translate s p r.addr = .ok l → fetchable l = true →
      (atRest s b k = true → ∃ t, exec (.fetchFaultSwapout b) s = .next t ∧ left t)
      ∧ (atRest s b k = false → exec (.fetchFaultSwapout b) s = .next s))
    ∧ (∀ l x, translate s p r.addr = .ok l → fetchable l = false → tget s.launches k.launch = some x → x.ending = none →
        Rises s.blocks → ∃ t, exec (.fetchFaultSwapout b) s = .next t ∧ LaunchEnded s t k.launch 0x020D)
    ∧ ∀ e, translate s p r.addr = .absent e → (atRest s b k = false → exec (.fetchFaultSwapout b) s = .next s) ∧
      (atRest s b k = true → ∃ t q, exec (.fetchFaultSwapout b) s = .next t ∧ left t
        ∧ q ∈ t.front.reqs ∧ q.who = .fetch b ∧ q.va = r.addr ∧ q.pasid = p)

/-- R172, R416: BLOCK_RESUME of a pre-empted block outside step mode: it goes on, on as many free teams of its core; with fewer
free, or in a cluster in retention, it waits. -/
def Claims.BlocksResume : Prop :=
  ∀ (s : State) (b : Nat) (k : Block), tget s.blocks b = some k → k.h.halt = .preempted → k.h.held = false → k.h.tslPend = false →
    (∀ x, tget s.launches k.launch = some x → x.r.step = false) →
    let free := freeTeams s k.core
    let retained := (clusterOf s (k.core / 96)).retained
    (k.teams.length ≤ free.length → retained = false → ∃ t k', exec (.blockResume b) s = .next t ∧ tget t.blocks b = some k'
      ∧ k'.h.halt = .running ∧ k'.core = k.core ∧ k'.teams.length = k.teams.length ∧ ∀ j ∈ k'.teams, j ∈ free)
    ∧ (free.length < k.teams.length ∨ retained = true → exec (.blockResume b) s = .next s)

/-! ### Steps, encodings and frames -/

/-- R40, R41, R60, R124: a party was picked whose block is there and may issue. If the bytes at its program counter, in a line of
the instruction cache that is not poisoned, decode to a well-formed instruction, the step is `exec` of it with that party in
focus. The picked party leaves the queue of issues; nothing else is added: the address moves within `exec`. -/
def Claims.StepRunsDecoded : Prop :=
  ∀ (s : State) (p : Issuer) (rest : List Issuer) (k : Block) (pc : DWord) (x : ILine) (i : Instr) (bs : List Byte),
    s.issueQ = p :: rest → tget s.blocks (issuerBlock p) = some k →
    (parties (issuerBlock p) k).find? (fun y => y.1 == p) = some (p, pc) →
    icLine (coreOf s k.core) (recOf s k).pasid pc.toNat = some x → x.poison = false → x.bytes.length = 128 →
    decodeBytes (x.bytes.drop (pc.toNat % 128)) = .ok (i, bs) →
    i.wellFormed = true ∧ step s = exec i { s with focus := some p, issueQ := rest }

/-- R61, R124, R419: what else a step does with a picked party: one that may no longer issue is passed over; in a poisoned line the
party records ECC with engine 5 and the PC as its address, under the sequence number of a log entry of type 2 and unit 4, and runs
nothing; words that encode nothing run UNDEFINED_ENCODING. -/
def Claims.StepHandlesTheRest : Prop :=
  ∀ (s : State) (p : Issuer) (rest : List Issuer), s.issueQ = p :: rest →
    let s1 : State := { s with focus := some p, issueQ := rest }
    (∀ i, fetchFor s1 p = .instr i → step s = exec i s1)
    ∧ (fetchFor s1 p = .stale → step s = .next s1)
    ∧ (∀ ws, fetchFor s1 p = .undefined ws → step s = exec (.undefinedEncoding ws) s1)
    ∧ (fetchFor s1 p = .poison → ∃ t, step s = .next t
      ∧ ∀ c pc, ctxOf s1 (.nop none) = some c → gangFree c = true → c.b.ended = false → (c.sq = none → c.party < 32) →
        (parties c.bid c.b).find? (fun y => y.1 == p) = some (p, pc) →
        let recorded := fun (r : CauseRec) => r.code = codeOf .ecc ∧ r.engine = 5 ∧ r.addr = pc.toNat ∧ r.pc = pc
          ∧ r.errSeq = t.front.l.errSeq.toNat
        Logs s t 2 4 (location s c.b.core) pc.toNat (Config.pick s.tick % 2 ^ 32)
        ∧ (c.sq = none → c.g.cause = none → ∃ g r, groupAfter t c = some g ∧ g.cause = some r ∧ recorded r
            ∧ g.lines = c.g.lines ∧ g.slices = c.g.slices)
        ∧ (c.sq ≠ none → ∃ q r, seqAfter t c = some q ∧ q.cause = some r ∧ recorded r
            ∧ ∀ i : Nat, q.regs[i]? = (c.sq.map fun q => q.regs).bind fun v => v[i]?))
    ∧ (tget s.blocks (issuerBlock p) = none → step s = .next s1)

/-- spec/95, R14, R417: with nothing picked, the first event that is due runs; with none due, one of those that could happen, before
which a soft error may strike. An event runs as its row of the opcode table does. -/
def Claims.StepRunsEvents : Prop :=
  (∀ (s : State) (e : Event) (rest : List Event), s.issueQ = [] → s.agenda = e :: rest →
    step s = runEvent e { s with agenda := rest })
  ∧ ∀ s : State, s.issueQ = [] → s.agenda = [] →
      ∃ e ∈ couldHappen (struck s), step s = runEvent e { struck s with tick := (struck s).tick + 1 }

/-- R230, R417 to R419: a soft error in data that a store holds: a corrected one changes no data and no poison and is logged as type
CE; an uncorrectable one poisons its data and logs nothing yet. When and where one strikes is the model's free choice (log 101). -/
def Claims.SoftErrors : Prop :=
  ∀ (s : State) (e : Config.SoftError) (u loc addr : Nat), siteOf s e.site = some (u, loc, addr) →
    (e.corrected = true → Logs s (strike s e) 1 u loc addr (e.position % 2 ^ 32) ∧ (strike s e).blocks = s.blocks
      ∧ (strike s e).cores = s.cores ∧ (strike s e).mem.poison = s.mem.poison)
    ∧ (e.corrected = false → (strike s e).front = s.front ∧ (strike s e).mem.base = s.mem.base ∧ (strike s e).mem.log = s.mem.log
      ∧ (∀ v n, e.site = .memory v n → poisoned (strike s e).mem.poison (32 * n) 32 = true)
      ∧ (∀ b n k, e.site = .scratchpad b n → tget s.blocks b = some k → ∃ k', tget (strike s e).blocks b = some k'
          ∧ poisoned k'.scrPoison (32 * n) 32 = true ∧ k'.scr = k.scr)
      ∧ ∀ b g r k x, e.site = .register b g r → tget s.blocks b = some k → tget k.groups g = some x →
          ∃ k' x', tget (strike s e).blocks b = some k' ∧ tget k'.groups g = some x' ∧ poisonedReg x' r = true
            ∧ ∀ q l, rdReg x' q l = rdReg x q l)

/-- spec/95: each event of the list of events that are due is the row of its name. -/
def Claims.EventsAreRows : Prop :=
  ∀ s : State,
    (∀ b g x, runEvent (.fastCompletion b g x) s = exec (.fastCompletion b g x) s)
    ∧ (∀ cl, runEvent (.weuAdmission cl) s = exec (.weuAdmission cl) s)
    ∧ (∀ cl r, runEvent (.weuDecision cl r) s = exec (.weuDecision cl r) s)
    ∧ (∀ cl e, runEvent (.exactPassStart cl e) s = exec (.exactPassStart cl e) s)
    ∧ (∀ cl e, runEvent (.exactPassEnd cl e) s = exec (.exactPassEnd cl e) s)
    ∧ (∀ b r, runEvent (.settlement b r) s = exec (.settlement b r) s)
    ∧ (∀ b va, runEvent (.icacheFill b va) s = exec (.icacheFill b va) s)
    ∧ (∀ b g r, runEvent (.lineFill b g r) s = exec (.lineFill b g r) s)
    ∧ (∀ b p, runEvent (.pageRefill b p) s = exec (.pageRefill b p) s)
    ∧ (∀ cl, runEvent (.tileLockGrant cl) s = exec (.tileLockGrant cl) s)
    ∧ (∀ c, runEvent (.transferStart c) s = exec (.transferStart c) s)
    ∧ (∀ c x, runEvent (.transferComplete c x) s = exec (.transferComplete c x) s)
    ∧ (∀ e, runEvent (.engineTranslationFault e) s = exec (.engineTranslationFault e) s)
    ∧ (∀ e, runEvent (.enginePermissionFault e) s = exec (.enginePermissionFault e) s)
    ∧ (∀ b m, runEvent (.drainHandover b m) s = exec (.drainHandover b m) s)
    ∧ (∀ c, runEvent (.spillContributionAdd c) s = exec (.spillContributionAdd c) s)
    ∧ (∀ b q, runEvent (.queueWaiterResume b q) s = exec (.queueWaiterResume b q) s)
    ∧ (∀ b n, runEvent (.namedBarrierRelease b n) s = exec (.namedBarrierRelease b n) s)
    ∧ (∀ b n, runEvent (.matrixBarrierRelease b n) s = exec (.matrixBarrierRelease b n) s)
    ∧ (∀ c t, runEvent (.xacqGrant c t) s = exec (.xacqGrant c t) s)
    ∧ (∀ b w, runEvent (.sleepWake b w) s = exec (.sleepWake b w) s)
    ∧ (∀ b g, runEvent (.fwaitRelease b g) s = exec (.fwaitRelease b g) s)
    ∧ (∀ l, runEvent (.sbarRelease l) s = exec (.sbarRelease l) s)
    ∧ (∀ d k, runEvent (.weightRefreshWindowEnd d k) s = exec (.weightRefreshWindowEnd d k) s)
    ∧ (∀ d, runEvent (.syncRoundEnd d) s = exec (.syncRoundEnd d) s)
    ∧ (∀ b, runEvent (.blockHalt b) s = exec (.blockHalt b) s)
    ∧ (∀ b, runEvent (.blockStopped b) s = exec (.blockStopped b) s)
    ∧ (∀ l, runEvent (.timeSliceExpiry l) s = exec (.timeSliceExpiry l) s)
    ∧ (∀ b needSlot, runEvent (.preempt b needSlot) s = exec (.preempt b needSlot) s)
    ∧ (∀ b, runEvent (.fetchFaultSwapout b) s = exec (.fetchFaultSwapout b) s)
    ∧ (∀ b, runEvent (.blockResume b) s = exec (.blockResume b) s)
    ∧ runEvent .blockPlacement s = exec .blockPlacement s
    ∧ (∀ l, runEvent (.hangDetection l) s = exec (.hangDetection l) s)
    ∧ (∀ l, runEvent (.gatherTimer l) s = exec (.gatherTimer l) s)
    ∧ (∀ cl, runEvent (.retentionEntry cl) s = exec (.retentionEntry cl) s)
    ∧ (∀ cl parityOk, runEvent (.retentionExit cl parityOk) s = exec (.retentionExit cl parityOk) s)
    ∧ (∀ acc, runEvent (.hostBar2Access acc) s = exec (.hostBar2Access acc) s)
    ∧ (∀ d line, runEvent (.atomicCollision d line) s = exec (.atomicCollision d line) s)
    ∧ (∀ slot v, runEvent (.doorbellWrite slot v) s = exec (.doorbellWrite slot v) s)
    ∧ runEvent .reconcilePass s = exec .reconcilePass s
    ∧ (∀ q, runEvent (.launch q) s = exec (.launch q) s)
    ∧ (∀ q, runEvent (.record q) s = exec (.record q) s)
    ∧ (∀ q, runEvent (.signal q) s = exec (.signal q) s)
    ∧ (∀ q, runEvent (.signalWrite q) s = exec (.signalWrite q) s)
    ∧ (∀ q, runEvent (.wait q) s = exec (.wait q) s)
    ∧ (∀ q, runEvent (.waitSatisfied q) s = exec (.waitSatisfied q) s)
    ∧ (∀ q, runEvent (.weights q) s = exec (.weights q) s)
    ∧ (∀ q, runEvent (.slotload q) s = exec (.slotload q) s)
    ∧ (∀ q, runEvent (.flush q) s = exec (.flush q) s)
    ∧ (∀ q, runEvent (.flushClose q) s = exec (.flushClose q) s)
    ∧ (∀ q, runEvent (.replicaRelease q) s = exec (.replicaRelease q) s)
    ∧ (∀ q, runEvent (.replicaEnd q) s = exec (.replicaEnd q) s)
    ∧ (∀ v, runEvent (.queueCreate v) s = exec (.queueCreate v) s)
    ∧ (∀ v, runEvent (.queueDestroy v) s = exec (.queueDestroy v) s)
    ∧ (∀ v, runEvent (.invalidateRange v) s = exec (.invalidateRange v) s)
    ∧ (∀ v, runEvent (.invalidateAll v) s = exec (.invalidateAll v) s)
    ∧ runEvent .invalidationComplete s = exec .invalidationComplete s
    ∧ (∀ tag, runEvent (.pagePresentResponse tag) s = exec (.pagePresentResponse tag) s)
    ∧ (∀ tag, runEvent (.pageNotPresentResponse tag) s = exec (.pageNotPresentResponse tag) s)
    ∧ runEvent .fwVerify s = exec .fwVerify s
    ∧ runEvent .fwCommit s = exec .fwCommit s
    ∧ (∀ v, runEvent (.attestationRequest v) s = exec (.attestationRequest v) s)
    ∧ runEvent .attestationReport s = exec .attestationReport s
    ∧ (∀ v, runEvent (.dbgHalt v) s = exec (.dbgHalt v) s)
    ∧ runEvent .debuggerHalted s = exec .debuggerHalted s
    ∧ (∀ v, runEvent (.dbgRelease v) s = exec (.dbgRelease v) s)
    ∧ (∀ v, runEvent (.dbgStep v) s = exec (.dbgStep v) s)
    ∧ (∀ d v, runEvent (.operatingPointRequest d v) s = exec (.operatingPointRequest d v) s)
    ∧ (∀ d, runEvent (.relockStart d) s = exec (.relockStart d) s)
    ∧ (∀ d, runEvent (.relockEnd d) s = exec (.relockEnd d) s)
    ∧ (∀ d, runEvent (.railRampEnd d) s = exec (.railRampEnd d) s)
    ∧ (∀ d, runEvent (.deniedClear d) s = exec (.deniedClear d) s)
    ∧ (∀ d v, runEvent (.islandControlWrite d v) s = exec (.islandControlWrite d v) s)
    ∧ runEvent .sampleBoundary s = exec .sampleBoundary s
    ∧ (∀ c t, runEvent (.ntEntryRampEnd c t) s = exec (.ntEntryRampEnd c t) s)
    ∧ (∀ c t, runEvent (.ntExitRampEnd c t) s = exec (.ntExitRampEnd c t) s)
    ∧ (∀ cl, runEvent (.droopWarn cl) s = exec (.droopWarn cl) s)
    ∧ (∀ cl, runEvent (.droopLimit cl) s = exec (.droopLimit cl) s)
    ∧ (∀ cl, runEvent (.stretchEnd cl) s = exec (.stretchEnd cl) s)
    ∧ (∀ d, runEvent (.seCollClear d) s = exec (.seCollClear d) s)
    ∧ runEvent .errLogOvfClear s = exec .errLogOvfClear s
    ∧ (∀ off width v, runEvent (.mmioWrite off width v) s = exec (.mmioWrite off width v) s)
    ∧ runEvent .powerGood s = exec .powerGood s
    ∧ (∀ ok, runEvent (.bringupStageComplete ok) s = exec (.bringupStageComplete ok) s)
    ∧ runEvent .pairMismatch s = exec .pairMismatch s
    ∧ (∀ w, runEvent (.workerTimeout w) s = exec (.workerTimeout w) s)
    ∧ (∀ ws, runEvent (.undefinedEncoding ws) s = exec (.undefinedEncoding ws) s)
    ∧ (∀ c, runEvent (.coreCycle c) s = exec (.coreCycle c) s)
    ∧ runEvent .fabricCycle s = exec .fabricCycle s
    ∧ (∀ x, runEvent (.accessPerforms x) s = exec (.accessPerforms x) s)
    ∧ (∀ d x, runEvent (.causalWriteApply d x) s = exec (.causalWriteApply d x) s)
    ∧ (∀ b m, runEvent (.matrixOperandRead b m) s = exec (.matrixOperandRead b m) s)
    ∧ (∀ b m, runEvent (.matrixInstructionComplete b m) s = exec (.matrixInstructionComplete b m) s)
    ∧ (∀ b x, runEvent (.sourceReadDone b x) s = exec (.sourceReadDone b x) s)
    ∧ (∀ l, runEvent (.hostEndsLaunch l) s = exec (.hostEndsLaunch l) s)
    ∧ (∀ tag ok, runEvent (.priResponse tag ok) s = exec (.priResponse tag ok) s)
    ∧ (∀ pasid va ans, runEvent (.atsTranslationCompletion pasid va ans) s = exec (.atsTranslationCompletion pasid va ans) s)
    ∧ (∀ pasid va pages, runEvent (.atsInvalidation pasid va pages) s = exec (.atsInvalidation pasid va pages) s)
    ∧ (∀ v, runEvent (.prqTailWrite v) s = exec (.prqTailWrite v) s)
    ∧ (∀ acc, runEvent (.keasetRemoteAccess acc) s = exec (.keasetRemoteAccess acc) s)
    ∧ runEvent .fwVerifyComplete s = exec .fwVerifyComplete s
    ∧ (∀ ok, runEvent (.fwCommitRestart ok) s = exec (.fwCommitRestart ok) s)
    ∧ runEvent .pairRestartComplete s = exec .pairRestartComplete s
    ∧ runEvent .dbgReleaseComplete s = exec .dbgReleaseComplete s

/-- R41 to R58, R76, R77: words of instructions decode to them, one or more for base `add`, `bra` and `kill`, and for OP 0x01 to 0x0F
of the extended space. They are the manual's where it writes an example's words out; it does so for none of OP 0x04, 0x06 and 0x07, whose
words are put together from its tables of fields. -/
def Claims.WorkedEncodings : Prop :=
  (decodeBits 0x84824E14).toOption = some (.addBase ⟨some ⟨3, true⟩, 4, 9, true⟩)
  ∧ (decodeBits 0xFFFE8670).toOption = some (.bra (some ⟨1, false⟩) (-3))
  ∧ (decodeBits 0x00140094).toOption = some (.kill 40)
  ∧ (decodeBits (wordsNat [0x000A0005, 0x04000000, 0x00484000])).toOption = some (.mfs { noOps with d := 20, imm := 0x012, ty := .i64 })
  ∧ (decodeBits (wordsNat [0x00040009, 0x14014109, 0x003C0000])).toOption
      = some (.shfl { noOps with d := 8, a := ⟨9, true, false, 0⟩, b := plain 10, imm := 15 })
  ∧ (decodeBits (wordsNat [0x0003000D, 0x00400007, 0xFFF40000])).toOption
      = some (.add { noOps with d := 6, a := plain 7, b := ⟨0, false, true, 0⟩, imm := -3 })
  ∧ (decodeBits (wordsNat [0x0002000D, 0x2C00C005, 0x02B00007])).toOption
      = some (.lfn { noOps with d := 4, a := plain 5, b := plain 6, c := plain 7, imm := 0xAC })
  ∧ (decodeBits (wordsNat [0x0002000F, 0x2C00C005, 0x00000007, 0x00006996, 0])).toOption
      = some (.lfnD { noOps with d := 4, a := plain 5, b := plain 6, c := plain 7, lit := some 0x6996 })
  ∧ (decodeBits (wordsNat [0x00020011, 0x0000C005, 0x00000000])).toOption
      = some (.mul { noOps with d := 4, a := plain 5, b := plain 6 })
  ∧ (decodeBits (wordsNat [0x00020019, 0x00010006, 0x0000A000])).toOption
      = some (.faddD { noOps with d := 4, a := plain 6, b := plain 8, ty := .f64 })
  ∧ (decodeBits (wordsNat [0x0002001D, 0x00000009, 0x00008000])).toOption
      = some (.fneg { noOps with d := 4, a := plain 9, ty := .f32 })
  ∧ (decodeBits (wordsNat [0x00000029, 0x0C000000, 0x00000000])).toOption = some (.parkw noOps)
  ∧ (decodeBits (wordsNat [0x48040015, 0x0C814009, 0x0000C10B])).toOption
      = some (.fma { noOps with d := 8, rm := .rz, a := plain 9, b := ⟨10, false, false, 1⟩, c := ⟨11, true, false, 0⟩, ty := .f16 })
  ∧ (decodeBits (wordsNat [0x19850A21, 0x0021800B, 0x00008000])).toOption
      = some (.fdiv { noOps with g := some ⟨2, false⟩, d := 10, rm := .rd, lk := 3, a := plain 11, b := ⟨12, true, false, 0⟩, ty := .f32 })
  ∧ (decodeBits (wordsNat [0x2A0A0025, 0x28000108, 0x0000A000])).toOption
      = some (.fsinD { noOps with d := 20, rm := .rdyn, lk := 4, a := ⟨8, true, false, 0⟩, ty := .f64 })
  ∧ (decodeBits (wordsNat [0x0105002D, 0x00000008, 0x00408000])).toOption
      = some (.lds { noOps with d := 10, lk := 2, a := plain 8, imm := 16, ty := .f32 })
  ∧ (decodeBits (wordsNat [0x00000031, 0x04000014, 0x00140000])).toOption = some (.qpush { noOps with a := plain 20, imm := 5 })
  ∧ (decodeBits (wordsNat [0x00000035, 0x0002C014, 0x00000000])).toOption = some (.fork { noOps with a := plain 20, b := plain 22 })
  ∧ (decodeBits (wordsNat [0x00000035, 0x20000006, 0x00208000])).toOption
      = some (.mdrain { noOps with a := plain 6, imm := 8, ty := .f32 })
  ∧ (decodeBits (wordsNat [0x01050039, 0x00000004, 0x01008C00])).toOption
      = some (.ld { noOps with d := 10, lk := 2, a := plain 4, c := ⟨0, false, false, 3⟩, imm := 64, ty := .f32 })
  ∧ (decodeBits (wordsNat [0x00010039, 0x0C010004, 0x0000000C])).toOption
      = some (.stt { noOps with d := 2, a := plain 4, b := plain 8, c := plain 12 })
  ∧ (decodeBits (wordsNat [0x000F003D, 0x00000000, 0x00081000])).toOption
      = some (.fence { noOps with d := 30, c := ⟨0, false, false, 4⟩, imm := 2 })
  ∧ (decodeBits (wordsNat [0x0006003D, 0x10012004, 0x00402F00])).toOption
      = some (.atomOp { noOps with d := 12, a := plain 4, b := plain 9, c := ⟨0, true, true, 3⟩, imm := 16, ty := .n32 })

/-- R41 to R60: the words of a well-formed instruction decode to it, with every operand at every value. -/
def Claims.EncodedWordsDecode : Prop :=
  ∀ (i : Instr) (w : Nat), i.wellFormed = true → encode i = some w → decodeBits w = .ok i

/-- R40, R41: the same for its bytes: they are as many words as LEN says, and what follows them is left over. -/
def Claims.EncodedBytesDecode : Prop :=
  ∀ (i : Instr) (bs rest : List Byte), i.wellFormed = true → encodeBytes i = some bs →
    bs.length = 4 * lenWords i ∧ decodeBytes (bs ++ rest) = .ok (i, rest)

/-- R42, R60: words that decode are those that the instruction encodes to: no bit of them is left unread, and no two
instructions share words. -/
def Claims.DecodedWordsEncode : Prop :=
  ∀ (w : Nat) (i : Instr), decodeBits w = .ok i → i.wellFormed = true ∧ encode i = some (w % 2 ^ (32 * lenOf w))

/-- R60, R61: opcodes and forms outside the map encode nothing. -/
def Claims.UnmappedOpcodes : Prop :=
  ∀ w : Nat,
    (bits w 0 2 = 0 → bits w 2 7 = 0 ∨ 0x28 < bits w 2 7 ∨ bits w 2 7 = 0x04 ∨ bits w 2 7 = 0x1E → (decodeBits w).toOption = none)
    ∧ (bits w 0 2 = 2 → bits w 2 7 ≠ 0x03 → bits w 2 7 ≠ 0x04 → bits w 2 7 ≠ 0x1C → bits w 2 7 ≠ 0x1E →
        (decodeBits w).toOption = none)
    ∧ (bits w 0 1 = 1 → bits w 2 7 = 0 ∨ 15 < bits w 2 7 → (decodeBits w).toOption = none)
    ∧ (bits w 9 1 = 0 → bits w 10 5 ≠ 0 → (decodeBits w).toOption = none)

/-- R50 to R52, R57: operand values of an extended instruction: a pair for a 64-bit type, a word, an element after half select and
swizzle, the literal, and IMM14 extended by signedness. -/
def Claims.OperandForms : Prop :=
  ∀ (c : Ctx) (o : ExtOps) (k : Nat),
    (ty64 o.ty = true → c.opA o k = c.rd o.a.r.toNat k + 2 ^ 32 * c.rd (o.a.r.toNat + 1) k)
    ∧ (tyWidth o.ty = 32 → o.a.h = false → c.opA o k = c.rd o.a.r.toNat k)
    ∧ (∀ e, tyWidth o.ty < 32 → e < 32 / tyWidth o.ty → c.rd o.a.r.toNat k < 2 ^ 32 →
        let n := 32 / tyWidth o.ty
        let x := c.rd o.a.r.toNat k
        let y := if o.a.h then x / 2 ^ 16 * (2 ^ 16 + 1) else x
        let from_ := match o.a.w.toNat with
          | 0 => e
          | 1 => e ^^^ 1
          | 2 => n - 1 - e
          | 3 => (e + 1) % n
          | 4 => (e + n / 2) % n
          | 5 => 0
          | 6 => n - 1
          | _ => if e % 2 = 0 then e / 2 else n / 2 + (e - 1) / 2
        elemOfWidth (tyWidth o.ty) (c.opA o k) e = elemOfWidth (tyWidth o.ty) y from_)
    ∧ (∀ v, o.lit = some v → c.opB o k = (if ty64 o.ty then v.toNat else v.toNat % 2 ^ 32) ∧ c.opBReg o k = c.opB o k)
    ∧ (o.lit = none → c.instr = .add o → o.b.h = true → (o.ty = .i32 ∨ o.ty = .n32 ∨ o.ty = .i64 ∨ o.ty = .n64) →
        BitVec.ofNat (tyWidth o.ty) (c.opB o k) = if tySigned o.ty then o.imm.signExtend _ else o.imm.setWidth _)
    ∧ (o.lit = none → ty64 o.ty = true → o.b.h = false → c.opB o k = c.rd o.b.r.toNat k + 2 ^ 32 * c.rd (o.b.r.toNat + 1) k)

/-- R8, R131, R166: an instruction that writes registers only, when it answers a next state, writes no register but those that it
names as destinations or kills, and those only in lanes that take part; all else is as it was. -/
def Claims.RegisterFrames : Prop :=
  (∀ p ∈ registerBase, ∀ (o : BaseOps) (s t : State) (c : Ctx), Free (p o) s c → exec (p o) s = .next t →
    DestinationsOnly t c ∧ OthersKept s t c ∧ GroupKept t c)
  ∧ ∀ p ∈ registerExt, ∀ (o : ExtOps) (s t : State) (c : Ctx), Free (p o) s c → exec (p o) s = .next t →
    DestinationsOnly t c ∧ OthersKept s t c ∧ GroupKept t c

/-- R130: a long instruction changes no register when it issues, those that it kills apart, and no memory. -/
def Claims.LongFrames : Prop :=
  ∀ p ∈ registerLong, ∀ (o : ExtOps) (s t : State) (c : Ctx), Free (p o) s c → exec (p o) s = .next t →
    RegistersKept t c ∧ BytesKept s t ∧ flagsAfter t c = flagsAfter s c

/-- R137 to R150: an instruction that moves slices changes no register but a call's link, no flag and no memory. -/
def Claims.ControlFrames : Prop :=
  ∀ (i : Instr) (s t : State) (c : Ctx), controlForms i → Free i s c → exec i s = .next t →
    DestinationsOnly t c ∧ OthersKept s t c ∧ GroupKept t c ∧ flagsAfter t c = flagsAfter s c

/-- R8, R404: an instruction that meets causes writes nothing: no register, no byte of a block's space and no byte of memory
changes, but for what the error log takes (R418, R491), and no access is issued. A cause other than ECC logs nothing. -/
def Claims.CausesWriteNothing : Prop :=
  (∀ (i : Instr) (s : State) (c : Ctx), ctxOf s i = some c → opInfo i ≠ none → genericCauses c ≠ [] →
    ∀ t, exec i s = .next t → (∀ r k, k < 32 → regAfter t c r k = c.rd r k) ∧ t.accesses = s.accesses
      ∧ (∀ b k, tget s.blocks b = some k → ∃ k', tget t.blocks b = some k' ∧ k'.scr = k.scr)
      ∧ ∀ p, p < s.front.l.errBase.toNat ∨ s.front.l.errBase.toNat + 32 * 4096 ≤ p → homeCell t.mem p = homeCell s.mem p)
  ∧ ∀ (i : Instr) (s : State) (c : Ctx) (cs : List LaneCause), ctxOf s i = some c → (∀ y ∈ cs, y.1 < 32) →
    (∀ x, highestOf cs x → x ≠ .ecc) → BytesKept s (raise c cs) ∧ (∀ r k, k < 32 → regAfter (raise c cs) c r k = c.rd r k)

/-- R322, R364: physical memory keeps its canonical form through every step. The form is the model's (log 2). -/
def Claims.MemoryStaysCanonical : Prop :=
  ∀ s t : State, MemoryCanonical s → step s = .next t → MemoryCanonical t

/-- R15, R18, R25: no step lists a block or a core twice or out of order. -/
def Claims.TablesKeepRising : Prop := ∀ s t : State, TablesRise s → step s = .next t → TablesRise t

/-- R473: the state after reset is as both invariants ask. -/
def Claims.ResetKeepsInvariants : Prop := MemoryCanonical State.reset ∧ TablesRise State.reset

/-- R12, R435, R438, R473: after reset bring-up is in stage 1, no launch, block, access or command is there, and the registers hold
the values that the register map gives. -/
def Claims.ResetValues : Prop :=
  mmioRead State.reset 0x000 4 = 0x10 ∧ mmioRead State.reset 0x014 4 = 0
  ∧ State.reset.launches = [] ∧ State.reset.blocks = [] ∧ State.reset.accesses = [] ∧ State.reset.front.queues = []
  ∧ State.reset.issueQ = [] ∧ State.reset.agenda = [] ∧ sref State.reset = 0
  ∧ (∀ d < 4, regValue State.reset (0x180000 + 0x1000 * d) = 3
      ∧ regValue State.reset (0x180004 + 0x1000 * d) = 1800 * 65536 ∧ regValue State.reset (0x180008 + 0x1000 * d) = 1800 * 65536)
  ∧ (∀ k < 18, regValue State.reset (0xA00000 + 0x100 * k) = 0x04020401)
  ∧ ∀ c < 768, (coreOf State.reset c).scyc = 0 ∧ (coreOf State.reset c).stopped = false

/-! ### The obligations -/

/-- Worked encodings, of the manual where it writes one, decode to their instructions (R41, R42, R43, R44, R45, R46, R58, R76, R77). -/
def Obligations.WordsOfTheManualDecode : Prop :=
  Claims.WorkedEncodings

/-- A step runs the instruction whose bytes stand at the program counter (R40, R41, R60, R124). -/
def Obligations.StepRunsTheDecodedInstruction : Prop :=
  Claims.StepRunsDecoded

/-- What a step does with stale, poisoned or undefined words, with device events and with soft errors (R14, R61, R124, R230, R400,
R417, R418, R419, spec/95_what_each_step_holds.md). The free choice among events, and of soft errors, is the model's (log 7,
101). -/
def Obligations.StepRunsEverythingElse : Prop :=
  Claims.StepHandlesTheRest
  ∧ Claims.StepRunsEvents
  ∧ Claims.EventsAreRows
  ∧ Claims.SoftErrors
  ∧ Claims.UndefinedEncodings

/-- Decoding what a well-formed instruction encodes to gives it back (R40, R41, R42, R43, R44, R45, R46, R48, R56, R57, R58,
R60). -/
def Obligations.EncodingRoundTrip : Prop :=
  Claims.EncodedWordsDecode
  ∧ Claims.EncodedBytesDecode

/-- Decoded words are what the instruction encodes to, and unmapped opcodes encode nothing (R42, R60, R61). -/
def Obligations.DecodingIsExact : Prop :=
  Claims.DecodedWordsEncode
  ∧ Claims.UnmappedOpcodes

/-- Operand values: pairs, half select, swizzle, literals and immediates (R50, R51, R52, R57). -/
def Obligations.OperandsAreRead : Prop :=
  Claims.OperandForms

/-- Wrapping and saturating sums, logic and logic functions, shifts, counts, extremes and signs of integers (R188, R193, R194,
R197, R198). -/
def Obligations.IntegerResults : Prop :=
  Claims.BaseTwoSourceResults
  ∧ Claims.BaseOneSourceResults
  ∧ Claims.PackedTwoSourceResults
  ∧ Claims.PackedOneSourceResults
  ∧ Claims.SaturatingResults
  ∧ Claims.LogicFunctionResults

/-- addc, subb and dot4 (R189, R191). -/
def Obligations.CarriesAndByteProducts : Prop :=
  Claims.CarryChains
  ∧ Claims.ByteDotProduct

/-- mad, madw, 64-bit products and divisions (R190, R192, R130). -/
def Obligations.ProductsAndDivisions : Prop :=
  Claims.MultiplyAddResults
  ∧ Claims.LongProducts
  ∧ Claims.LongDivisions

/-- Funnel shift, bit fields and integer compares (R195, R196, R199). -/
def Obligations.FieldsAndCompares : Prop :=
  Claims.FieldAndFunnelResults
  ∧ Claims.CompareResults

/-- mov, movi, sel, shfl, vote, perm, pack, unpack and swz (R176, R177, R180, R182, R183, R184). -/
def Obligations.MovesAndVotes : Prop :=
  Claims.MoveResults
  ∧ Claims.SelectResults
  ∧ Claims.ShuffleResults
  ∧ Claims.VoteResults
  ∧ Claims.BytePermutation
  ∧ Claims.PackedRearrangements

/-- bcast, rdlane and wrlane, and NUNI where a value differs (R174, R181). -/
def Obligations.LaneBroadcastsAndUniformity : Prop :=
  Claims.LaneBroadcasts
  ∧ Claims.NonUniformLaneRaises

/-- kill, xacq, xrel and the grants of the extended pool (R165, R166, R178, R179, R409). -/
def Obligations.RegisterQuotas : Prop :=
  Claims.RegisterQuota
  ∧ Claims.RegisterQuotaExceeded
  ∧ Claims.ExtendedPoolGrants

/-- mfs and mts (R21, R98, R100, R102, R151, R152, R153, R154, R155, R156). -/
def Obligations.SystemRegisterMoves : Prop :=
  Claims.SystemRegisterReads
  ∧ Claims.SystemRegisterWrites

/-- nop, bra slice by slice, and jn (R138, R139, R146). -/
def Obligations.BranchesBySlice : Prop :=
  Claims.NopResults
  ∧ Claims.BranchTaken
  ∧ Claims.GuardedBranch
  ∧ Claims.SequencerBranch
  ∧ Claims.JoinPops

/-- brx, ret, call and calli, and what branches raise (R141, R144, R145). -/
def Obligations.IndirectBranchesAndCalls : Prop :=
  Claims.IndirectBranches
  ∧ Claims.Calls
  ∧ Claims.IndirectBranchRaises
  ∧ Claims.StackOverflowRaises

/-- regang, exit, yield, sleep, phint and the waking of sleepers (R137, R140, R147, R148, R149, R150, R434). -/
def Obligations.GangsExitsAndSleep : Prop :=
  Claims.Regang
  ∧ Claims.ExitRemovesLanes
  ∧ Claims.YieldResults
  ∧ Claims.SleepResults
  ∧ Claims.SleepersWake
  ∧ Claims.PhaseHints

/-- The rounding of exact values is nearest, or towards zero, and its flags say what was lost (R95, R96, R97). -/
def Obligations.RoundingIsCorrect : Prop :=
  Claims.RoundingToNearest
  ∧ Claims.RoundingTowardsZero

/-- fadd, fsub, fmul, fma, fmin, fmax, fcmp, fneg, fsgn, fclass and fexpo (R201, R202, R203, R204, R205, R206). -/
def Obligations.FloatArithmetic : Prop :=
  Claims.FloatArithmeticResults
  ∧ Claims.FusedMultiplyAddResults
  ∧ Claims.FloatExtremes
  ∧ Claims.FloatCompares
  ∧ Claims.FloatSignAndClass

/-- frnd and fscale (R207). -/
def Obligations.FloatIntegralAndScaledResults : Prop :=
  Claims.FloatIntegralAndScaled

/-- fcvt, icvt, fcvti and the block form of fcvt (R105, R106, R107, R108, R109, R110, R111, R112, R208, R209, R210, R211). That
fcvti of a signalling NaN raises NV also with SAT is the model's reading (log 76). -/
def Obligations.Conversions : Prop :=
  Claims.ConversionResults
  ∧ Claims.BlockQuantisation

/-- What raising causes records, in groups and sequencers, and the causes that every instruction checks (R8, R61, R62, R125, R131,
R158, R285, R396, R397, R400, R403, R404). -/
def Obligations.CausesAreRecorded : Prop :=
  Claims.RaisingRecordsCause
  ∧ Claims.RaisingInSequencer
  ∧ Claims.GenericCauses
  ∧ Claims.IllegalEncodingRaises
  ∧ Claims.CausesWriteNothing

/-- trap, brkpt and the halt of a block (R396, R397, R398, R399, R427, R429). The moment of the halt is the model's (log 19,
46). -/
def Obligations.TrapsAndHalts : Prop :=
  Claims.TrapRaises
  ∧ Claims.BreakpointResults
  ∧ Claims.BlockHaltResults
  ∧ Claims.StopsWaitForLongs

/-- Entering a handler, the bytes of a trap frame, and tret (R40, R139, R398, R399, R400, R401, R406, R407, R409, R410, R428). That the
two low bits of a handler's entry are dropped is the model's choice (log 111). -/
def Obligations.HandlersAndFrames : Prop :=
  Claims.HandlerEntry
  ∧ Claims.TrapFrameLayout
  ∧ Claims.TrapReturn
  ∧ Claims.TrapReturnRaises

/-- Resolved operations and fprog complete where their records have room, else wait; parkw (R220, R227, R235, R241, R242). Which
lanes park, and a slot's function, are open (log 14, 15); that an instruction with no active lane needs no ticket is the model's
choice (log 92). -/
def Obligations.ResolvedOperations : Prop :=
  Claims.ResolvedResults
  ∧ Claims.ResolvedOperationsComplete
  ∧ Claims.FunctionSlotsComplete
  ∧ Claims.ResolvedWaits
  ∧ Claims.FunctionSlots
  ∧ Claims.ParkWait

/-- Quotients and roots rounded once, and the special inputs of resolved functions (R103, R104, R235, R236). flog1p of -1 is the
model's reading (log 42). -/
def Obligations.ResolvedValues : Prop :=
  Claims.QuotientsAreRounded
  ∧ Claims.RootsAreRounded
  ∧ Claims.ResolvedSpecialInputs
  ∧ Claims.PowerSpecialInputs

/-- fdot2, fdot4, gsum and gsumsq complete where their records have room; gmax, gmin and the integer gsum (R220, R237, R238, R239,
R240). That one with no active lane needs no room is the model's choice (log 92). -/
def Obligations.GroupReductions : Prop :=
  Claims.FloatDotProducts
  ∧ Claims.ReductionsComplete
  ∧ Claims.GroupSums
  ∧ Claims.GroupExtremes
  ∧ Claims.IntegerGroupSum

/-- Fast completion, park records, their stages and their settlement (R130, R133, R166, R218, R221, R222, R223, R224, R227, R244).
Where records are placed is the model's reading (log 41). -/
def Obligations.LongInstructionsComplete : Prop :=
  Claims.FastCompletions
  ∧ Claims.RecordsArePlaced
  ∧ Claims.RecordsSettle
  ∧ Claims.RecordStages

/-- Scratchpad addresses, loads, stores, atomics, their causes and their performing (R249, R250, R264, R275, R276, R277, R278,
R391). -/
def Obligations.ScratchpadAccesses : Prop :=
  Claims.ScratchpadAddresses
  ∧ Claims.ScratchpadMoves
  ∧ Claims.ScratchpadAtomics
  ∧ Claims.ScratchpadCauses
  ∧ Claims.ScratchpadPerforms
  ∧ Claims.AtomicFunctions
  ∧ Claims.PagePins

/-- qinit, qallow, qpush, qpop, qtry, blocking and misuse (R264, R268, R270, R271, R272, R279). -/
def Obligations.NamedQueueEntries : Prop :=
  Claims.QueueInit
  ∧ Claims.QueueAllow
  ∧ Claims.QueuePush
  ∧ Claims.QueuePushBlocks
  ∧ Claims.QueuePop
  ∧ Claims.QueueEmpty
  ∧ Claims.QueueMisuse
  ∧ Claims.BlockedPopResumes
  ∧ Claims.BlockedPushResumes

/-- ld, st, ldacq, strel and ldw, their causes and their performing (R320, R321, R322, R327, R345, R350, R352, R354, R361, R364,
R366, R390). -/
def Obligations.GlobalLoadsAndStores : Prop :=
  Claims.GlobalMoves
  ∧ Claims.GlobalCauses
  ∧ Claims.WeightLoads
  ∧ Claims.WeightCauses
  ∧ Claims.GlobalPerforms
  ∧ Claims.ImageWritesAreDiscarded

/-- atom and integer red, and their performing (R373, R374, R391, R392). -/
def Obligations.GlobalAtomicAccesses : Prop :=
  Claims.GlobalAtomics
  ∧ Claims.GlobalAtomicPerforms

/-- Floating red and redget on exact targets (R375, R376, R377, R392, R393). The lanes of TLIM are the model's reading (log 26). -/
def Obligations.ExactReductions : Prop :=
  Claims.FloatReductions
  ∧ Claims.FloatReductionPerforms
  ∧ Claims.ReductionReads

/-- ldt and stt, their causes, locks and performing (R258, R328, R329, R330, R332, R353, R360). When a lock is granted is the
model's reading (log 34). -/
def Obligations.TileAccesses : Prop :=
  Claims.TileIssues
  ∧ Claims.TileCauses
  ∧ Claims.TileLoadPerforms
  ∧ Claims.TileStorePerforms
  ∧ Claims.BlockTilesMoveByWords
  ∧ Claims.TileLockGrants

/-- prf, cflush and xprobe (R357, R358, R359). That cflush is ordered as a store of its line is the model's choice (log 99). -/
def Obligations.HintsAndProbes : Prop :=
  Claims.CacheHints
  ∧ Claims.TranslationProbe

/-- fork and join gather every live group (R26, R27, R280, R311). -/
def Obligations.ForkAndJoin : Prop :=
  Claims.ForkGathers
  ∧ Claims.ForkCauses
  ∧ Claims.JoinGathers

/-- mbarv, mbarw and the release of matrix barriers (R304, R305, R306). What the copy sequencer's arrival waits for is the
model's reading (log 30). -/
def Obligations.MatrixBarriers : Prop :=
  Claims.MatrixBarrierArrivals
  ∧ Claims.MatrixBarrierWaits
  ∧ Claims.MatrixBarrierGangs
  ∧ Claims.MatrixBarrierReleases

/-- bar, barv, barw, sbar and their releases (R383, R384, R385, R386). -/
def Obligations.NamedAndStepBarriers : Prop :=
  Claims.NamedBarrierArrivals
  ∧ Claims.NamedBarrierLanes
  ∧ Claims.NamedBarrierWaits
  ∧ Claims.NamedBarrierReleases
  ∧ Claims.StepBarrierArrivals
  ∧ Claims.StepBarrierReleases

/-- fence, fwait and the release of fences (R369, R370, R389). -/
def Obligations.Fences : Prop :=
  Claims.FenceNumbers
  ∧ Claims.FenceWaits
  ∧ Claims.FenceReleases

/-- mma, mmaz, acld, acst, lutld and mdrain enter the engine or raise (R170, R263, R288, R289, R290, R299, R312, R313, R314, R315,
R318). That the wait for the spill queue takes the operands as they stand is the model's reading (log 98). -/
def Obligations.MatrixInstructionsEnter : Prop :=
  Claims.FeederFormsEnter
  ∧ Claims.ScratchFormsEnter
  ∧ Claims.MatrixFormCauses
  ∧ Claims.AddressedFormsEnter
  ∧ Claims.DrainsEnter

/-- The operand images of register and scratchpad forms (R166, R170, R258, R288, R289, R290). That only earlier entries of the IN
table hold an operand back is the model's reading (log 32). -/
def Obligations.MatrixOperandsAreRead : Prop :=
  Claims.FeederOperandsRead
  ∧ Claims.ScratchOperandsRead

/-- A product raises every exact element by the exact sum of its products (R287, R292, R293, R294, R295, R297, R298, R299,
R312). A NaN scale code is a quiet NaN by the model's reading (log 29). -/
def Obligations.AccumulationIsExact : Prop :=
  Claims.ProductsAccumulate
  ∧ Claims.ContributionsArrive

/-- acst, acld, acld.add and the image of an accumulator (R313, R314). Where an image holds no tail it holds 0 (log 28). -/
def Obligations.AccumulatorImages : Prop :=
  Claims.AccumulatorStores
  ∧ Claims.AccumulatorLoads
  ∧ Claims.AccumulatorImagesAdd
  ∧ Claims.AccumulatorImagesRestore

/-- lutld, lutsw and the handover of a drain (R92, R93, R101, R297, R315, R316, R318). -/
def Obligations.CodebooksAndDrains : Prop :=
  Claims.CodebookBanks
  ∧ Claims.DrainsHandOver

/-- cpy, publish and the moves of transfers (R334, R335, R336, R337, R338, R339, R343, R345, R355, R356, R490). The order of
elements is free (log 39). -/
def Obligations.BulkTransfers : Prop :=
  Claims.CopiesEnter
  ∧ Claims.CopyCauses
  ∧ Claims.BoxElements
  ∧ Claims.ElementsMoveIn
  ∧ Claims.ElementsMoveOut
  ∧ Claims.CopySourcesRead
  ∧ Claims.TransferTurns
  ∧ Claims.Publishes

/-- Instruction cache, register line and scratchpad page fills (R124, R164, R253, R254, R414, R463). A filled line's form, and
that an instruction line is as its die sees it at the fill where no launch has kept the code, are the model's (log 44, 45). -/
def Obligations.FillsAndRefills : Prop :=
  Claims.InstructionFills
  ∧ Claims.LineFills
  ∧ Claims.PageRefills

/-- Placement, time slices, pre-emption, fetch swap-out, resumption and hang detection (R19, R24, R25, R30, R31, R163, R286, R405,
R414, R415, R416, R464). When the front end pre-empts is free (log 52); which cause decides
a swap-out, and that a block in step mode keeps its place, are the model's (log 43, 113). -/
def Obligations.BlocksComeAndGo : Prop :=
  Claims.Placement
  ∧ Claims.NewBlocks
  ∧ Claims.TimeSlices
  ∧ Claims.Preemption
  ∧ Claims.LinesAreWrittenBack
  ∧ Claims.FetchSwapOuts
  ∧ Claims.BlocksResume
  ∧ Claims.HangsEnd

/-- Registers that hold, that act, that clear, and rejected accesses (R11, R12, R13, R382, R421, R433, R438, R442, R450, R452,
R453, R473). What a register reads before READY is the model's choice (log 102), as are
that the action of a write stands at the end of the list of events that are due and the window of registers behind BAR2 (log 58,
67). -/
def Obligations.MemoryMappedRegisters : Prop :=
  Claims.RegistersHoldWhatIsWritten
  ∧ Claims.RegistersThatAct
  ∧ Claims.RejectedAccesses
  ∧ Claims.StatusClears

/-- Invalidation of translations, and translations by the host (R359, R447, R451, R457, R458). How long a translation is cached,
and how a failure is kept, are the model's (log 20, 21). -/
def Obligations.TranslationIsInvalidated : Prop :=
  Claims.Invalidations
  ∧ Claims.InvalidationsComplete
  ∧ Claims.HostTranslations
  ∧ Claims.HostInvalidations

/-- Page faults of engines, their requests and their responses (R303, R323, R400, R453, R458). -/
def Obligations.PageRequests : Prop :=
  Claims.EngineFaultsPost
  ∧ Claims.EngineFaultsRaise
  ∧ Claims.PageResponses
  ∧ Claims.RequestRing

/-- Queues, doorbells and the commands that queues hold (R233, R345, R425, R452, R459, R460, R461, R468). Statuses of WEIGHTS
and SLOTLOAD are the model's reading (log 63). -/
def Obligations.CommandQueues : Prop :=
  Claims.QueuesAreCreated
  ∧ Claims.QueuesAreDestroyed
  ∧ Claims.Doorbells
  ∧ Claims.MalformedCommands
  ∧ Claims.Signals
  ∧ Claims.Waits
  ∧ Claims.WeightCommands
  ∧ Claims.SlotCommands
  ∧ Claims.ReplicaCommands

/-- LAUNCH, RECORD, FLUSH and the end of launches (R68, R162, R217, R229, R461, R462, R463, R464, R465, R470). -/
def Obligations.LaunchCommands : Prop :=
  Claims.Launches
  ∧ Claims.AdmittedLaunchesFit
  ∧ Claims.Records
  ∧ Claims.Batches
  ∧ Claims.HostEnds

/-- Accesses of the host and of other packages, and collisions (R322, R347, R377, R381, R382, R447). That a host write reaches
every view at once is the model's choice (log 9). -/
def Obligations.OutsideAccesses : Prop :=
  Claims.HostAccesses
  ∧ Claims.HostAccessesNowhere
  ∧ Claims.RemoteAccesses
  ∧ Claims.Collisions

/-- Firmware updates, pair restarts, attestation and bring-up (R454, R456, R466, R467, R469, R473). What verifies is open (log 16);
the order of the reasons to reject an image is the model's choice (log 132). -/
def Obligations.FirmwareAndBringUp : Prop :=
  Claims.FirmwareUpdates
  ∧ Claims.PairRestarts
  ∧ Claims.Attestation
  ∧ Claims.BringUp

/-- Halts, holds, steps and releases of the debugger, and retention (R122, R411, R412, R413, R420, R442). The result of a step
that names no block, and a cluster after a parity error, are the model's (log 51, 57). -/
def Obligations.DebuggerAndRetention : Prop :=
  Claims.DebuggerHalts
  ∧ Claims.DebuggerHolds
  ∧ Claims.DebuggerReleases
  ∧ Claims.RetentionBegins
  ∧ Claims.RetentionEnds

/-- Operating points, relocks, islands, samples and droop (R117, R122, R435, R436, R437, R438, R439, R440, R443, R444, R445). -/
def Obligations.PowerControl : Prop :=
  Claims.OperatingPoints
  ∧ Claims.Relocks
  ∧ Claims.IslandControl
  ∧ Claims.SampleBoundaries
  ∧ Claims.IslandRamps
  ∧ Claims.Droops

/-- Core and fabric cycles, issue order, refresh, rounds and the reach of writes (R114, R119, R120, R126, R127, R129, R134,
R346, R362, R364, R374, R431). -/
def Obligations.ClocksIssueAndViews : Prop :=
  Claims.CoreCycles
  ∧ Claims.ResultsComeNearer
  ∧ Claims.IssueOrder
  ∧ Claims.DualIssue
  ∧ Claims.FabricCycles
  ∧ Claims.WeightRefresh
  ∧ Claims.SyncRounds
  ∧ Claims.WritesReachViews

/-- What instructions that write registers, open windows or move slices leave unchanged (R8, R131, R137, R138, R143, R144, R145,
R147, R149, R150, R166). -/
def Obligations.Frames : Prop :=
  Claims.RegisterFrames
  ∧ Claims.LongFrames
  ∧ Claims.ControlFrames

/-- No step breaks the form of memory, or lists a block or core twice or out of order (R15, R18, R25, R322, R364). The form of
memory is the model's (log 2). -/
def Obligations.InvariantsAreKept : Prop :=
  Claims.MemoryStaysCanonical
  ∧ Claims.TablesKeepRising

/-- The state after reset meets the invariants and holds the reset values of the register map (R12, R435, R438, R473). SREFT 0
(log 1) and the zero of the voltage fields before calibration (log 3) are the model's choices; State.reset is power-good. -/
def Obligations.ResetIsAsTheManualSays : Prop :=
  Claims.ResetKeepsInvariants
  ∧ Claims.ResetValues
end

