-- ==== Sys2Proof/Laws/Bits.lean ====
section
/-!
SUPPORT. Packed elements: the elements of a value built from elements, and of the element-by-element functions of R83 and R186.
-/
namespace Sys2Proof.Machine

open Sys2Proof

/-- R83: the elements of a word built from elements. -/
theorem ofElems_elem (w : Nat) (es : List Nat) (e : Nat) :
    ofElems w es / 2 ^ (w * e) % 2 ^ w = es.getD e 0 % 2 ^ w := by
  induction es generalizing e with
  | nil => simp [ofElems]
  | cons x xs ih =>
    cases e with
    | zero => simp [ofElems]
    | succ e =>
      have h : ofElems w (x :: xs) / 2 ^ (w * (e + 1)) = ofElems w xs / 2 ^ (w * e) := by
        rw [Nat.mul_succ, Nat.add_comm, Nat.pow_add, ← Nat.div_div_eq_div_mul]
        congr 1
        simp only [ofElems]
        rw [Nat.add_mul_div_left _ _ (Nat.two_pow_pos w), Nat.div_eq_of_lt (Nat.mod_lt _ (Nat.two_pow_pos w))]
        omega
      rw [h, ih]; simp

theorem ofElems_lt (w : Nat) (es : List Nat) : ofElems w es < 2 ^ (w * es.length) := by
  induction es with
  | nil => simp [ofElems]
  | cons x xs ih =>
    simp only [ofElems, List.length_cons, Nat.mul_succ]
    have h1 := Nat.mod_lt x (Nat.two_pow_pos w)
    have h2 : 2 ^ w * ofElems w xs + 2 ^ w ≤ 2 ^ w * 2 ^ (w * xs.length) := by
      rw [← Nat.mul_succ]; exact Nat.mul_le_mul_left _ ih
    rw [Nat.pow_add, Nat.mul_comm (2 ^ (w * xs.length))]
    omega

theorem range_getD (n e : Nat) (f : Nat → Nat) (h : e < n) : ((List.range n).map f).getD e 0 = f e := by
  simp [List.getD_eq_getElem?_getD, List.getElem?_range h]

/-- R83: element `e` of a value of 32 or 64 bits, or of a packed word. -/
theorem elemOfWidth_packed {w : Nat} (n : Nat) (f : Nat → Nat) {e : Nat} (h : e < n) :
    elemOfWidth w (ofElems w ((List.range n).map f)) e = BitVec.ofNat w (f e) := by
  unfold elemOfWidth
  apply BitVec.eq_of_toNat_eq
  simp only [BitVec.toNat_ofNat]
  rw [ofElems_elem, range_getD n e f h]

theorem elemOfWidth_bits (w x e : Nat) : BitVec.ofNat w (bits x (w * e) w) = elemOfWidth w x e := by
  apply BitVec.eq_of_toNat_eq
  simp [elemOfWidth, bits]

theorem elemOfWidth_toNat (w x e : Nat) : (elemOfWidth w x e).toNat = bits x (w * e) w := by
  simp [elemOfWidth, bits]

/-- R83, R186: an element of `map2`. -/
theorem elem_map2 {w : Nat} (f : Nat → Nat → Nat) (x y : Nat) {e : Nat} (h : e < elemCount w) :
    elemOfWidth w (map2 w f x y) e =
      BitVec.ofNat w (if w ≥ 32 then f x y else f (bits x (w * e) w) (bits y (w * e) w)) := by
  unfold elemCount at h
  unfold map2
  split at h
  · next hw => have : e = 0 := by omega
               subst this; simp [hw, elemOfWidth]
  · next hw => rw [if_neg hw, if_neg hw, elemOfWidth_packed _ _ h]

/-- R83, R186: an element of `map1`. -/
theorem elem_map1 {w : Nat} (f : Nat → Nat) (x : Nat) {e : Nat} (h : e < elemCount w) :
    elemOfWidth w (map1 w f x) e = BitVec.ofNat w (if w ≥ 32 then f x else f (bits x (w * e) w)) := by
  unfold elemCount at h
  unfold map1
  split at h
  · next hw => have : e = 0 := by omega
               subst this; simp [hw, elemOfWidth]
  · next hw =>
    rw [if_neg hw, if_neg hw, elems, List.map_map, elemOfWidth_packed _ _ h]; rfl

/-- R83, R186: an element of `map3`. -/
theorem elem_map3 {w : Nat} (f : Nat → Nat → Nat → Nat) (x y z : Nat) {e : Nat} (h : e < elemCount w) :
    elemOfWidth w (map3 w f x y z) e =
      BitVec.ofNat w (if w ≥ 32 then f x y z else f (bits x (w * e) w) (bits y (w * e) w) (bits z (w * e) w)) := by
  unfold elemCount at h
  unfold map3
  split at h
  · next hw => have : e = 0 := by omega
               subst this; simp [hw, elemOfWidth]
  · next hw => rw [if_neg hw, if_neg hw, elemOfWidth_packed _ _ h]

/-- R83, R186: an element of `eachElem`. -/
theorem elem_eachElem {w : Nat} (f : Nat → Nat × Nat) {e : Nat} (h : e < elemCount w) :
    elemOfWidth w (eachElem w f).1 e = BitVec.ofNat w (f e).1 := by
  unfold elemCount at h
  unfold eachElem
  split at h
  · next hw => have : e = 0 := by omega
               subst this; simp [hw, elemOfWidth]
  · next hw =>
    rw [if_neg hw]; simp only [List.map_map]
    rw [elemOfWidth_packed _ _ h]; rfl

/-- The low bits of a result hold its elements. -/
theorem elemOfWidth_mod (w x e n : Nat) (h : w * e + w ≤ n) : elemOfWidth w (x % 2 ^ n) e = elemOfWidth w x e := by
  apply BitVec.eq_of_toNat_eq
  simp only [elemOfWidth, BitVec.toNat_ofNat]
  apply Nat.eq_of_testBit_eq
  intro j
  by_cases hj : j < w
  · simp [Nat.testBit_mod_two_pow, Nat.testBit_div_two_pow, hj]
    intro; omega
  · simp [Nat.testBit_mod_two_pow, hj]

theorem intVal_wrap (w : Nat) (x : Int) : BitVec.ofNat w (wrap w x) = BitVec.ofInt w x := by
  apply BitVec.eq_of_toNat_eq
  simp only [wrap, BitVec.toNat_ofNat, BitVec.toNat_ofInt]
  have h : (0 : Int) < ((2 ^ w : Nat) : Int) := by exact_mod_cast Nat.two_pow_pos w
  have h1 := Int.emod_nonneg x (Int.ne_of_gt h)
  have h2 := Int.emod_lt_of_pos x h
  rw [Nat.mod_eq_of_lt]
  omega

end Sys2Proof.Machine
end

