-- ==== Sys2Proof/Laws/Tables.lean ====
section
/-!
SUPPORT. Sparse tables and memories: reading after writing, and the canonical form of a memory, which every operation on
bytes keeps.
-/
namespace Sys2Proof.Machine

variable {α : Type}

theorem tget_tset_same (t : Tab α) (k : Nat) (v : α) : tget (tset t k v) k = some v := by
  induction t with
  | nil => simp [tset, tget]
  | cons x r ih =>
    obtain ⟨j, u⟩ := x
    simp only [tset]
    split
    · simp [tget]
    · split
      · simp [tget]
      · simp only [tget]; rw [if_neg ‹_›]; exact ih

theorem tget_tset_other (t : Tab α) {k j : Nat} (v : α) (h : j ≠ k) : tget (tset t k v) j = tget t j := by
  induction t with
  | nil => simp [tset, tget, Ne.symm h]
  | cons x r ih =>
    obtain ⟨i, u⟩ := x
    simp only [tset]
    split
    · simp [tget, Ne.symm h]
    · split
      · next e => subst e; simp [tget, Ne.symm h]
      · simp only [tget]; split <;> simp_all

/-- Reading a table after one entry was set. -/
theorem tget_tset (t : Tab α) (k j : Nat) (v : α) : tget (tset t k v) j = if j = k then some v else tget t j := by
  by_cases h : j = k
  · subst h; simp [tget_tset_same]
  · simp [h, tget_tset_other t v h]

theorem tget_tdel_other (t : Tab α) {k j : Nat} (h : j ≠ k) : tget (tdel t k) j = tget t j := by
  induction t with
  | nil => simp [tdel, tget]
  | cons x r ih =>
    obtain ⟨i, u⟩ := x
    simp only [tdel]
    split
    · next e => subst e; simp [tget, Ne.symm h, ih]
    · simp only [tget]; split <;> simp_all

/-- Reading an entry that was removed. -/
theorem tget_tdel_same (t : Tab α) (k : Nat) : tget (tdel t k) k = none := by
  induction t with
  | nil => simp [tdel, tget]
  | cons x r ih =>
    obtain ⟨j, u⟩ := x
    simp only [tdel]
    split
    · exact ih
    · simp only [tget]; rw [if_neg ‹_›]; exact ih

/-- Reading a table after one entry was changed. -/
theorem tget_tmod (t : Tab α) (k j : Nat) (f : α → α) :
    tget (tmod t k f) j = if j = k then (tget t k).map f else tget t j := by
  unfold tmod
  cases h : tget t k with
  | none => by_cases e : j = k <;> simp [e, h]
  | some v => by_cases e : j = k <;> simp [e, tget_tset]

/-! ### The canonical form -/

theorem cellsOk_cons (a : Nat) (v : Byte) (m : List Host.Cell) :
    cellsOk ((a, v) :: m) = true ↔ v ≠ 0 ∧ (∀ c ∈ m.head?, a < c.1) ∧ cellsOk m = true := by
  cases m with
  | nil => simp [cellsOk]
  | cons c r => obtain ⟨b, w⟩ := c; simp [cellsOk, and_assoc]

theorem head_tset (m : Tab α) (a : Nat) (v : α) (b : Nat) (hb : b < a) (h : ∀ c ∈ m.head?, b < c.1) :
    ∀ c ∈ (tset m a v).head?, b < c.1 := by
  cases m with
  | nil => simp [tset, hb]
  | cons x r =>
    obtain ⟨j, u⟩ := x
    simp only [tset]
    split
    · simp [hb]
    · split
      · simp [hb]
      · simpa using h

theorem cellsOk_tset (m : List Host.Cell) (a : Nat) (v : Byte) (hv : v ≠ 0) (h : cellsOk m = true) :
    cellsOk (tset m a v) = true := by
  induction m with
  | nil => simpa [tset, cellsOk] using hv
  | cons x r ih =>
    obtain ⟨j, u⟩ := x
    rw [cellsOk_cons] at h
    simp only [tset]
    split
    · rw [cellsOk_cons, cellsOk_cons]; exact ⟨hv, by simpa using ‹a < j›, h⟩
    · split
      · next e => subst e; rw [cellsOk_cons]; exact ⟨hv, h.2.1, h.2.2⟩
      · rw [cellsOk_cons]; exact ⟨h.1, head_tset r a v j (by omega) h.2.1, ih h.2.2⟩

theorem cellsOk_tail {x : Host.Cell} {m : List Host.Cell} (h : cellsOk (x :: m) = true) : cellsOk m = true :=
  ((cellsOk_cons x.1 x.2 m).1 h).2.2

theorem head_lt_all : ∀ (m : List Host.Cell) (b : Nat), cellsOk m = true → (∀ c ∈ m.head?, b < c.1) → ∀ c ∈ m, b < c.1
  | [], _, _, _ => by simp
  | (j, u) :: r, b, h, hb => by
    have hj : b < j := by simpa using hb
    have h' := (cellsOk_cons j u r).1 h
    intro c hc
    rcases List.mem_cons.1 hc with rfl | hc
    · exact hj
    · exact Nat.lt_trans hj (head_lt_all r j h'.2.2 h'.2.1 c hc)

theorem cellsOk_tdel (m : List Host.Cell) (a : Nat) (h : cellsOk m = true) : cellsOk (tdel m a) = true := by
  induction m with
  | nil => simp [tdel, cellsOk]
  | cons x r ih =>
    obtain ⟨j, u⟩ := x
    have h' := (cellsOk_cons j u r).1 h
    simp only [tdel]
    split
    · exact ih h'.2.2
    · rw [cellsOk_cons]
      refine ⟨h'.1, ?_, ih h'.2.2⟩
      intro c hc
      have : c ∈ tdel r a := List.mem_of_mem_head? hc
      have hsub : ∀ (m : List Host.Cell), tdel m a ⊆ m := by
        intro m
        induction m with
        | nil => simp [tdel]
        | cons y s ihs =>
          obtain ⟨i, w⟩ := y
          simp only [tdel]
          split
          · exact fun x hx => List.mem_cons_of_mem _ (ihs hx)
          · exact List.cons_subset_cons _ ihs
      exact head_lt_all r j h'.2.2 h'.2.1 c (hsub r this)

/-- A write of one byte keeps the canonical form. -/
theorem cellsOk_wrCell (m : List Host.Cell) (a : Nat) (v : Byte) (h : cellsOk m = true) : cellsOk (wrCell m a v) = true := by
  unfold wrCell
  split
  · exact cellsOk_tdel m a h
  · exact cellsOk_tset m a v ‹_› h

/-- A write of consecutive bytes keeps the canonical form. -/
theorem cellsOk_wrCells (bs : List Byte) : ∀ (m : List Host.Cell) (a : Nat), cellsOk m = true → cellsOk (wrCells m a bs) = true := by
  induction bs with
  | nil => exact fun _ _ h => h
  | cons v vs ih => exact fun m a h => ih _ _ (cellsOk_wrCell m a v h)

/-- A write of a set of bytes keeps the canonical form. -/
theorem cellsOk_putCells (cs : List Host.Cell) : ∀ (m : List Host.Cell), cellsOk m = true → cellsOk (putCells m cs) = true := by
  induction cs with
  | nil => exact fun _ h => h
  | cons c cs ih => exact fun m h => ih _ (cellsOk_wrCell m c.1 c.2 h)

/-- Reading a byte after a byte was written. -/
theorem rdCell_wrCell (m : List Host.Cell) (a b : Nat) (v : Byte) :
    rdCell (wrCell m a v) b = if b = a then v else rdCell m b := by
  unfold rdCell wrCell
  by_cases e : b = a
  · subst e
    split
    · next hv => simp [tget_tdel_same m b, hv]
    · simp [tget_tset_same]
  · split
    · simp [tget_tdel_other m e]
    · simp [tget_tset_other m v e]

/-- Reading a byte after consecutive bytes were written. -/
theorem rdCell_wrCells (bs : List Byte) : ∀ (m : List Host.Cell) (a b : Nat),
    rdCell (wrCells m a bs) b = if a ≤ b ∧ b < a + bs.length then bs.getD (b - a) 0 else rdCell m b := by
  induction bs with
  | nil => intro m a b; rw [if_neg (by rw [List.length_nil]; omega)]; rfl
  | cons v vs ih =>
    intro m a b
    simp only [wrCells]
    rw [ih, rdCell_wrCell]
    simp only [List.length_cons]
    by_cases e : b = a
    · subst e; rw [if_neg (by omega)]; simp
    · by_cases hlt : a < b
      · have e1 : b - a = (b - (a + 1)) + 1 := by omega
        by_cases hb : b < a + 1 + vs.length
        · rw [if_pos ⟨by omega, hb⟩, if_pos ⟨by omega, by omega⟩, e1]; simp
        · rw [if_neg (by omega), if_neg (by omega), if_neg (by omega)]
      · rw [if_neg (by omega), if_neg (by omega), if_neg (by omega)]

end Sys2Proof.Machine
end

