-- ==== Sys2Proof/Laws/Issue.lean ====
section
/-!
SUPPORT. What issuing does, said once: an instruction that is free to issue has its own effect, and the registers, flags and
addresses that the issuing party holds afterwards.
-/
namespace Sys2Proof.Machine

open Sys2Proof

/-! ### Contexts -/

theorem groupAt_some {k : Block} {g : Nat} {x : Group} (h : groupAt k g = some x) : g < 32 ∧ tget k.groups g = some x := by
  unfold groupAt at h
  split at h
  · exact ⟨by assumption, h⟩
  · cases h

/-- The context of a state holds that state, its block and its party. -/
theorem ctxOf_spec {s : State} {i : Instr} {c : Ctx} (h : ctxOf s i = some c) :
    c.s = s ∧ c.instr = i ∧ tget s.blocks c.bid = some c.b
      ∧ (c.sq = none → tget c.b.groups c.party = some c.g ∧ c.party < 32)
      ∧ (∀ q, c.sq = some q → c.lanes = [0] ∧ (q = if c.party = mseqParty then c.b.mseq else c.b.cseq)
        ∧ (c.party = mseqParty ∨ c.party = cseqParty))
      ∧ c.sliceLanes ≠ [] := by
  unfold ctxOf at h
  split at h
  · cases h
  · split at h
    · cases h
    · split at h
      · cases h
      · simp only at h
        split at h
        · cases h
        · next hs =>
          split at h
          · cases h
          · cases h; exact ⟨rfl, rfl, by assumption, fun _ => (groupAt_some (by assumption)).symm, by simp, by simp [Ctx.sliceLanes, hs, span]⟩
  · split at h
    · cases h
    · cases h; exact ⟨rfl, rfl, by assumption, by simp, by simp, by simp [Ctx.sliceLanes]⟩
  · split at h
    · cases h
    · cases h; exact ⟨rfl, rfl, by assumption, by simp, by simp [mseqParty, cseqParty], by simp [Ctx.sliceLanes]⟩

theorem mem_setBits {n x k : Nat} (h : k ∈ setBits n x) : k < n := by
  simp [setBits] at h; exact h.1

theorem actLanes_lt {g : Group} {k j : Nat} (h : j ∈ actLanes g k) : j < 4 * k + 4 := by
  unfold actLanes at h
  split at h
  · cases h
  · simp only [List.mem_filterMap, List.mem_range] at h
    obtain ⟨a, ha, h⟩ := h
    split at h
    · simp at h; omega
    · cases h

/-- A lane that takes part is one of 32. -/
theorem lanes_lt {s : State} {i : Instr} {c : Ctx} (h : ctxOf s i = some c) {k : Nat} (hk : k ∈ c.lanes) : k < 32 := by
  unfold ctxOf at h
  split at h
  · cases h
  · split at h
    · cases h
    · split at h
      · cases h
      · simp only at h
        split at h
        · cases h
        · split at h
          · cases h
          · cases h
            simp only [List.mem_filter, List.mem_flatten, List.mem_map] at hk
            obtain ⟨⟨l, ⟨a, ha, rfl⟩, hl⟩, -⟩ := hk
            have := actLanes_lt hl
            have := mem_setBits ha
            omega
  · split at h
    · cases h
    · cases h; simp at hk; omega
  · split at h
    · cases h
    · cases h; simp at hk; omega

/-! ### The frame of every instruction -/

/-- R60, R62: an instruction that is free to issue has fields and a stream that allow it. -/
theorem free_fields {i : Instr} {s : State} {c : Ctx} (h : Free i s c) : streamOk c = true ∧ i.wellFormed = true := by
  obtain ⟨h1, h2, -⟩ := h
  have hi := (ctxOf_spec h1).2.1
  unfold genericCauses at h2
  split at h2
  · have := (ctxOf_spec h1).2.2.2.2.2
    simp [causeAll] at h2; exact absurd h2 this
  · next hn => simp [hi] at hn; exact ⟨hn.1.1, hn.1.2⟩

/-- R281: a sequencer's instruction names registers of its own file. -/
theorem free_seqFields {i : Instr} {s : State} {c : Ctx} (h : Free i s c) (hq : c.sq ≠ none) :
    seqFieldsOk i = true := by
  have hi := (ctxOf_spec h.1).2.1
  have hs := (free_fields h).1
  cases hc : c.sq with
  | none => exact absurd hc hq
  | some q =>
    have hp := ((ctxOf_spec h.1).2.2.2.2.1 q hc).2.2
    unfold streamOk at hs
    simp only [hi] at hs
    rcases hp with hp | hp <;> simp [hp, mseqParty, cseqParty] at hs <;> exact hs.1.2

/-- R125: an instruction whose data are ready belongs to a party that is free. -/
theorem dataReady_free {c : Ctx} (h : dataReady c = true) : gangFree c = true := by
  unfold dataReady at h; exact (Bool.and_eq_true_iff.mp h).1

/-- R125: an instruction that is free to issue, and whose body finds no cause and no wait, has its effect. -/
theorem issue_free {i : Instr} {s : State} {c : Ctx} {body : Ctx → Res} {e : Effect} (h : Free i s c)
    (hb : body c = .ok e) : issue i body s = .next (retire c e) := by
  obtain ⟨h1, h2, h3⟩ := h
  simp [issue, h1, h2, h3, hb, dataReady_free h3]

/-- The next state of an instruction is one of four: it is not ready and changes nothing, it raises the causes of its frame or
those with its own, or it has its effect. -/
theorem issue_next {i : Instr} {s t : State} {body : Ctx → Res} (h : issue i body s = .next t) :
    ∃ c, ctxOf s i = some c ∧
      (t = s ∨ t = raise c (genericCauses c)
        ∨ (∃ cs post, body c = .causes cs post ∧ t = post (raise c (genericCauses c ++ cs)))
        ∨ (∃ e, body c = .ok e ∧ genericCauses c = [] ∧ dataReady c = true ∧ t = retire c e)) := by
  unfold issue at h
  split at h
  · cases h
  · next c hc =>
    refine ⟨c, hc, ?_⟩
    simp only at h
    split at h
    · cases h; exact .inl rfl
    · split at h
      · cases h; exact .inr (.inl rfl)
      split at h
      · cases h; exact .inl rfl
      · next hd =>
        split at h
        · next cs post hb => cases h; exact .inr (.inr (.inl ⟨cs, post, hb, rfl⟩))
        · cases h; exact .inl rfl
        · next e hb =>
          split at h
          · next hg =>
            cases h
            exact .inr (.inr (.inr ⟨e, hb, by simpa using hg, by simpa using hd, rfl⟩))
          · cases h; exact .inr (.inl rfl)

/-! ### What retiring leaves -/

@[simp] theorem charge_blocks (s : State) (k n : Nat) : (charge s k n).blocks = s.blocks := rfl
@[simp] theorem noteIssue_blocks (s : State) (core team : Nat) (f : OpInfo) (op : Nat) :
    (noteIssue s core team f op).blocks = s.blocks := rfl
@[simp] theorem modTeam_blocks (s : State) (c t : Nat) (f : Team → Team) : (modTeam s c t f).blocks = s.blocks := rfl
@[simp] theorem modBlock_blocks (s : State) (b : Nat) (f : Block → Block) :
    (modBlock s b f).blocks = tmod s.blocks b f := rfl

@[simp] theorem drawn_blocks (c : Ctx) (s : State) : (drawn c s).blocks = s.blocks := by
  unfold drawn; simp only; split <;> rfl

@[simp] theorem killWaiters_groups (k : Block) (gi : Nat) (rs : List Nat) : (killWaiters k gi rs).groups = k.groups := rfl

/-- The block of the issuer after an instruction has retired. -/
theorem retire_block {s : State} {i : Instr} {c : Ctx} (h : ctxOf s i = some c) (e : Effect) (hp : e.post = id) :
    tget (retire c e).blocks c.bid = some (match c.sq with
      | none => killWaiters { c.b with groups := tset c.b.groups c.party (issuedGroup c e) } c.party (c.use.kills ++ e.kills)
      | some q =>
        let q1 : Seq := { q with
          regs := e.writes.foldl (fun rs x => rs.setIfInBounds x.1 (BitVec.ofNat 32 x.2.2)) q.regs
          pc := e.seqPc.getD (q.pc + BitVec.ofNat 64 (lenBytes c.instr))
          hold := q.hold || c.b.h.stepping }
        if c.party = mseqParty then { c.b with mseq := q1 } else { c.b with cseq := q1 }) := by
  obtain ⟨h1, -, h3, -⟩ := ctxOf_spec h
  rw [← h1] at h3
  unfold retire
  simp only [hp, id_eq]
  cases hq : c.sq with
  | none =>
    simp only
    split <;> simp [tget_tmod, h3]
  | some q =>
    simp only
    split <;> split <;> simp [tget_tmod, h3]

theorem groupAfter_retire {s : State} {i : Instr} {c : Ctx} (h : ctxOf s i = some c) (e : Effect) (hp : e.post = id)
    (hq : c.sq = none) : groupAfter (retire c e) c = some (issuedGroup c e) := by
  simp [groupAfter, retire_block h e hp, hq, tget_tset]

theorem lastWrite_none {ws : List (Nat × Nat × Nat)} {r k : Nat} (h : ∀ x ∈ ws, ¬(x.1 = r ∧ x.2.1 = k)) :
    lastWrite ws r k = none := by
  induction ws with
  | nil => rfl
  | cons x xs ih =>
    obtain ⟨a, b, v⟩ := x
    simp only [lastWrite, ih fun y hy => h y (List.mem_cons_of_mem _ hy)]
    simp [h (a, b, v) (List.mem_cons_self ..)]

theorem lastWrite_append (xs ys : List (Nat × Nat × Nat)) (r k : Nat) :
    lastWrite (xs ++ ys) r k = (lastWrite ys r k).or (lastWrite xs r k) := by
  induction xs with
  | nil => simp [lastWrite]
  | cons x xs ih =>
    obtain ⟨a, b, v⟩ := x
    simp only [List.cons_append, lastWrite, ih]
    cases lastWrite ys r k <;> simp

theorem lastWrite_row (lanes : List Nat) (d r k : Nat) (f : Nat → Nat) :
    lastWrite (lanes.map fun k => (d, k, f k)) r k = if r = d ∧ k ∈ lanes then some (f k) else none := by
  induction lanes with
  | nil => simp [lastWrite]
  | cons a l ih =>
    simp only [List.map_cons, lastWrite, ih, List.mem_cons]
    by_cases hr : r = d
    · subst hr
      by_cases hk : k ∈ l
      · simp [hk]
      · by_cases ha : a = k
        · subst ha; simp [hk]
        · simp [hk, ha, Ne.symm ha]
    · simp [hr, Ne.symm hr]

/-- The value that a result leaves in a register of a lane. -/
theorem lastWrite_put (c : Ctx) (wide : Bool) (d r k : Nat) (v : Nat → Nat) :
    lastWrite (c.put wide d v) r k =
      if k ∈ c.lanes then
        if r = d then some (v k % 2 ^ 32) else if wide ∧ r = d + 1 then some (v k / 2 ^ 32 % 2 ^ 32) else none
      else none := by
  unfold Ctx.put
  cases wide with
  | false => rw [if_neg (by simp), lastWrite_row]; by_cases hk : k ∈ c.lanes <;> simp [hk]
  | true =>
    rw [if_pos rfl, lastWrite_append, lastWrite_row, lastWrite_row]
    by_cases hk : k ∈ c.lanes <;> by_cases h1 : r = d + 1 <;> by_cases h2 : r = d <;> simp [hk, h1, h2]

theorem tget_foldl_tset {α : Type} (rs : List Nat) (f : Nat → α) (t : Tab α) (r : Nat) :
    tget (rs.foldl (fun ls r => tset ls r (f r)) t) r = if r ∈ rs then some (f r) else tget t r := by
  induction rs generalizing t with
  | nil => simp
  | cons a l ih =>
    simp only [List.foldl_cons, ih, tget_tset, List.mem_cons]
    by_cases h : r ∈ l
    · simp [h]
    · by_cases e : r = a
      · subst e; simp [h]
      · simp [h, e]

theorem mem_writtenRegs (ws : List (Nat × Nat × Nat)) (r : Nat) : r ∈ writtenRegs ws ↔ ∃ x ∈ ws, x.1 = r := by
  simp [writtenRegs, List.mem_eraseDups]

theorem lastWrite_mem {ws : List (Nat × Nat × Nat)} {r k v : Nat} (h : lastWrite ws r k = some v) :
    ∃ x ∈ ws, x.1 = r ∧ x.2.1 = k := by
  refine Classical.byContradiction fun hn => ?_
  rw [lastWrite_none (by intro x hx hh; exact hn ⟨x, hx, hh⟩)] at h
  cases h

/-- R163, R168: a register of a lane after writes to a group. -/
theorem rdReg_writeRegs (g : Group) (ws : List (Nat × Nat × Nat)) (t r k : Nat) (hk : k < 32) :
    rdReg (writeRegs g ws t) r k = match lastWrite ws r k with
      | some v => v % 2 ^ 32
      | none => rdReg g r k := by
  unfold writeRegs
  simp only [rdReg, tget_foldl_tset]
  by_cases h : r ∈ writtenRegs ws
  · simp only [if_pos h, writtenLine]
    have : ((List.range 32).map fun k => BitVec.ofNat 32 ((lastWrite ws r k).getD (rdReg g r k))).getD k 0
        = BitVec.ofNat 32 ((lastWrite ws r k).getD (rdReg g r k)) := by
      simp [List.getD_eq_getElem?_getD, List.getElem?_map, List.getElem?_range hk]
    rw [this]
    cases lastWrite ws r k with
    | some v => simp
    | none =>
      simp only [Option.getD_none, BitVec.toNat_ofNat]
      rw [Nat.mod_eq_of_lt]
      · rfl
      · unfold rdReg; split
        · omega
        · exact BitVec.isLt _
  · rw [if_neg h]
    have : lastWrite ws r k = none := by
      cases hl : lastWrite ws r k with
      | none => rfl
      | some v =>
        obtain ⟨x, hx, hr, -⟩ := lastWrite_mem hl
        exact absurd ((mem_writtenRegs ws r).2 ⟨x, hx, hr⟩) h
    simp [this]

theorem foldl_set_getD (ws : List (Nat × Nat × Nat)) (rs : Vector Word 64) (r : Nat) (hr : r < 64)
    (hl : ∀ x ∈ ws, x.2.1 = 0) :
    ((ws.foldl (fun rs x => rs.setIfInBounds x.1 (BitVec.ofNat 32 x.2.2)) rs).getD r 0).toNat =
      match lastWrite ws r 0 with
      | some v => v % 2 ^ 32
      | none => (rs.getD r 0).toNat := by
  induction ws generalizing rs with
  | nil => simp [lastWrite]
  | cons x xs ih =>
    obtain ⟨a, b, v⟩ := x
    have hb : b = 0 := hl (a, b, v) (List.mem_cons_self ..)
    subst hb
    simp only [List.foldl_cons, ih _ fun y hy => hl y (List.mem_cons_of_mem _ hy), lastWrite]
    cases lastWrite xs r 0 with
    | some u => simp
    | none =>
      by_cases e : a = r
      · subst e; simp [Vector.getD, hr]
      · simp [Vector.getD, hr, e]

theorem tget_touch {α : Type} (f : Nat → α → α) (t : Tab α) (r : Nat) :
    tget (t.map fun x => (x.1, f x.1 x.2)) r = (tget t r).map (f r) := by
  induction t with
  | nil => rfl
  | cons x xs ih =>
    obtain ⟨a, b⟩ := x
    simp only [List.map_cons, tget]
    by_cases e : a = r
    · subst e; simp
    · simpa [e] using ih

/-- R171: a read of its lines changes nothing of a group that a program can read. -/
@[simp] theorem rdReg_touchLines (g : Group) (rs : List Nat) (t r k : Nat) : rdReg (touchLines g rs t) r k = rdReg g r k := by
  have h : (touchLines g rs t).lines = g.lines.map fun x => (x.1, if rs.contains x.1 then { x.2 with used := t } else x.2) := by
    unfold touchLines
    refine List.map_congr_left fun x _ => ?_
    split <;> rfl
  unfold rdReg
  rw [h, tget_touch (fun a (l : Line) => if rs.contains a then { l with used := t } else l)]
  cases tget g.lines r with
  | none => rfl
  | some l => simp only [Option.map_some]; split <;> rfl

@[simp] theorem touchLines_flags (g : Group) (rs : List Nat) (t : Nat) : (touchLines g rs t).flags = g.flags := rfl

@[simp] theorem dropResult_lines (g : Group) (r : Nat) : (dropResult g r).lines = g.lines := rfl

@[simp] theorem dropResult_flags (g : Group) (r : Nat) : (dropResult g r).flags = g.flags := rfl

theorem killReg_lines (g : Group) (r x : Nat) :
    tget (killReg g r).lines x = if x = r then none else tget g.lines x := by
  unfold killReg
  cases h : tget g.lines r with
  | none =>
    by_cases e : x = r
    · subst e; simp [h]
    · simp [e]
  | some l =>
    by_cases e : x = r
    · subst e; simp [tget_tdel_same]
    · simp [e, tget_tdel_other _ e]

/-- R166: the lines of a group after a list of kills. -/
theorem tget_killRegs (rs : List Nat) (g : Group) (x : Nat) :
    tget (killRegs g rs).lines x = if x ∈ rs then none else tget g.lines x := by
  induction rs generalizing g with
  | nil => simp [killRegs]
  | cons a l ih =>
    simp only [killRegs, List.foldl_cons] at ih ⊢
    rw [ih, killReg_lines]
    by_cases h : x ∈ l <;> by_cases e : x = a <;> simp [h, e]

/-- R163, R166: a killed register reads 0, and the others read as before. -/
theorem rdReg_killRegs (rs : List Nat) (g : Group) (r k : Nat) :
    rdReg (killRegs g rs) r k = if r ∈ rs then 0 else rdReg g r k := by
  unfold rdReg
  rw [tget_killRegs]
  by_cases h : r ∈ rs <;> simp [h]

/-- R164: the last write of a register by a list of killed registers leaves it dead, and the others as they were. -/
theorem issuedGroup_lines (c : Ctx) (e : Effect) (r k : Nat) (hk : k < 32) :
    rdReg (issuedGroup c e) r k = match lastWrite e.writes r k with
      | some v => v % 2 ^ 32
      | none => rdReg (killRegs c.g (c.use.kills ++ e.kills)) r k := by
  refine (rdReg_writeRegs (killRegs (touchLines c.g c.use.reads (coreOf c.s c.b.core).scyc) (c.use.kills ++ e.kills)) e.writes
    (coreOf c.s c.b.core).scyc r k hk).trans ?_
  simp [rdReg_killRegs]

/-- R163, R283: the registers of the issuing party after an instruction has retired: written, or else unchanged unless
killed. -/
theorem regAfter_retire {s : State} {i : Instr} {c : Ctx} (h : ctxOf s i = some c) (e : Effect) (hp : e.post = id)
    (hw : ∀ x ∈ e.writes, x.2.1 ∈ c.lanes) (hr : c.sq ≠ none → r < 64) {k : Nat} (hk : k ∈ c.lanes) {v : Nat}
    (hv : lastWrite e.writes r k = some v) : regAfter (retire c e) c r k = v % 2 ^ 32 := by
  unfold regAfter
  cases hq : c.sq with
  | none => simp [groupAfter_retire h e hp hq, issuedGroup_lines c e r k (lanes_lt h hk), hv]
  | some q =>
    have h0 := ((ctxOf_spec h).2.2.2.2.1 q hq).1
    have hk0 : k = 0 := by rw [h0] at hk; simpa using hk
    subst hk0
    have hr' : r < 64 := hr (by simp [hq])
    have hl : ∀ x ∈ e.writes, x.2.1 = 0 := fun x hx => by have := hw x hx; rw [h0] at this; simpa using this
    have key := foldl_set_getD e.writes q.regs r hr' hl
    rw [hv] at key
    simp only [seqAfter, retire_block h e hp, hq, Option.map_some, Option.getD_some]
    split <;> simpa using key

theorem mem_put (c : Ctx) (wide : Bool) (d : Nat) (v : Nat → Nat) {x : Nat × Nat × Nat} (h : x ∈ c.put wide d v) :
    x.2.1 ∈ c.lanes := by
  unfold Ctx.put at h
  split at h
  · simp only [List.mem_append, List.mem_map] at h
    obtain ⟨k, hk, rfl⟩ | ⟨k, hk, rfl⟩ := h <;> exact hk
  · simp only [List.mem_map] at h
    obtain ⟨k, hk, rfl⟩ := h; exact hk

@[simp] theorem killReg_flags (g : Group) (r : Nat) : (killReg g r).flags = g.flags := by
  unfold killReg; split <;> rfl

@[simp] theorem killRegs_flags (rs : List Nat) (g : Group) : (killRegs g rs).flags = g.flags := by
  induction rs generalizing g with
  | nil => rfl
  | cons a l ih => simp only [killRegs, List.foldl_cons] at ih ⊢; rw [ih]; simp

@[simp] theorem writeRegs_flags (g : Group) (ws : List (Nat × Nat × Nat)) (t : Nat) :
    (writeRegs g ws t).flags = g.flags := rfl

theorem issuedGroup_flags (c : Ctx) (e : Effect) :
    (issuedGroup c e).flags = c.g.flags ||| BitVec.ofNat 6 e.flags := by simp [issuedGroup]

/-- An instruction whose effect is a result in a register or a pair completes with that result. -/
theorem completes_of_put {s : State} {i : Instr} {c : Ctx} (h : ctxOf s i = some c) (wide : Bool) (d : Nat)
    (v : Nat → Nat) (fl : Nat) (hd : c.sq ≠ none → (if wide then d + 1 else d) < 64)
    (he : exec i s = .next (retire c { writes := c.put wide d v, flags := fl })) :
    Completes i s c wide d (fun k => v k % 2 ^ (if wide then 64 else 32)) fl := by
  refine ⟨_, he, fun k hk => ?_, fun hq => ?_⟩
  · unfold destAfter
    have h0 := regAfter_retire (r := d) h { writes := c.put wide d v, flags := fl } rfl
      (fun x hx => mem_put c wide d v hx) (fun q => by have := hd q; split at this <;> omega) hk
      (v := v k % 2 ^ 32) (by rw [lastWrite_put]; simp [hk])
    cases wide with
    | false => simp [h0]
    | true =>
      have h1 := regAfter_retire (r := d + 1) h { writes := c.put true d v, flags := fl } rfl
        (fun x hx => mem_put c true d v hx) (by simpa using hd) hk (v := v k / 2 ^ 32 % 2 ^ 32) (by rw [lastWrite_put]; simp [hk])
      simp only [if_true, h0, h1]
      omega
  · have hg := groupAfter_retire h { writes := c.put wide d v, flags := fl } rfl hq
    simp [flagsAfter, hg, issuedGroup_flags]

end Sys2Proof.Machine
end

