-- ==== Sys2Proof/Laws/State.lean ====
section
/-!
SUPPORT. What each named operation over a part of the state leaves alone: one equation for each field, and one for the field that
it changes.
-/
namespace Sys2Proof.Machine

/-! ### modCore -/

@[simp] theorem modCore_cores (s : State) (c : Nat) (f : Core → Core) : (modCore s c f).cores = tset s.cores c (f (coreOf s c)) := rfl
@[simp] theorem modCore_time (s : State) (c : Nat) (f : Core → Core) : (modCore s c f).time = s.time := rfl
@[simp] theorem modCore_fabric (s : State) (c : Nat) (f : Core → Core) : (modCore s c f).fabric = s.fabric := rfl
@[simp] theorem modCore_sampled (s : State) (c : Nat) (f : Core → Core) : (modCore s c f).sampled = s.sampled := rfl
@[simp] theorem modCore_pkg (s : State) (c : Nat) (f : Core → Core) : (modCore s c f).pkg = s.pkg := rfl
@[simp] theorem modCore_mem (s : State) (c : Nat) (f : Core → Core) : (modCore s c f).mem = s.mem := rfl
@[simp] theorem modCore_accesses (s : State) (c : Nat) (f : Core → Core) : (modCore s c f).accesses = s.accesses := rfl
@[simp] theorem modCore_seqNo (s : State) (c : Nat) (f : Core → Core) : (modCore s c f).seqNo = s.seqNo := rfl
@[simp] theorem modCore_tlb (s : State) (c : Nat) (f : Core → Core) : (modCore s c f).tlb = s.tlb := rfl
@[simp] theorem modCore_ats (s : State) (c : Nat) (f : Core → Core) : (modCore s c f).ats = s.ats := rfl
@[simp] theorem modCore_chunks (s : State) (c : Nat) (f : Core → Core) : (modCore s c f).chunks = s.chunks := rfl
@[simp] theorem modCore_dies (s : State) (c : Nat) (f : Core → Core) : (modCore s c f).dies = s.dies := rfl
@[simp] theorem modCore_clusters (s : State) (c : Nat) (f : Core → Core) : (modCore s c f).clusters = s.clusters := rfl
@[simp] theorem modCore_launches (s : State) (c : Nat) (f : Core → Core) : (modCore s c f).launches = s.launches := rfl
@[simp] theorem modCore_blocks (s : State) (c : Nat) (f : Core → Core) : (modCore s c f).blocks = s.blocks := rfl
@[simp] theorem modCore_front (s : State) (c : Nat) (f : Core → Core) : (modCore s c f).front = s.front := rfl
@[simp] theorem modCore_focus (s : State) (c : Nat) (f : Core → Core) : (modCore s c f).focus = s.focus := rfl
@[simp] theorem modCore_issueQ (s : State) (c : Nat) (f : Core → Core) : (modCore s c f).issueQ = s.issueQ := rfl
@[simp] theorem modCore_agenda (s : State) (c : Nat) (f : Core → Core) : (modCore s c f).agenda = s.agenda := rfl
@[simp] theorem modCore_tick (s : State) (c : Nat) (f : Core → Core) : (modCore s c f).tick = s.tick := rfl
@[simp] theorem modCore_nextId (s : State) (c : Nat) (f : Core → Core) : (modCore s c f).nextId = s.nextId := rfl

/-! ### modTeam -/

@[simp] theorem modTeam_time (s : State) (c t : Nat) (f : Team → Team) : (modTeam s c t f).time = s.time := rfl
@[simp] theorem modTeam_fabric (s : State) (c t : Nat) (f : Team → Team) : (modTeam s c t f).fabric = s.fabric := rfl
@[simp] theorem modTeam_sampled (s : State) (c t : Nat) (f : Team → Team) : (modTeam s c t f).sampled = s.sampled := rfl
@[simp] theorem modTeam_pkg (s : State) (c t : Nat) (f : Team → Team) : (modTeam s c t f).pkg = s.pkg := rfl
@[simp] theorem modTeam_mem (s : State) (c t : Nat) (f : Team → Team) : (modTeam s c t f).mem = s.mem := rfl
@[simp] theorem modTeam_accesses (s : State) (c t : Nat) (f : Team → Team) : (modTeam s c t f).accesses = s.accesses := rfl
@[simp] theorem modTeam_seqNo (s : State) (c t : Nat) (f : Team → Team) : (modTeam s c t f).seqNo = s.seqNo := rfl
@[simp] theorem modTeam_tlb (s : State) (c t : Nat) (f : Team → Team) : (modTeam s c t f).tlb = s.tlb := rfl
@[simp] theorem modTeam_ats (s : State) (c t : Nat) (f : Team → Team) : (modTeam s c t f).ats = s.ats := rfl
@[simp] theorem modTeam_chunks (s : State) (c t : Nat) (f : Team → Team) : (modTeam s c t f).chunks = s.chunks := rfl
@[simp] theorem modTeam_dies (s : State) (c t : Nat) (f : Team → Team) : (modTeam s c t f).dies = s.dies := rfl
@[simp] theorem modTeam_clusters (s : State) (c t : Nat) (f : Team → Team) : (modTeam s c t f).clusters = s.clusters := rfl
@[simp] theorem modTeam_launches (s : State) (c t : Nat) (f : Team → Team) : (modTeam s c t f).launches = s.launches := rfl
@[simp] theorem modTeam_front (s : State) (c t : Nat) (f : Team → Team) : (modTeam s c t f).front = s.front := rfl
@[simp] theorem modTeam_focus (s : State) (c t : Nat) (f : Team → Team) : (modTeam s c t f).focus = s.focus := rfl
@[simp] theorem modTeam_issueQ (s : State) (c t : Nat) (f : Team → Team) : (modTeam s c t f).issueQ = s.issueQ := rfl
@[simp] theorem modTeam_agenda (s : State) (c t : Nat) (f : Team → Team) : (modTeam s c t f).agenda = s.agenda := rfl
@[simp] theorem modTeam_tick (s : State) (c t : Nat) (f : Team → Team) : (modTeam s c t f).tick = s.tick := rfl
@[simp] theorem modTeam_nextId (s : State) (c t : Nat) (f : Team → Team) : (modTeam s c t f).nextId = s.nextId := rfl

/-! ### modBlock -/

@[simp] theorem modBlock_time (s : State) (b : Nat) (f : Block → Block) : (modBlock s b f).time = s.time := rfl
@[simp] theorem modBlock_fabric (s : State) (b : Nat) (f : Block → Block) : (modBlock s b f).fabric = s.fabric := rfl
@[simp] theorem modBlock_sampled (s : State) (b : Nat) (f : Block → Block) : (modBlock s b f).sampled = s.sampled := rfl
@[simp] theorem modBlock_pkg (s : State) (b : Nat) (f : Block → Block) : (modBlock s b f).pkg = s.pkg := rfl
@[simp] theorem modBlock_mem (s : State) (b : Nat) (f : Block → Block) : (modBlock s b f).mem = s.mem := rfl
@[simp] theorem modBlock_accesses (s : State) (b : Nat) (f : Block → Block) : (modBlock s b f).accesses = s.accesses := rfl
@[simp] theorem modBlock_seqNo (s : State) (b : Nat) (f : Block → Block) : (modBlock s b f).seqNo = s.seqNo := rfl
@[simp] theorem modBlock_tlb (s : State) (b : Nat) (f : Block → Block) : (modBlock s b f).tlb = s.tlb := rfl
@[simp] theorem modBlock_ats (s : State) (b : Nat) (f : Block → Block) : (modBlock s b f).ats = s.ats := rfl
@[simp] theorem modBlock_chunks (s : State) (b : Nat) (f : Block → Block) : (modBlock s b f).chunks = s.chunks := rfl
@[simp] theorem modBlock_dies (s : State) (b : Nat) (f : Block → Block) : (modBlock s b f).dies = s.dies := rfl
@[simp] theorem modBlock_clusters (s : State) (b : Nat) (f : Block → Block) : (modBlock s b f).clusters = s.clusters := rfl
@[simp] theorem modBlock_cores (s : State) (b : Nat) (f : Block → Block) : (modBlock s b f).cores = s.cores := rfl
@[simp] theorem modBlock_launches (s : State) (b : Nat) (f : Block → Block) : (modBlock s b f).launches = s.launches := rfl
@[simp] theorem modBlock_front (s : State) (b : Nat) (f : Block → Block) : (modBlock s b f).front = s.front := rfl
@[simp] theorem modBlock_focus (s : State) (b : Nat) (f : Block → Block) : (modBlock s b f).focus = s.focus := rfl
@[simp] theorem modBlock_issueQ (s : State) (b : Nat) (f : Block → Block) : (modBlock s b f).issueQ = s.issueQ := rfl
@[simp] theorem modBlock_agenda (s : State) (b : Nat) (f : Block → Block) : (modBlock s b f).agenda = s.agenda := rfl
@[simp] theorem modBlock_tick (s : State) (b : Nat) (f : Block → Block) : (modBlock s b f).tick = s.tick := rfl
@[simp] theorem modBlock_nextId (s : State) (b : Nat) (f : Block → Block) : (modBlock s b f).nextId = s.nextId := rfl

/-! ### modGroup -/

@[simp] theorem modGroup_time (s : State) (b g : Nat) (f : Group → Group) : (modGroup s b g f).time = s.time := rfl
@[simp] theorem modGroup_fabric (s : State) (b g : Nat) (f : Group → Group) : (modGroup s b g f).fabric = s.fabric := rfl
@[simp] theorem modGroup_sampled (s : State) (b g : Nat) (f : Group → Group) : (modGroup s b g f).sampled = s.sampled := rfl
@[simp] theorem modGroup_pkg (s : State) (b g : Nat) (f : Group → Group) : (modGroup s b g f).pkg = s.pkg := rfl
@[simp] theorem modGroup_mem (s : State) (b g : Nat) (f : Group → Group) : (modGroup s b g f).mem = s.mem := rfl
@[simp] theorem modGroup_accesses (s : State) (b g : Nat) (f : Group → Group) : (modGroup s b g f).accesses = s.accesses := rfl
@[simp] theorem modGroup_seqNo (s : State) (b g : Nat) (f : Group → Group) : (modGroup s b g f).seqNo = s.seqNo := rfl
@[simp] theorem modGroup_tlb (s : State) (b g : Nat) (f : Group → Group) : (modGroup s b g f).tlb = s.tlb := rfl
@[simp] theorem modGroup_ats (s : State) (b g : Nat) (f : Group → Group) : (modGroup s b g f).ats = s.ats := rfl
@[simp] theorem modGroup_chunks (s : State) (b g : Nat) (f : Group → Group) : (modGroup s b g f).chunks = s.chunks := rfl
@[simp] theorem modGroup_dies (s : State) (b g : Nat) (f : Group → Group) : (modGroup s b g f).dies = s.dies := rfl
@[simp] theorem modGroup_clusters (s : State) (b g : Nat) (f : Group → Group) : (modGroup s b g f).clusters = s.clusters := rfl
@[simp] theorem modGroup_cores (s : State) (b g : Nat) (f : Group → Group) : (modGroup s b g f).cores = s.cores := rfl
@[simp] theorem modGroup_launches (s : State) (b g : Nat) (f : Group → Group) : (modGroup s b g f).launches = s.launches := rfl
@[simp] theorem modGroup_front (s : State) (b g : Nat) (f : Group → Group) : (modGroup s b g f).front = s.front := rfl
@[simp] theorem modGroup_focus (s : State) (b g : Nat) (f : Group → Group) : (modGroup s b g f).focus = s.focus := rfl
@[simp] theorem modGroup_issueQ (s : State) (b g : Nat) (f : Group → Group) : (modGroup s b g f).issueQ = s.issueQ := rfl
@[simp] theorem modGroup_agenda (s : State) (b g : Nat) (f : Group → Group) : (modGroup s b g f).agenda = s.agenda := rfl
@[simp] theorem modGroup_tick (s : State) (b g : Nat) (f : Group → Group) : (modGroup s b g f).tick = s.tick := rfl
@[simp] theorem modGroup_nextId (s : State) (b g : Nat) (f : Group → Group) : (modGroup s b g f).nextId = s.nextId := rfl

/-! ### modLaunch -/

@[simp] theorem modLaunch_launches (s : State) (l : Nat) (f : Launch → Launch) : (modLaunch s l f).launches = tmod s.launches l f := rfl
@[simp] theorem modLaunch_time (s : State) (l : Nat) (f : Launch → Launch) : (modLaunch s l f).time = s.time := rfl
@[simp] theorem modLaunch_fabric (s : State) (l : Nat) (f : Launch → Launch) : (modLaunch s l f).fabric = s.fabric := rfl
@[simp] theorem modLaunch_sampled (s : State) (l : Nat) (f : Launch → Launch) : (modLaunch s l f).sampled = s.sampled := rfl
@[simp] theorem modLaunch_pkg (s : State) (l : Nat) (f : Launch → Launch) : (modLaunch s l f).pkg = s.pkg := rfl
@[simp] theorem modLaunch_mem (s : State) (l : Nat) (f : Launch → Launch) : (modLaunch s l f).mem = s.mem := rfl
@[simp] theorem modLaunch_accesses (s : State) (l : Nat) (f : Launch → Launch) : (modLaunch s l f).accesses = s.accesses := rfl
@[simp] theorem modLaunch_seqNo (s : State) (l : Nat) (f : Launch → Launch) : (modLaunch s l f).seqNo = s.seqNo := rfl
@[simp] theorem modLaunch_tlb (s : State) (l : Nat) (f : Launch → Launch) : (modLaunch s l f).tlb = s.tlb := rfl
@[simp] theorem modLaunch_ats (s : State) (l : Nat) (f : Launch → Launch) : (modLaunch s l f).ats = s.ats := rfl
@[simp] theorem modLaunch_chunks (s : State) (l : Nat) (f : Launch → Launch) : (modLaunch s l f).chunks = s.chunks := rfl
@[simp] theorem modLaunch_dies (s : State) (l : Nat) (f : Launch → Launch) : (modLaunch s l f).dies = s.dies := rfl
@[simp] theorem modLaunch_clusters (s : State) (l : Nat) (f : Launch → Launch) : (modLaunch s l f).clusters = s.clusters := rfl
@[simp] theorem modLaunch_cores (s : State) (l : Nat) (f : Launch → Launch) : (modLaunch s l f).cores = s.cores := rfl
@[simp] theorem modLaunch_blocks (s : State) (l : Nat) (f : Launch → Launch) : (modLaunch s l f).blocks = s.blocks := rfl
@[simp] theorem modLaunch_front (s : State) (l : Nat) (f : Launch → Launch) : (modLaunch s l f).front = s.front := rfl
@[simp] theorem modLaunch_focus (s : State) (l : Nat) (f : Launch → Launch) : (modLaunch s l f).focus = s.focus := rfl
@[simp] theorem modLaunch_issueQ (s : State) (l : Nat) (f : Launch → Launch) : (modLaunch s l f).issueQ = s.issueQ := rfl
@[simp] theorem modLaunch_agenda (s : State) (l : Nat) (f : Launch → Launch) : (modLaunch s l f).agenda = s.agenda := rfl
@[simp] theorem modLaunch_tick (s : State) (l : Nat) (f : Launch → Launch) : (modLaunch s l f).tick = s.tick := rfl
@[simp] theorem modLaunch_nextId (s : State) (l : Nat) (f : Launch → Launch) : (modLaunch s l f).nextId = s.nextId := rfl

/-! ### modDie -/

@[simp] theorem modDie_dies (s : State) (d : Nat) (f : Die → Die) : (modDie s d f).dies = s.dies.setIfInBounds d (f (dieOf s d)) := rfl
@[simp] theorem modDie_time (s : State) (d : Nat) (f : Die → Die) : (modDie s d f).time = s.time := rfl
@[simp] theorem modDie_fabric (s : State) (d : Nat) (f : Die → Die) : (modDie s d f).fabric = s.fabric := rfl
@[simp] theorem modDie_sampled (s : State) (d : Nat) (f : Die → Die) : (modDie s d f).sampled = s.sampled := rfl
@[simp] theorem modDie_pkg (s : State) (d : Nat) (f : Die → Die) : (modDie s d f).pkg = s.pkg := rfl
@[simp] theorem modDie_mem (s : State) (d : Nat) (f : Die → Die) : (modDie s d f).mem = s.mem := rfl
@[simp] theorem modDie_accesses (s : State) (d : Nat) (f : Die → Die) : (modDie s d f).accesses = s.accesses := rfl
@[simp] theorem modDie_seqNo (s : State) (d : Nat) (f : Die → Die) : (modDie s d f).seqNo = s.seqNo := rfl
@[simp] theorem modDie_tlb (s : State) (d : Nat) (f : Die → Die) : (modDie s d f).tlb = s.tlb := rfl
@[simp] theorem modDie_ats (s : State) (d : Nat) (f : Die → Die) : (modDie s d f).ats = s.ats := rfl
@[simp] theorem modDie_chunks (s : State) (d : Nat) (f : Die → Die) : (modDie s d f).chunks = s.chunks := rfl
@[simp] theorem modDie_clusters (s : State) (d : Nat) (f : Die → Die) : (modDie s d f).clusters = s.clusters := rfl
@[simp] theorem modDie_cores (s : State) (d : Nat) (f : Die → Die) : (modDie s d f).cores = s.cores := rfl
@[simp] theorem modDie_launches (s : State) (d : Nat) (f : Die → Die) : (modDie s d f).launches = s.launches := rfl
@[simp] theorem modDie_blocks (s : State) (d : Nat) (f : Die → Die) : (modDie s d f).blocks = s.blocks := rfl
@[simp] theorem modDie_front (s : State) (d : Nat) (f : Die → Die) : (modDie s d f).front = s.front := rfl
@[simp] theorem modDie_focus (s : State) (d : Nat) (f : Die → Die) : (modDie s d f).focus = s.focus := rfl
@[simp] theorem modDie_issueQ (s : State) (d : Nat) (f : Die → Die) : (modDie s d f).issueQ = s.issueQ := rfl
@[simp] theorem modDie_agenda (s : State) (d : Nat) (f : Die → Die) : (modDie s d f).agenda = s.agenda := rfl
@[simp] theorem modDie_tick (s : State) (d : Nat) (f : Die → Die) : (modDie s d f).tick = s.tick := rfl
@[simp] theorem modDie_nextId (s : State) (d : Nat) (f : Die → Die) : (modDie s d f).nextId = s.nextId := rfl

/-! ### modCluster -/

@[simp] theorem modCluster_clusters (s : State) (k : Nat) (f : Cluster → Cluster) : (modCluster s k f).clusters = s.clusters.setIfInBounds k (f (clusterOf s k)) := rfl
@[simp] theorem modCluster_time (s : State) (k : Nat) (f : Cluster → Cluster) : (modCluster s k f).time = s.time := rfl
@[simp] theorem modCluster_fabric (s : State) (k : Nat) (f : Cluster → Cluster) : (modCluster s k f).fabric = s.fabric := rfl
@[simp] theorem modCluster_sampled (s : State) (k : Nat) (f : Cluster → Cluster) : (modCluster s k f).sampled = s.sampled := rfl
@[simp] theorem modCluster_pkg (s : State) (k : Nat) (f : Cluster → Cluster) : (modCluster s k f).pkg = s.pkg := rfl
@[simp] theorem modCluster_mem (s : State) (k : Nat) (f : Cluster → Cluster) : (modCluster s k f).mem = s.mem := rfl
@[simp] theorem modCluster_accesses (s : State) (k : Nat) (f : Cluster → Cluster) : (modCluster s k f).accesses = s.accesses := rfl
@[simp] theorem modCluster_seqNo (s : State) (k : Nat) (f : Cluster → Cluster) : (modCluster s k f).seqNo = s.seqNo := rfl
@[simp] theorem modCluster_tlb (s : State) (k : Nat) (f : Cluster → Cluster) : (modCluster s k f).tlb = s.tlb := rfl
@[simp] theorem modCluster_ats (s : State) (k : Nat) (f : Cluster → Cluster) : (modCluster s k f).ats = s.ats := rfl
@[simp] theorem modCluster_chunks (s : State) (k : Nat) (f : Cluster → Cluster) : (modCluster s k f).chunks = s.chunks := rfl
@[simp] theorem modCluster_dies (s : State) (k : Nat) (f : Cluster → Cluster) : (modCluster s k f).dies = s.dies := rfl
@[simp] theorem modCluster_cores (s : State) (k : Nat) (f : Cluster → Cluster) : (modCluster s k f).cores = s.cores := rfl
@[simp] theorem modCluster_launches (s : State) (k : Nat) (f : Cluster → Cluster) : (modCluster s k f).launches = s.launches := rfl
@[simp] theorem modCluster_blocks (s : State) (k : Nat) (f : Cluster → Cluster) : (modCluster s k f).blocks = s.blocks := rfl
@[simp] theorem modCluster_front (s : State) (k : Nat) (f : Cluster → Cluster) : (modCluster s k f).front = s.front := rfl
@[simp] theorem modCluster_focus (s : State) (k : Nat) (f : Cluster → Cluster) : (modCluster s k f).focus = s.focus := rfl
@[simp] theorem modCluster_issueQ (s : State) (k : Nat) (f : Cluster → Cluster) : (modCluster s k f).issueQ = s.issueQ := rfl
@[simp] theorem modCluster_agenda (s : State) (k : Nat) (f : Cluster → Cluster) : (modCluster s k f).agenda = s.agenda := rfl
@[simp] theorem modCluster_tick (s : State) (k : Nat) (f : Cluster → Cluster) : (modCluster s k f).tick = s.tick := rfl
@[simp] theorem modCluster_nextId (s : State) (k : Nat) (f : Cluster → Cluster) : (modCluster s k f).nextId = s.nextId := rfl

/-! ### dueEvents -/

@[simp] theorem dueEvents_agenda (s : State) (is : List Event) : (dueEvents s is).agenda = s.agenda ++ is := rfl
@[simp] theorem dueEvents_time (s : State) (is : List Event) : (dueEvents s is).time = s.time := rfl
@[simp] theorem dueEvents_fabric (s : State) (is : List Event) : (dueEvents s is).fabric = s.fabric := rfl
@[simp] theorem dueEvents_sampled (s : State) (is : List Event) : (dueEvents s is).sampled = s.sampled := rfl
@[simp] theorem dueEvents_pkg (s : State) (is : List Event) : (dueEvents s is).pkg = s.pkg := rfl
@[simp] theorem dueEvents_mem (s : State) (is : List Event) : (dueEvents s is).mem = s.mem := rfl
@[simp] theorem dueEvents_accesses (s : State) (is : List Event) : (dueEvents s is).accesses = s.accesses := rfl
@[simp] theorem dueEvents_seqNo (s : State) (is : List Event) : (dueEvents s is).seqNo = s.seqNo := rfl
@[simp] theorem dueEvents_tlb (s : State) (is : List Event) : (dueEvents s is).tlb = s.tlb := rfl
@[simp] theorem dueEvents_ats (s : State) (is : List Event) : (dueEvents s is).ats = s.ats := rfl
@[simp] theorem dueEvents_chunks (s : State) (is : List Event) : (dueEvents s is).chunks = s.chunks := rfl
@[simp] theorem dueEvents_dies (s : State) (is : List Event) : (dueEvents s is).dies = s.dies := rfl
@[simp] theorem dueEvents_clusters (s : State) (is : List Event) : (dueEvents s is).clusters = s.clusters := rfl
@[simp] theorem dueEvents_cores (s : State) (is : List Event) : (dueEvents s is).cores = s.cores := rfl
@[simp] theorem dueEvents_launches (s : State) (is : List Event) : (dueEvents s is).launches = s.launches := rfl
@[simp] theorem dueEvents_blocks (s : State) (is : List Event) : (dueEvents s is).blocks = s.blocks := rfl
@[simp] theorem dueEvents_front (s : State) (is : List Event) : (dueEvents s is).front = s.front := rfl
@[simp] theorem dueEvents_focus (s : State) (is : List Event) : (dueEvents s is).focus = s.focus := rfl
@[simp] theorem dueEvents_issueQ (s : State) (is : List Event) : (dueEvents s is).issueQ = s.issueQ := rfl
@[simp] theorem dueEvents_tick (s : State) (is : List Event) : (dueEvents s is).tick = s.tick := rfl
@[simp] theorem dueEvents_nextId (s : State) (is : List Event) : (dueEvents s is).nextId = s.nextId := rfl

/-! ### raiseMsix -/

@[simp] theorem raiseMsix_time (s : State) (v : Nat) : (raiseMsix s v).time = s.time := rfl
@[simp] theorem raiseMsix_fabric (s : State) (v : Nat) : (raiseMsix s v).fabric = s.fabric := rfl
@[simp] theorem raiseMsix_sampled (s : State) (v : Nat) : (raiseMsix s v).sampled = s.sampled := rfl
@[simp] theorem raiseMsix_pkg (s : State) (v : Nat) : (raiseMsix s v).pkg = s.pkg := rfl
@[simp] theorem raiseMsix_mem (s : State) (v : Nat) : (raiseMsix s v).mem = s.mem := rfl
@[simp] theorem raiseMsix_accesses (s : State) (v : Nat) : (raiseMsix s v).accesses = s.accesses := rfl
@[simp] theorem raiseMsix_seqNo (s : State) (v : Nat) : (raiseMsix s v).seqNo = s.seqNo := rfl
@[simp] theorem raiseMsix_tlb (s : State) (v : Nat) : (raiseMsix s v).tlb = s.tlb := rfl
@[simp] theorem raiseMsix_ats (s : State) (v : Nat) : (raiseMsix s v).ats = s.ats := rfl
@[simp] theorem raiseMsix_chunks (s : State) (v : Nat) : (raiseMsix s v).chunks = s.chunks := rfl
@[simp] theorem raiseMsix_dies (s : State) (v : Nat) : (raiseMsix s v).dies = s.dies := rfl
@[simp] theorem raiseMsix_clusters (s : State) (v : Nat) : (raiseMsix s v).clusters = s.clusters := rfl
@[simp] theorem raiseMsix_cores (s : State) (v : Nat) : (raiseMsix s v).cores = s.cores := rfl
@[simp] theorem raiseMsix_launches (s : State) (v : Nat) : (raiseMsix s v).launches = s.launches := rfl
@[simp] theorem raiseMsix_blocks (s : State) (v : Nat) : (raiseMsix s v).blocks = s.blocks := rfl
@[simp] theorem raiseMsix_focus (s : State) (v : Nat) : (raiseMsix s v).focus = s.focus := rfl
@[simp] theorem raiseMsix_issueQ (s : State) (v : Nat) : (raiseMsix s v).issueQ = s.issueQ := rfl
@[simp] theorem raiseMsix_agenda (s : State) (v : Nat) : (raiseMsix s v).agenda = s.agenda := rfl
@[simp] theorem raiseMsix_tick (s : State) (v : Nat) : (raiseMsix s v).tick = s.tick := rfl
@[simp] theorem raiseMsix_nextId (s : State) (v : Nat) : (raiseMsix s v).nextId = s.nextId := rfl

/-! ### physWrite -/

@[simp] theorem physWrite_time (s : State) (pa : Nat) (bs : List Byte) : (physWrite s pa bs).time = s.time := rfl
@[simp] theorem physWrite_fabric (s : State) (pa : Nat) (bs : List Byte) : (physWrite s pa bs).fabric = s.fabric := rfl
@[simp] theorem physWrite_sampled (s : State) (pa : Nat) (bs : List Byte) : (physWrite s pa bs).sampled = s.sampled := rfl
@[simp] theorem physWrite_pkg (s : State) (pa : Nat) (bs : List Byte) : (physWrite s pa bs).pkg = s.pkg := rfl
@[simp] theorem physWrite_accesses (s : State) (pa : Nat) (bs : List Byte) : (physWrite s pa bs).accesses = s.accesses := rfl
@[simp] theorem physWrite_seqNo (s : State) (pa : Nat) (bs : List Byte) : (physWrite s pa bs).seqNo = s.seqNo := rfl
@[simp] theorem physWrite_tlb (s : State) (pa : Nat) (bs : List Byte) : (physWrite s pa bs).tlb = s.tlb := rfl
@[simp] theorem physWrite_ats (s : State) (pa : Nat) (bs : List Byte) : (physWrite s pa bs).ats = s.ats := rfl
@[simp] theorem physWrite_chunks (s : State) (pa : Nat) (bs : List Byte) : (physWrite s pa bs).chunks = s.chunks := rfl
@[simp] theorem physWrite_dies (s : State) (pa : Nat) (bs : List Byte) : (physWrite s pa bs).dies = s.dies := rfl
@[simp] theorem physWrite_clusters (s : State) (pa : Nat) (bs : List Byte) : (physWrite s pa bs).clusters = s.clusters := rfl
@[simp] theorem physWrite_cores (s : State) (pa : Nat) (bs : List Byte) : (physWrite s pa bs).cores = s.cores := rfl
@[simp] theorem physWrite_launches (s : State) (pa : Nat) (bs : List Byte) : (physWrite s pa bs).launches = s.launches := rfl
@[simp] theorem physWrite_blocks (s : State) (pa : Nat) (bs : List Byte) : (physWrite s pa bs).blocks = s.blocks := rfl
@[simp] theorem physWrite_front (s : State) (pa : Nat) (bs : List Byte) : (physWrite s pa bs).front = s.front := rfl
@[simp] theorem physWrite_focus (s : State) (pa : Nat) (bs : List Byte) : (physWrite s pa bs).focus = s.focus := rfl
@[simp] theorem physWrite_issueQ (s : State) (pa : Nat) (bs : List Byte) : (physWrite s pa bs).issueQ = s.issueQ := rfl
@[simp] theorem physWrite_agenda (s : State) (pa : Nat) (bs : List Byte) : (physWrite s pa bs).agenda = s.agenda := rfl
@[simp] theorem physWrite_tick (s : State) (pa : Nat) (bs : List Byte) : (physWrite s pa bs).tick = s.tick := rfl
@[simp] theorem physWrite_nextId (s : State) (pa : Nat) (bs : List Byte) : (physWrite s pa bs).nextId = s.nextId := rfl

/-! ### vaWrite -/

@[simp] theorem vaWrite_time (s : State) (p va : Nat) (bs : List Byte) : (vaWrite s p va bs).time = s.time := rfl
@[simp] theorem vaWrite_fabric (s : State) (p va : Nat) (bs : List Byte) : (vaWrite s p va bs).fabric = s.fabric := rfl
@[simp] theorem vaWrite_sampled (s : State) (p va : Nat) (bs : List Byte) : (vaWrite s p va bs).sampled = s.sampled := rfl
@[simp] theorem vaWrite_pkg (s : State) (p va : Nat) (bs : List Byte) : (vaWrite s p va bs).pkg = s.pkg := rfl
@[simp] theorem vaWrite_accesses (s : State) (p va : Nat) (bs : List Byte) : (vaWrite s p va bs).accesses = s.accesses := rfl
@[simp] theorem vaWrite_seqNo (s : State) (p va : Nat) (bs : List Byte) : (vaWrite s p va bs).seqNo = s.seqNo := rfl
@[simp] theorem vaWrite_tlb (s : State) (p va : Nat) (bs : List Byte) : (vaWrite s p va bs).tlb = s.tlb := rfl
@[simp] theorem vaWrite_ats (s : State) (p va : Nat) (bs : List Byte) : (vaWrite s p va bs).ats = s.ats := rfl
@[simp] theorem vaWrite_chunks (s : State) (p va : Nat) (bs : List Byte) : (vaWrite s p va bs).chunks = s.chunks := rfl
@[simp] theorem vaWrite_dies (s : State) (p va : Nat) (bs : List Byte) : (vaWrite s p va bs).dies = s.dies := rfl
@[simp] theorem vaWrite_clusters (s : State) (p va : Nat) (bs : List Byte) : (vaWrite s p va bs).clusters = s.clusters := rfl
@[simp] theorem vaWrite_cores (s : State) (p va : Nat) (bs : List Byte) : (vaWrite s p va bs).cores = s.cores := rfl
@[simp] theorem vaWrite_launches (s : State) (p va : Nat) (bs : List Byte) : (vaWrite s p va bs).launches = s.launches := rfl
@[simp] theorem vaWrite_blocks (s : State) (p va : Nat) (bs : List Byte) : (vaWrite s p va bs).blocks = s.blocks := rfl
@[simp] theorem vaWrite_front (s : State) (p va : Nat) (bs : List Byte) : (vaWrite s p va bs).front = s.front := rfl
@[simp] theorem vaWrite_focus (s : State) (p va : Nat) (bs : List Byte) : (vaWrite s p va bs).focus = s.focus := rfl
@[simp] theorem vaWrite_issueQ (s : State) (p va : Nat) (bs : List Byte) : (vaWrite s p va bs).issueQ = s.issueQ := rfl
@[simp] theorem vaWrite_agenda (s : State) (p va : Nat) (bs : List Byte) : (vaWrite s p va bs).agenda = s.agenda := rfl
@[simp] theorem vaWrite_tick (s : State) (p va : Nat) (bs : List Byte) : (vaWrite s p va bs).tick = s.tick := rfl
@[simp] theorem vaWrite_nextId (s : State) (p va : Nat) (bs : List Byte) : (vaWrite s p va bs).nextId = s.nextId := rfl

/-! ### dropAccess -/

@[simp] theorem dropAccess_accesses (s : State) (x : Nat) : (dropAccess s x).accesses = s.accesses.filter fun a => a.id != x := rfl
@[simp] theorem dropAccess_time (s : State) (x : Nat) : (dropAccess s x).time = s.time := rfl
@[simp] theorem dropAccess_fabric (s : State) (x : Nat) : (dropAccess s x).fabric = s.fabric := rfl
@[simp] theorem dropAccess_sampled (s : State) (x : Nat) : (dropAccess s x).sampled = s.sampled := rfl
@[simp] theorem dropAccess_pkg (s : State) (x : Nat) : (dropAccess s x).pkg = s.pkg := rfl
@[simp] theorem dropAccess_mem (s : State) (x : Nat) : (dropAccess s x).mem = s.mem := rfl
@[simp] theorem dropAccess_seqNo (s : State) (x : Nat) : (dropAccess s x).seqNo = s.seqNo := rfl
@[simp] theorem dropAccess_tlb (s : State) (x : Nat) : (dropAccess s x).tlb = s.tlb := rfl
@[simp] theorem dropAccess_ats (s : State) (x : Nat) : (dropAccess s x).ats = s.ats := rfl
@[simp] theorem dropAccess_chunks (s : State) (x : Nat) : (dropAccess s x).chunks = s.chunks := rfl
@[simp] theorem dropAccess_dies (s : State) (x : Nat) : (dropAccess s x).dies = s.dies := rfl
@[simp] theorem dropAccess_clusters (s : State) (x : Nat) : (dropAccess s x).clusters = s.clusters := rfl
@[simp] theorem dropAccess_cores (s : State) (x : Nat) : (dropAccess s x).cores = s.cores := rfl
@[simp] theorem dropAccess_launches (s : State) (x : Nat) : (dropAccess s x).launches = s.launches := rfl
@[simp] theorem dropAccess_blocks (s : State) (x : Nat) : (dropAccess s x).blocks = s.blocks := rfl
@[simp] theorem dropAccess_front (s : State) (x : Nat) : (dropAccess s x).front = s.front := rfl
@[simp] theorem dropAccess_focus (s : State) (x : Nat) : (dropAccess s x).focus = s.focus := rfl
@[simp] theorem dropAccess_issueQ (s : State) (x : Nat) : (dropAccess s x).issueQ = s.issueQ := rfl
@[simp] theorem dropAccess_agenda (s : State) (x : Nat) : (dropAccess s x).agenda = s.agenda := rfl
@[simp] theorem dropAccess_tick (s : State) (x : Nat) : (dropAccess s x).tick = s.tick := rfl
@[simp] theorem dropAccess_nextId (s : State) (x : Nat) : (dropAccess s x).nextId = s.nextId := rfl

/-! ### Reading what was changed -/

theorem coreOf_modCore (s : State) (c d : Nat) (f : Core → Core) :
    coreOf (modCore s c f) d = if d = c then f (coreOf s c) else coreOf s d := by
  unfold coreOf modCore
  simp only [tget_tset]
  split <;> simp_all [coreOf]

theorem tget_modBlock (s : State) (b j : Nat) (f : Block → Block) :
    tget (modBlock s b f).blocks j = if j = b then (tget s.blocks b).map f else tget s.blocks j := by
  unfold modBlock
  exact tget_tmod ..

theorem tget_modLaunch (s : State) (l j : Nat) (f : Launch → Launch) :
    tget (modLaunch s l f).launches j = if j = l then (tget s.launches l).map f else tget s.launches j := by
  unfold modLaunch
  exact tget_tmod ..

theorem dieOf_modDie (s : State) (d j : Nat) (f : Die → Die) :
    dieOf (modDie s d f) j = if j = d ∧ d < 4 then f (dieOf s d) else dieOf s j := by
  by_cases hj : j < 4 <;> by_cases hd : d < 4 <;> by_cases he : d = j <;>
    simp [dieOf, modDie, Vector.getD, *] <;> omega

theorem clusterOf_modCluster (s : State) (k j : Nat) (f : Cluster → Cluster) :
    clusterOf (modCluster s k f) j = if j = k ∧ k < 8 then f (clusterOf s k) else clusterOf s j := by
  by_cases hj : j < 8 <;> by_cases hd : k < 8 <;> by_cases he : k = j <;>
    simp [clusterOf, modCluster, Vector.getD, *] <;> omega

end Sys2Proof.Machine
end

