-- ==== Sys2Proof/Laws/Memory.lean ====
section
/-!
SUPPORT. Physical memory: every operation keeps its canonical form, a write stands where it was written, and the views of the dies
go on as the log says.
-/
namespace Sys2Proof.Machine

open Sys2Proof

/-! ### The canonical form -/

theorem foldLog_ok (ws : List CWrite) : ∀ (m : List Host.Cell), cellsOk m = true → cellsOk (foldLog m ws).1 = true := by
  induction ws with
  | nil => intro m h; exact h
  | cons w ws ih =>
    intro m h
    simp only [foldLog]
    split
    · exact ih _ (cellsOk_putCells _ _ h)
    · exact h

theorem settleLog_wf (m : Memory) (h : m.wf = true) : (settleLog m).wf = true := foldLog_ok _ _ h

theorem enterWrite_wf (m : Memory) (id who d : Nat) (cells : List Host.Cell) (eng : Bool) (h : m.wf = true) :
    (enterWrite m id who d cells eng).wf = true := settleLog_wf _ h

theorem enterNear_wf (m : Memory) (id who d scope near : Nat) (cells : List Host.Cell) (h : m.wf = true) :
    (enterNear m id who d scope near cells).wf = true := h

theorem enterParts_wf (m : Memory) (id who d : Nat) (ps : List (List Host.Cell)) (h : m.wf = true) :
    (enterParts m id who d ps).wf = true := h

theorem applyWrite_wf (m : Memory) (d id : Nat) (h : m.wf = true) : (applyWrite m d id).wf = true := settleLog_wf _ h

theorem foldl_putCells_ok (ws : List CWrite) : ∀ (m : List Host.Cell), cellsOk m = true →
    cellsOk (ws.foldl (fun b w => putCells b w.cells) m) = true := by
  induction ws with
  | nil => intro m h; exact h
  | cons w ws ih => intro m h; exact ih _ (cellsOk_putCells _ _ h)

theorem flushLog_wf (m : Memory) (h : m.wf = true) : (flushLog m).wf = true := foldl_putCells_ok _ _ h

theorem physWrite_wf (s : State) (pa : Nat) (bs : List Byte) (h : MemoryCanonical s) : MemoryCanonical (physWrite s pa bs) :=
  cellsOk_wrCells _ _ _ (flushLog_wf _ h)

theorem vaWrite_wf (s : State) (p va : Nat) (bs : List Byte) (h : MemoryCanonical s) : MemoryCanonical (vaWrite s p va bs) :=
  cellsOk_putCells _ _ (flushLog_wf _ h)

theorem logErr_wf (s : State) (type unit loc addr detail : Nat) (h : MemoryCanonical s) :
    MemoryCanonical (logErr s type unit loc addr detail) := by
  unfold logErr
  dsimp only
  split
  · exact h
  · split <;> simp only [MemoryCanonical, raiseMsix] <;> exact physWrite_wf _ _ _ h

/-- A state with the same memory has the form that the other has. -/
theorem canonical_of_mem {s t : State} (h : MemoryCanonical s) (e : t.mem = s.mem) : MemoryCanonical t := by
  unfold MemoryCanonical at *
  rw [e]; exact h

theorem reset_canonical : MemoryCanonical State.reset := rfl

theorem applyAll_wf {α : Type} (l : List α) (f : State → α → State) (hf : ∀ s x, MemoryCanonical s → MemoryCanonical (f s x)) :
    ∀ s, MemoryCanonical s → MemoryCanonical (applyAll s l f) := by
  induction l with
  | nil => intro s h; exact h
  | cons x l ih => intro s h; exact ih _ (hf s x h)

theorem retireTarget_wf (s : State) (d : Nat) (t : Target) (mode : Nat) (h : MemoryCanonical s) :
    MemoryCanonical (retireTarget s d t mode) := physWrite_wf s _ _ h

theorem noteDiscard_wf (s : State) (core : Option Nat) (as : List Nat) (h : MemoryCanonical s) :
    MemoryCanonical (noteDiscard s core as) := by
  unfold noteDiscard
  split
  · exact h
  · exact logErr_wf _ _ _ _ _ _ h

theorem noteBad_wf (s : State) (pasid va loc : Nat) (h : MemoryCanonical s) : MemoryCanonical (noteBad s pasid va loc) := by
  unfold noteBad
  split
  · exact logErr_wf _ _ _ _ _ _ h
  · exact h

theorem noteAbsent_wf (s : State) (pasid va n loc : Nat) (h : MemoryCanonical s) : MemoryCanonical (noteAbsent s pasid va n loc) :=
  applyAll_wf _ _ (fun _ _ h => noteBad_wf _ _ _ _ h) s h

/-- What does not go through a core keeps the form, whatever it retires, keeps out or logs. -/
theorem outsideCells_wf (s : State) (cells : List Host.Cell) (h : MemoryCanonical s) : MemoryCanonical (outsideCells s cells) :=
  noteDiscard_wf _ _ _ (cellsOk_putCells _ _ (flushLog_wf _ (applyAll_wf _ _ (fun _ _ h => retireTarget_wf _ _ _ _ h) s h)))

theorem outsideWrite_wf (s : State) (pa : Nat) (bs : List Byte) (h : MemoryCanonical s) : MemoryCanonical (outsideWrite s pa bs) :=
  outsideCells_wf _ _ h

theorem agentPhys_wf (s : State) (pa : Nat) (bs : List Byte) (h : MemoryCanonical s) : MemoryCanonical (agentPhys s pa bs) :=
  outsideCells_wf _ _ h

theorem agentWrite_wf (s : State) (pasid va : Nat) (bs : List Byte) (h : MemoryCanonical s) :
    MemoryCanonical (agentWrite s pasid va bs) := outsideCells_wf _ _ (noteAbsent_wf _ _ _ _ _ h)

theorem dropLines_wf (s : State) (c : Nat) (p : ILine → Bool) (h : MemoryCanonical s) : MemoryCanonical (dropLines s c p) :=
  applyAll_wf _ _ (fun _ _ h => logErr_wf _ _ _ _ _ _ h) _ h

/-! ### Reads after writes -/

theorem cellAt_cons (c : Host.Cell) (cs : List Host.Cell) (a : Nat) (z : Byte) :
    cellAt (c :: cs) a z = cellAt cs a (if c.1 = a then c.2 else z) := rfl

theorem rdCell_putCells (cs : List Host.Cell) : ∀ (m : List Host.Cell) (a : Nat),
    rdCell (putCells m cs) a = cellAt cs a (rdCell m a) := by
  induction cs with
  | nil => intro m a; rfl
  | cons c cs ih =>
    intro m a
    have h := ih (wrCell m c.1 c.2) a
    simp only [putCells, List.foldl_cons] at h ⊢
    rw [h, cellAt_cons, rdCell_wrCell]
    by_cases e : c.1 = a
    · simp [e]
    · simp [e, Ne.symm e]

theorem lastCell_cons (w : CWrite) (ws : List CWrite) (a : Nat) (z : Byte) :
    lastCell (w :: ws) a z = lastCell ws a (cellAt w.cells a z) := rfl

theorem lastCell_append (xs ys : List CWrite) (a : Nat) (z : Byte) :
    lastCell (xs ++ ys) a z = lastCell ys a (lastCell xs a z) := by simp [lastCell]

theorem rdCell_foldl_putCells (ws : List CWrite) : ∀ (m : List Host.Cell) (a : Nat),
    rdCell (ws.foldl (fun b w => putCells b w.cells) m) a = lastCell ws a (rdCell m a) := by
  induction ws with
  | nil => intro m a; rfl
  | cons w ws ih => intro m a; simp only [List.foldl_cons]; rw [ih, rdCell_putCells, lastCell_cons]

theorem homeCell_flushLog (m : Memory) (a : Nat) : homeCell (flushLog m) a = homeCell m a := by
  simp [homeCell, flushLog, rdCell_foldl_putCells, lastCell]

/-- R364: once every die has applied every write, each view is the home's. -/
theorem viewCell_flushLog (m : Memory) (d a : Nat) : viewCell (flushLog m) d a = homeCell m a := by
  simp [viewCell, homeCell, flushLog, rdCell_foldl_putCells, lastCell]

theorem foldLog_last (ws : List CWrite) : ∀ (m : List Host.Cell) (a : Nat),
    lastCell (foldLog m ws).2 a (rdCell (foldLog m ws).1 a) = lastCell ws a (rdCell m a) := by
  induction ws with
  | nil => intro m a; rfl
  | cons w ws ih =>
    intro m a
    simp only [foldLog]
    split
    · rw [ih, rdCell_putCells, lastCell_cons]
    · rfl

theorem homeCell_settleLog (m : Memory) (a : Nat) : homeCell (settleLog m) a = homeCell m a := foldLog_last _ _ _

theorem foldLog_view (d : Nat) (hd : d < 4) (ws : List CWrite) : ∀ (m : List Host.Cell) (a : Nat),
    lastCell ((foldLog m ws).2.filter fun w => w.applied.contains d) a (rdCell (foldLog m ws).1 a)
      = lastCell (ws.filter fun w => w.applied.contains d) a (rdCell m a) := by
  induction ws with
  | nil => intro m a; rfl
  | cons w ws ih =>
    intro m a
    simp only [foldLog]
    split
    · next h =>
      have hw : w.applied.contains d = true := by
        simp only [List.all_cons, List.all_nil, Bool.and_true, Bool.and_eq_true] at h
        obtain ⟨h0, h1, h2, h3⟩ := h
        match d, hd with
        | 0, _ => exact h0
        | 1, _ => exact h1
        | 2, _ => exact h2
        | 3, _ => exact h3
      rw [ih, rdCell_putCells, List.filter_cons_of_pos (by simpa using hw), lastCell_cons]
    · rfl

theorem viewCell_settleLog (m : Memory) (d : Nat) (hd : d < 4) (a : Nat) : viewCell (settleLog m) d a = viewCell m d a :=
  foldLog_view d hd _ _ _

theorem seenBy_of_all {w : CWrite} {v : Viewer} (hv : v.die < 4) (h : [0, 1, 2, 3].all w.applied.contains = true) :
    w.seenBy v = true := by
  simp only [List.all_cons, List.all_nil, Bool.and_true, Bool.and_eq_true] at h
  obtain ⟨h0, h1, h2, h3⟩ := h
  unfold CWrite.seenBy
  match hd : v.die, hv with
  | 0, _ => rw [h0]; simp
  | 1, _ => rw [h1]; simp
  | 2, _ => rw [h2]; simp
  | 3, _ => rw [h3]; simp

theorem foldLog_near (v : Viewer) (hv : v.die < 4) (ws : List CWrite) : ∀ (m : List Host.Cell) (a : Nat),
    lastCell ((foldLog m ws).2.filter fun w => w.seenBy v) a (rdCell (foldLog m ws).1 a)
      = lastCell (ws.filter fun w => w.seenBy v) a (rdCell m a) := by
  induction ws with
  | nil => intro m a; rfl
  | cons w ws ih =>
    intro m a
    simp only [foldLog]
    split
    · next h =>
      rw [ih, rdCell_putCells, List.filter_cons_of_pos (by simpa using seenBy_of_all hv h), lastCell_cons]
    · rfl

/-- R361: folding what every die has applied changes no observer's bytes. -/
theorem nearCell_settleLog (m : Memory) (v : Viewer) (hv : v.die < 4) (a : Nat) : nearCell (settleLog m) v a = nearCell m v a :=
  foldLog_near v hv _ _ _

/-- R361: once every die has applied every write, each observer reads the home's bytes. -/
theorem nearCell_flushLog (m : Memory) (v : Viewer) (a : Nat) : nearCell (flushLog m) v a = homeCell m a := by
  simp [nearCell, homeCell, flushLog, rdCell_foldl_putCells, lastCell]

/-- R364: a write that enters is at its home at once. -/
theorem homeCell_enterWrite (m : Memory) (id who d : Nat) (cells : List Host.Cell) (eng : Bool) (a : Nat) :
    homeCell (enterWrite m id who d cells eng) a = cellAt cells a (homeCell m a) := by
  rw [enterWrite, homeCell_settleLog]
  simp [homeCell, lastCell]

/-- R364: a write that enters is in the view of its die, and in no other yet. -/
theorem viewCell_enterWrite (m : Memory) (id who d j : Nat) (hj : j < 4) (cells : List Host.Cell) (eng : Bool) (a : Nat) :
    viewCell (enterWrite m id who d cells eng) j a = if j = d then cellAt cells a (viewCell m j a) else viewCell m j a := by
  rw [enterWrite, viewCell_settleLog _ _ hj]
  by_cases h : j = d
  · subst h; simp [viewCell, lastCell]
  · simp [viewCell, lastCell, h]

/-- R361, R364: it is seen by every observer of its die, and by no other yet. -/
theorem nearCell_enterWrite (m : Memory) (id who d : Nat) (v : Viewer) (hv : v.die < 4) (cells : List Host.Cell) (eng : Bool) (a : Nat) :
    nearCell (enterWrite m id who d cells eng) v a = if v.die = d then cellAt cells a (nearCell m v a) else nearCell m v a := by
  rw [enterWrite, nearCell_settleLog _ _ hv]
  by_cases h : v.die = d
  · subst h; simp [nearCell, lastCell, CWrite.seenBy]
  · simp [nearCell, lastCell, CWrite.seenBy, h]

/-- R361, R366: a write of a narrow scope is at its home at once, and is seen by the observers of its scope. -/
theorem homeCell_enterNear (m : Memory) (id who d scope near : Nat) (cells : List Host.Cell) (a : Nat) :
    homeCell (enterNear m id who d scope near cells) a = cellAt cells a (homeCell m a) := by
  simp [homeCell, enterNear, lastCell]

theorem nearCell_enterNear (m : Memory) (id who d scope near : Nat) (v : Viewer) (cells : List Host.Cell) (a : Nat) :
    nearCell (enterNear m id who d scope near cells) v a
      = if (scope = 1 ∧ near = v.b) ∨ (scope = 2 ∧ near = v.cl) then cellAt cells a (nearCell m v a) else nearCell m v a := by
  by_cases h : (scope = 1 ∧ near = v.b) ∨ (scope = 2 ∧ near = v.cl)
  · simp [nearCell, enterNear, lastCell, CWrite.seenBy, h]
  · simp only [not_or, not_and] at h
    have : ¬((scope = 1 ∧ near = v.b) ∨ (scope = 2 ∧ near = v.cl)) := by simp only [not_or, not_and]; exact h
    rw [if_neg this]
    simp [nearCell, enterNear, CWrite.seenBy, this]

theorem homeCell_physWrite (s : State) (pa a : Nat) (bs : List Byte) :
    homeCell (physWrite s pa bs).mem a = if pa ≤ a ∧ a < pa + bs.length then bs.getD (a - pa) 0 else homeCell s.mem a := by
  have h : homeCell (physWrite s pa bs).mem a = rdCell (wrCells (flushLog s.mem).base pa bs) a := rfl
  rw [h, rdCell_wrCells, show rdCell (flushLog s.mem).base a = homeCell (flushLog s.mem) a from rfl, homeCell_flushLog]

theorem homeCell_vaWrite (s : State) (p va a : Nat) (bs : List Byte) :
    homeCell (vaWrite s p va bs).mem a = cellAt (vaCells s p va bs) a (homeCell s.mem a) := by
  have h : homeCell (vaWrite s p va bs).mem a = rdCell (putCells (flushLog s.mem).base (vaCells s p va bs)) a := rfl
  rw [h, rdCell_putCells, show rdCell (flushLog s.mem).base a = homeCell (flushLog s.mem) a from rfl, homeCell_flushLog]

end Sys2Proof.Machine
end

