-- ==== Sys2Proof/Tests/Slice0.lean ====
section
/-!
SUPPORT. Tests. Decoding: words put together by hand from R41 to R59 and the opcode map, with what they stand for. One
step: values from the examples of the manual, or worked out from its rules. Witnesses: for every claim with hypotheses, a
state and operands that meet them, `witness_` and the claim's name.
-/
namespace Sys2Proof.Tests

-- One proof after another: the whole package is compiled as one text, in which many at once take many threads.
set_option Elab.async false

open Sys2Proof.Machine

/-! ### States to start from -/

/-- A block of one group of 32 live lanes, one gang, that issues. -/
def bench : State := { placed State.reset [] (.group 1 0 0xFF) with focus := some (.group 1 0 0xFF), issueQ := [] }

/-- The same with a matrix sequencer that issues, forked. -/
def seqBench : State := { placed State.reset [] (.mseq 1) with focus := some (.mseq 1), issueQ := [] }

def onBlock (s : State) (f : Block → Block) : State := { s with blocks := s.blocks.map fun x => (x.1, f x.2) }
def onGroup (s : State) (f : Group → Group) : State :=
  onBlock s fun k => { k with groups := k.groups.map fun x => (x.1, f x.2) }
def onSlices (s : State) (f : Nat → Slice → Slice) : State := onGroup s fun g => { g with slices := g.slices.mapIdx f }
def onRec (s : State) (f : LaunchRec → LaunchRec) : State :=
  { s with launches := s.launches.map fun x => (x.1, { x.2 with r := f x.2.r }) }
def onFront (s : State) (f : FrontRegs → FrontRegs) : State := { s with front := { s.front with r := f s.front.r } }

/-- A register whose lane `k` holds `f k`. -/
def lanes (f : Nat → Nat) : Line := { vals := (List.range 32).map fun k => BitVec.ofNat 32 (f k) }

/-- A register that holds one value in every lane. -/
def same (v : Nat) : Line := lanes fun _ => v

/-- The group of a state with these registers live. -/
def regs (s : State) (ls : List (Nat × Line)) : State := onGroup s fun g => { g with lines := ls }

/-- Only lane 0 of the group is live. -/
def loneLane (s : State) : State :=
  onSlices s fun j x => if j = 0 then { x with act := 1, live := 1 } else { x with act := 0, live := 0 }

/-- Operands without modifiers. -/
def ops (ty : Ty) (d a b c : Nat) : ExtOps :=
  { noOps with ty := ty, d := BitVec.ofNat 8 d, a := plain (BitVec.ofNat 8 a), b := plain (BitVec.ofNat 8 b), c := plain (BitVec.ofNat 8 c) }

/-- Operands with an immediate. -/
def opsI (ty : Ty) (d a b c imm : Nat) : ExtOps := { ops ty d a b c with imm := BitVec.ofNat 14 imm }

/-- The first of these operands that the instruction may have. -/
def pick (f : ExtOps → Instr) (l : List ExtOps) : ExtOps := (l.find? fun o => (f o).wellFormed).getD noOps

/-- Operands of a base instruction. -/
def dA (d a : Nat) : BaseOps := ⟨none, BitVec.ofNat 8 d, BitVec.ofNat 8 a, false⟩

/-- The instruction is free to issue, in a context that meets `q`. -/
def meets (i : Instr) (s : State) (q : Ctx → Bool := fun _ => true) : Bool :=
  match ctxOf s i with
  | some c => genericCauses c == [] && dataReady c && q c
  | none => false

theorem meets_iff (i : Instr) (s : State) (q : Ctx → Bool) :
    meets i s q = true ↔ ∃ c, Free i s c ∧ q c = true := by
  unfold meets Free
  cases h : ctxOf s i <;> simp [and_assoc]

/-- There is a context, and it meets `q`. -/
def within (i : Instr) (s : State) (q : Ctx → Bool) : Bool := ((ctxOf s i).map q).getD false

/-- A next state is answered, and it meets `q`. -/
def answers (o : Out) (q : State → Bool := fun _ => true) : Bool :=
  match o with
  | .next t => q t
  | _ => false

/-- What lane `k` of register `r` of group 0 holds. -/
def reg (t : State) (r k : Nat) : Nat :=
  (((tget t.blocks 1).bind fun b => tget b.groups 0).map fun g => rdReg g r k).getD 0

/-- The sticky flags of group 0. -/
def flagsOf (t : State) : Nat := (((tget t.blocks 1).bind fun b => tget b.groups 0).map fun g => g.flags.toNat).getD 0

/-! ### Decoding -/

/-- Each list of words decodes to the instruction beside it. -/
def decodesAll (l : List (List Nat × Instr)) : Bool := l.all fun p => (decodeBits (wordsNat p.1)).toOption == some p.2

/-- No word of the list decodes. -/
def decodesNone (l : List (List Nat)) : Bool := l.all fun p => (decodeBits (wordsNat p)).toOption == none

/-- R40 to R59, R73 to R81: words of base opcodes 0x00 to 0x0F with every field in use, and what they stand for. -/
theorem test_decode_base_00 : decodesAll [
    ([0x00004604], .nop (some ⟨1, true⟩))
  , ([0x0E1A0A08], .movBase ⟨(some ⟨2, false⟩), 52, 28, false⟩)
  , ([0xFF274E0C], .moviBase (some ⟨3, true⟩) 78 0x1FE)
  , ([0x0034120E, 0x89ABCDEC, 0x00000000], .moviBaseLiteral (some ⟨4, false⟩) 104 0x89ABCDEC)
  , ([0x00415612, 0x89ABCDEC, 0x12345678], .moviI64 (some ⟨5, true⟩) 130 0x1234567889ABCDEC)
  , ([0x2A4E1A14], .addBase ⟨(some ⟨6, false⟩), 156, 84, false⟩)
  , ([0xB15B5E18], .subBase ⟨(some ⟨7, true⟩), 182, 98, true⟩)
  , ([0x3804221C], .mulBase ⟨(some ⟨8, false⟩), 8, 112, false⟩)
  , ([0xBF116620], .andBase ⟨(some ⟨9, true⟩), 34, 126, true⟩)
  , ([0x461E2A24], .orBase ⟨(some ⟨10, false⟩), 60, 140, false⟩)
  , ([0xCD2B6E28], .xorBase ⟨(some ⟨11, true⟩), 86, 154, true⟩)
  , ([0x5438322C], .andnBase ⟨(some ⟨12, false⟩), 112, 168, false⟩)
  , ([0xDB457630], .notBase ⟨(some ⟨13, true⟩), 138, 182, true⟩)
  , ([0x62523A34], .shlBase ⟨(some ⟨14, false⟩), 164, 196, false⟩)
  , ([0x855F7E38], .shrBase ⟨(some ⟨15, true⟩), 190, 10, true⟩)
  , ([0x0C08023C], .sarBase ⟨(some ⟨0, false⟩), 16, 24, false⟩)] = true := by decide

/-- R40 to R59, R73 to R81: words of base opcodes 0x10 to 0x1F with every field in use, and what they stand for. -/
theorem test_decode_base_01 : decodesAll [
    ([0x93154640], .minI32Base ⟨(some ⟨1, true⟩), 42, 38, true⟩)
  , ([0x1A220A44], .maxI32Base ⟨(some ⟨2, false⟩), 68, 52, false⟩)
  , ([0xA12F4E48], .minN32Base ⟨(some ⟨3, true⟩), 94, 66, true⟩)
  , ([0x283C124C], .maxN32Base ⟨(some ⟨4, false⟩), 120, 80, false⟩)
  , ([0xAF495650], .negBase ⟨(some ⟨5, true⟩), 146, 94, true⟩)
  , ([0x36561A54], .absBase ⟨(some ⟨6, false⟩), 172, 108, false⟩)
  , ([0xBD635E58], .popcBase ⟨(some ⟨7, true⟩), 198, 122, true⟩)
  , ([0x440C225C], .clzBase ⟨(some ⟨8, false⟩), 24, 136, false⟩)
  , ([0xCB196660], .faddBase ⟨(some ⟨9, true⟩), 50, 150, true⟩)
  , ([0x52262A64], .fsubBase ⟨(some ⟨10, false⟩), 76, 164, false⟩)
  , ([0xD9336E68], .fmulBase ⟨(some ⟨11, true⟩), 102, 178, true⟩)
  , ([0x6040326C], .fnegBase ⟨(some ⟨12, false⟩), 128, 192, false⟩)
  , ([0xF806F670], .bra (some ⟨13, true⟩) 0x1F00D)
  , ([0x00003A72, 0x89ABCDEC, 0x12345678], .braLiteral (some ⟨14, false⟩) 0x1234567889ABCDEC)
  , ([0x91007E74], .brx (some ⟨15, true⟩) 34 true)
  , ([0x0010027A, 0x89ABCDEC, 0x12345678], .call (some ⟨0, false⟩) 32 0x1234567889ABCDEC)
  , ([0x9F1D467C], .calli ⟨(some ⟨1, true⟩), 58, 62, true⟩)] = true := by decide

/-- R40 to R59, R73 to R81: words of base opcodes 0x20 to 0x2F with every field in use, and what they stand for. -/
theorem test_decode_base_02 : decodesAll [
    ([0x26000A80], .ret (some ⟨2, false⟩) 76 false)
  , ([0x00000084], .jn)
  , ([0x00000088], .regang)
  , ([0x0000568C], .exit (some ⟨5, true⟩))
  , ([0x00000090], .yield)
  , ([0x00070094], .kill 14)
  , ([0x52800098], .trap 0xA5)
  , ([0x0000009C], .tret)
  , ([0x000000A0], .brkpt)] = true := by decide

/-- R40 to R59, R73 to R81: words of OP 0x01 with every field in use, and what they stand for. -/
theorem test_decode_ext_01 : decodesAll [
    ([0x00000005, 0x00000000, 0xBCC40000], .sleep ⟨none, 0, .rn, 0, ⟨0, false, false, 0⟩, ⟨0, false, false, 0⟩, ⟨0, false, false, 0⟩, 0x2F31, false, .i32, none⟩)
  , ([0x00048A05, 0x04000000, 0x00800000], .mfs ⟨(some ⟨2, false⟩), 9, .rn, 0, ⟨0, false, false, 0⟩, ⟨0, false, false, 0⟩, ⟨0, false, false, 0⟩, 0x20, false, .i32, none⟩)
  , ([0x00004E05, 0x0800004D, 0x00840000], .mts ⟨(some ⟨3, true⟩), 0, .rn, 0, ⟨77, false, false, 0⟩, ⟨0, false, false, 0⟩, ⟨0, false, false, 0⟩, 0x21, false, .i32, none⟩)
  , ([0x00001205, 0x0C000000, 0x00080000], .phint ⟨(some ⟨4, false⟩), 0, .rn, 0, ⟨0, false, false, 0⟩, ⟨0, false, false, 0⟩, ⟨0, false, false, 0⟩, 0x2, false, .i32, none⟩)] = true := by decide

/-- R40 to R59, R73 to R81: words of OP 0x02 with every field in use, and what they stand for. -/
theorem test_decode_ext_02 : decodesAll [
    ([0x00075609, 0x00000050, 0x0000A000], .mov ⟨(some ⟨5, true⟩), 14, .rn, 0, ⟨80, false, false, 0⟩, ⟨0, false, false, 0⟩, ⟨0, false, false, 0⟩, 0x0, false, .f64, none⟩)
  , ([0x80089A0B, 0x04000000, 0x00018000, 0x12345678, 0x00000000], .movi ⟨(some ⟨6, false⟩), 17, .rn, 0, ⟨0, false, false, 0⟩, ⟨0, false, false, 0⟩, ⟨0, false, false, 0⟩, 0x0, false, .i8, some 0x12345678⟩)
  , ([0x4009DE09, 0x08F22255, 0x0000E0E1], .sel ⟨(some ⟨7, true⟩), 19, .rn, 0, ⟨85, false, true, 0⟩, ⟨145, true, true, 1⟩, ⟨225, false, false, 0⟩, 0x0, false, .bf16, none⟩)
  , ([0x00000009, 0x0C000000, 0x02100000], .xacq ⟨none, 0, .rn, 0, ⟨0, false, false, 0⟩, ⟨0, false, false, 0⟩, ⟨0, false, false, 0⟩, 0x84, false, .i32, none⟩)
  , ([0x00000009, 0x10000000, 0x02100000], .xrel ⟨none, 0, .rn, 0, ⟨0, false, false, 0⟩, ⟨0, false, false, 0⟩, ⟨0, false, false, 0⟩, 0x84, false, .i32, none⟩)
  , ([0xC00CAA09, 0x1652EF5B, 0x00B54000], .shfl ⟨(some ⟨10, false⟩), 25, .rn, 0, ⟨91, true, true, 3⟩, ⟨151, false, true, 4⟩, ⟨0, false, false, 0⟩, 0x2D, false, .e2m1, none⟩)
  , ([0xC00DEE09, 0x1800125D, 0x00556000], .bcast ⟨(some ⟨11, true⟩), 27, .rn, 0, ⟨93, false, true, 4⟩, ⟨0, false, false, 0⟩, ⟨0, false, false, 0⟩, 0x15, false, .cb4, none⟩)
  , ([0x000EB209, 0x1C13615F, 0xA54C0000], .perm ⟨(some ⟨12, false⟩), 29, .rn, 0, ⟨95, true, false, 0⟩, ⟨155, false, false, 0⟩, ⟨0, false, false, 0⟩, 0x2953, false, .i32, none⟩)
  , ([0x000FF609, 0x20000061, 0x00140000], .vote ⟨(some ⟨13, true⟩), 31, .rn, 0, ⟨97, false, false, 0⟩, ⟨0, false, false, 0⟩, ⟨0, false, false, 0⟩, 0x5, false, .i32, none⟩)
  , ([0x4010BA09, 0x2413FF63, 0x0001C000], .rdlane ⟨(some ⟨14, false⟩), 33, .rn, 0, ⟨99, true, true, 7⟩, ⟨159, false, false, 0⟩, ⟨0, false, false, 0⟩, 0x0, false, .i16, none⟩)
  , ([0x4011FE09, 0x28342265, 0x0001E000], .wrlane ⟨(some ⟨15, true⟩), 35, .rn, 0, ⟨101, false, true, 0⟩, ⟨161, true, false, 0⟩, ⟨0, false, false, 0⟩, 0x0, false, .n16, none⟩)
  , ([0x80128209, 0x2D546767, 0x00010000], .pack ⟨(some ⟨0, false⟩), 37, .rn, 0, ⟨103, true, true, 1⟩, ⟨163, false, true, 2⟩, ⟨0, false, false, 0⟩, 0x0, false, .e4m3, none⟩)
  , ([0x8013C609, 0x30000A69, 0x00052000], .unpack ⟨(some ⟨1, true⟩), 39, .rn, 0, ⟨105, false, true, 2⟩, ⟨0, false, false, 0⟩, ⟨0, false, false, 0⟩, 0x1, false, .e5m2, none⟩)
  , ([0xC0148A09, 0x34000F6B, 0x00194000], .swz ⟨(some ⟨2, false⟩), 41, .rn, 0, ⟨107, true, true, 3⟩, ⟨0, false, false, 0⟩, ⟨0, false, false, 0⟩, 0x6, false, .e2m1, none⟩)] = true := by decide

/-- R40 to R59, R73 to R81: words of OP 0x03 with every field in use, and what they stand for. -/
theorem test_decode_ext_03_a : decodesAll [
    ([0x00154E0D, 0x0040006C, 0xBFB46000], .add ⟨(some ⟨3, true⟩), 42, .rn, 0, ⟨108, false, false, 0⟩, ⟨0, false, true, 0⟩, ⟨0, false, false, 0⟩, 0x2FED, false, .n64, none⟩)
  , ([0x4016920D, 0x0755776F, 0x0001C000], .sub ⟨(some ⟨4, false⟩), 45, .rn, 0, ⟨111, true, true, 5⟩, ⟨171, false, true, 6⟩, ⟨0, false, false, 0⟩, 0x0, false, .i16, none⟩)
  , ([0x0017560D, 0x0835A071, 0x000020E5], .addc ⟨(some ⟨5, true⟩), 46, .rn, 0, ⟨113, false, false, 0⟩, ⟨173, true, false, 0⟩, ⟨229, false, false, 0⟩, 0x0, false, .n32, none⟩)
  , ([0x00181A0D, 0x0C15E173, 0x000001E7], .subb ⟨(some ⟨6, false⟩), 48, .rn, 0, ⟨115, true, false, 0⟩, ⟨175, false, false, 0⟩, ⟨231, true, false, 0⟩, 0x0, false, .i32, none⟩)
  , ([0x8019DE0D, 0x10F62275, 0x0001A000], .sadd ⟨(some ⟨7, true⟩), 51, .rn, 0, ⟨117, false, true, 0⟩, ⟨177, true, true, 1⟩, ⟨0, false, false, 0⟩, 0x0, false, .n8, none⟩)
  , ([0x001AA20F, 0x14000177, 0x00000000, 0x12345678, 0x00000000], .ssub ⟨(some ⟨8, false⟩), 53, .rn, 0, ⟨119, true, false, 0⟩, ⟨0, false, false, 0⟩, ⟨0, false, false, 0⟩, 0x0, false, .i32, some 0x12345678⟩)
  , ([0x001BE60D, 0x18400079, 0xBFB42000], .and ⟨(some ⟨9, true⟩), 55, .rn, 0, ⟨121, false, false, 0⟩, ⟨0, false, true, 0⟩, ⟨0, false, false, 0⟩, 0x2FED, false, .n32, none⟩)
  , ([0x001C2A0D, 0x1C16C17A, 0x00004000], .or ⟨(some ⟨10, false⟩), 56, .rn, 0, ⟨122, true, false, 0⟩, ⟨182, false, false, 0⟩, ⟨0, false, false, 0⟩, 0x0, false, .i64, none⟩)
  , ([0x001D6E0F, 0x2000007C, 0x00006000, 0x12345678, 0x9ABCDEF0], .xor ⟨(some ⟨11, true⟩), 58, .rn, 0, ⟨124, false, false, 0⟩, ⟨0, false, false, 0⟩, ⟨0, false, false, 0⟩, 0x0, false, .n64, some 0x9ABCDEF012345678⟩)
  , ([0x401EB20D, 0x2757777F, 0x0001C000], .andn ⟨(some ⟨12, false⟩), 61, .rn, 0, ⟨127, true, true, 5⟩, ⟨187, false, true, 6⟩, ⟨0, false, false, 0⟩, 0x0, false, .i16, none⟩)
  , ([0x401FF60D, 0x28001A81, 0x0001E000], .not ⟨(some ⟨13, true⟩), 63, .rn, 0, ⟨129, false, true, 6⟩, ⟨0, false, false, 0⟩, ⟨0, false, false, 0⟩, 0x0, false, .n16, none⟩)
  , ([0x00023A0D, 0x2C17C146, 0x02B041DE], .lfn ⟨(some ⟨14, false⟩), 4, .rn, 0, ⟨70, true, false, 0⟩, ⟨190, false, false, 0⟩, ⟨222, true, false, 0⟩, 0xAC, false, .i64, none⟩)
  , ([0x00037E0F, 0x2C380048, 0x000060E0, 0x0000BEEF, 0x00000000], .lfnD ⟨(some ⟨15, true⟩), 6, .rn, 0, ⟨72, false, false, 0⟩, ⟨192, true, false, 0⟩, ⟨224, false, false, 0⟩, 0x0, false, .n64, some 0xBEEF⟩)
  , ([0x0004820D, 0x3018614B, 0x00000000], .shl ⟨(some ⟨0, false⟩), 9, .rn, 0, ⟨75, true, false, 0⟩, ⟨195, false, false, 0⟩, ⟨0, false, false, 0⟩, 0x0, false, .i32, none⟩)
  , ([0x0005C60F, 0x3400004D, 0x00002000, 0x12345678, 0x00000000], .shr ⟨(some ⟨1, true⟩), 11, .rn, 0, ⟨77, false, false, 0⟩, ⟨0, false, false, 0⟩, ⟨0, false, false, 0⟩, 0x0, false, .n32, some 0x12345678⟩)
  , ([0x00060A0D, 0x3840014E, 0xBFB44000], .sar ⟨(some ⟨2, false⟩), 12, .rn, 0, ⟨78, true, false, 0⟩, ⟨0, false, true, 0⟩, ⟨0, false, false, 0⟩, 0x2FED, false, .i64, none⟩)
  , ([0x00074E0D, 0x3C390050, 0x00006000], .rol ⟨(some ⟨3, true⟩), 14, .rn, 0, ⟨80, false, false, 0⟩, ⟨200, true, false, 0⟩, ⟨0, false, false, 0⟩, 0x0, false, .n64, none⟩)
  , ([0x4008920F, 0x40001753, 0x0001C000, 0x12345678, 0x00000000], .ror ⟨(some ⟨4, false⟩), 17, .rn, 0, ⟨83, true, true, 5⟩, ⟨0, false, false, 0⟩, ⟨0, false, false, 0⟩, 0x0, false, .i16, some 0x12345678⟩)
  , ([0x0009D60D, 0x4439A055, 0x000020D5], .fsh ⟨(some ⟨5, true⟩), 19, .rn, 0, ⟨85, false, false, 0⟩, ⟨205, true, false, 0⟩, ⟨213, false, false, 0⟩, 0x0, false, .n32, none⟩)
  , ([0x000A1A0D, 0x48000156, 0x0B144000], .bfx ⟨(some ⟨6, false⟩), 20, .rn, 0, ⟨86, true, false, 0⟩, ⟨0, false, false, 0⟩, ⟨0, false, false, 0⟩, 0x2C5, false, .i64, none⟩)
  , ([0x000B5E0D, 0x4C3A0058, 0x0B144000], .bfi ⟨(some ⟨7, true⟩), 22, .rn, 0, ⟨88, false, false, 0⟩, ⟨208, true, false, 0⟩, ⟨0, false, false, 0⟩, 0x2C5, false, .i64, none⟩)
  , ([0x000CA20D, 0x5000015B, 0x00000000], .popc ⟨(some ⟨8, false⟩), 25, .rn, 0, ⟨91, true, false, 0⟩, ⟨0, false, false, 0⟩, ⟨0, false, false, 0⟩, 0x0, false, .i32, none⟩)
  , ([0x000DE60D, 0x5400005D, 0x00002000], .clz ⟨(some ⟨9, true⟩), 27, .rn, 0, ⟨93, false, false, 0⟩, ⟨0, false, false, 0⟩, ⟨0, false, false, 0⟩, 0x0, false, .n32, none⟩)
  , ([0x000E2A0D, 0x5800015E, 0x00004000], .ctz ⟨(some ⟨10, false⟩), 28, .rn, 0, ⟨94, true, false, 0⟩, ⟨0, false, false, 0⟩, ⟨0, false, false, 0⟩, 0x0, false, .i64, none⟩)] = true := by decide

/-- R40 to R59, R73 to R81: words of OP 0x03 with every field in use, and what they stand for. -/
theorem test_decode_ext_03_b : decodesAll [
    ([0x000F6E0D, 0x5C000060, 0x00006000], .brev ⟨(some ⟨11, true⟩), 30, .rn, 0, ⟨96, false, false, 0⟩, ⟨0, false, false, 0⟩, ⟨0, false, false, 0⟩, 0x0, false, .n64, none⟩)
  , ([0x4010B20D, 0x63517763, 0x0001C000], .min ⟨(some ⟨12, false⟩), 33, .rn, 0, ⟨99, true, true, 5⟩, ⟨139, false, true, 6⟩, ⟨0, false, false, 0⟩, 0x0, false, .i16, none⟩)
  , ([0x4011F60F, 0x64001A65, 0x0001E000, 0x12345678, 0x00000000], .max ⟨(some ⟨13, true⟩), 35, .rn, 0, ⟨101, false, true, 6⟩, ⟨0, false, false, 0⟩, ⟨0, false, false, 0⟩, 0x0, false, .n16, some 0x12345678⟩)
  , ([0x8012BA0D, 0x68001F67, 0x00018000], .abs ⟨(some ⟨14, false⟩), 37, .rn, 0, ⟨103, true, true, 7⟩, ⟨0, false, false, 0⟩, ⟨0, false, false, 0⟩, 0x0, false, .i8, none⟩)
  , ([0x8013FE0D, 0x6C000269, 0x0001A000], .neg ⟨(some ⟨15, true⟩), 39, .rn, 0, ⟨105, false, true, 0⟩, ⟨0, false, false, 0⟩, ⟨0, false, false, 0⟩, 0x0, false, .n8, none⟩)
  , ([0x0014820F, 0x7000016B, 0x00100000, 0x12345678, 0x00000000], .cmp ⟨(some ⟨0, false⟩), 41, .rn, 0, ⟨107, true, false, 0⟩, ⟨0, false, false, 0⟩, ⟨0, false, false, 0⟩, 0x4, false, .i32, some 0x12345678⟩)] = true := by decide

/-- R40 to R59, R73 to R81: words of OP 0x04 with every field in use, and what they stand for. -/
theorem test_decode_ext_04 : decodesAll [
    ([0x0015C611, 0x0040006D, 0xBFB42000], .mul ⟨(some ⟨1, true⟩), 43, .rn, 0, ⟨109, false, false, 0⟩, ⟨0, false, true, 0⟩, ⟨0, false, false, 0⟩, 0x2FED, false, .n32, none⟩)
  , ([0x40168A11, 0x0652EF6F, 0x0001C000], .mulhi ⟨(some ⟨2, false⟩), 45, .rn, 0, ⟨111, true, true, 3⟩, ⟨151, false, true, 4⟩, ⟨0, false, false, 0⟩, 0x0, false, .i16, none⟩)
  , ([0x4017CE11, 0x0AF33271, 0x0001FAD9], .mad ⟨(some ⟨3, true⟩), 47, .rn, 0, ⟨113, false, true, 4⟩, ⟨153, true, true, 5⟩, ⟨217, false, true, 6⟩, 0x0, false, .n16, none⟩)
  , ([0x00181211, 0x0C136173, 0x000001DA], .madw ⟨(some ⟨4, false⟩), 48, .rn, 0, ⟨115, true, false, 0⟩, ⟨155, false, false, 0⟩, ⟨218, true, false, 0⟩, 0x0, false, .i32, none⟩)
  , ([0x8019D611, 0x13F3BA75, 0x0003A0DD], .dot4 ⟨(some ⟨5, true⟩), 51, .rn, 0, ⟨117, false, true, 6⟩, ⟨157, true, true, 7⟩, ⟨221, false, false, 0⟩, 0x0, true, .n8, none⟩)
  , ([0x051A1A13, 0x14000176, 0x00004000, 0x12345678, 0x9ABCDEF0], .mul64 ⟨(some ⟨6, false⟩), 52, .rn, 10, ⟨118, true, false, 0⟩, ⟨0, false, false, 0⟩, ⟨0, false, false, 0⟩, 0x0, false, .i64, some 0x9ABCDEF012345678⟩)
  , ([0x059B5E11, 0x18400078, 0xBFB46000], .mulhi64 ⟨(some ⟨7, true⟩), 54, .rn, 11, ⟨120, false, false, 0⟩, ⟨0, false, true, 0⟩, ⟨0, false, false, 0⟩, 0x2FED, false, .n64, none⟩)
  , ([0x061C2211, 0x1C14417A, 0x000041E2], .mad64 ⟨(some ⟨8, false⟩), 56, .rn, 12, ⟨122, true, false, 0⟩, ⟨162, false, false, 0⟩, ⟨226, true, false, 0⟩, 0x0, false, .i64, none⟩)
  , ([0x469DE613, 0x20000A7D, 0x0001E000, 0x12345678, 0x00000000], .idiv ⟨(some ⟨9, true⟩), 59, .rn, 13, ⟨125, false, true, 2⟩, ⟨0, false, false, 0⟩, ⟨0, false, false, 0⟩, 0x0, false, .n16, some 0x12345678⟩)
  , ([0x871EAA11, 0x2654EF7F, 0x00018000], .irem ⟨(some ⟨10, false⟩), 61, .rn, 14, ⟨127, true, true, 3⟩, ⟨167, false, true, 4⟩, ⟨0, false, false, 0⟩, 0x0, false, .i8, none⟩)
  , ([0x079F6E11, 0x28350080, 0x00006000], .idiv64 ⟨(some ⟨11, true⟩), 62, .rn, 15, ⟨128, false, false, 0⟩, ⟨168, true, false, 0⟩, ⟨0, false, false, 0⟩, 0x0, false, .n64, none⟩)
  , ([0x00823213, 0x2C000146, 0x00004000, 0x12345678, 0x9ABCDEF0], .irem64 ⟨(some ⟨12, false⟩), 4, .rn, 1, ⟨70, true, false, 0⟩, ⟨0, false, false, 0⟩, ⟨0, false, false, 0⟩, 0x0, false, .i64, some 0x9ABCDEF012345678⟩)] = true := by decide

/-- R40 to R59, R73 to R81: words of OP 0x05 with every field in use, and what they stand for. -/
theorem test_decode_ext_05 : decodesAll [
    ([0x6003F615, 0x03F5BA49, 0x0000C000], .fadd ⟨(some ⟨13, true⟩), 7, .ra, 0, ⟨73, false, true, 6⟩, ⟨173, true, true, 7⟩, ⟨0, false, false, 0⟩, 0x0, false, .f16, none⟩)
  , ([0x6804BA15, 0x0455FF4B, 0x0000E000], .fsub ⟨(some ⟨14, false⟩), 9, .rdyn, 0, ⟨75, true, true, 7⟩, ⟨175, false, true, 0⟩, ⟨0, false, false, 0⟩, 0x0, false, .bf16, none⟩)
  , ([0x2005FE17, 0x0800004D, 0x00008000, 0x12345678, 0x00000000], .fmul ⟨(some ⟨15, true⟩), 11, .ra, 0, ⟨77, false, false, 0⟩, ⟨0, false, false, 0⟩, ⟨0, false, false, 0⟩, 0x0, false, .f32, some 0x12345678⟩)
  , ([0x68068215, 0x0D56674F, 0x0000CFDB], .fma ⟨(some ⟨0, false⟩), 13, .rdyn, 0, ⟨79, true, true, 1⟩, ⟨179, false, true, 2⟩, ⟨219, true, true, 3⟩, 0x0, false, .f16, none⟩)
  , ([0x4007C615, 0x11F6AA51, 0x0000E000], .fmin ⟨(some ⟨1, true⟩), 15, .rn, 0, ⟨81, false, true, 2⟩, ⟨181, true, true, 3⟩, ⟨0, false, false, 0⟩, 0x0, false, .bf16, none⟩)
  , ([0x00088A17, 0x14000153, 0x00008000, 0x12345678, 0x00000000], .fmax ⟨(some ⟨2, false⟩), 17, .rn, 0, ⟨83, true, false, 0⟩, ⟨0, false, false, 0⟩, ⟨0, false, false, 0⟩, 0x0, false, .f32, some 0x12345678⟩)
  , ([0x4009CE15, 0x1AF73255, 0x0034C000], .fcmp ⟨(some ⟨3, true⟩), 19, .rn, 0, ⟨85, false, true, 4⟩, ⟨185, true, true, 5⟩, ⟨0, false, false, 0⟩, 0xD, false, .f16, none⟩)
  , ([0x680A9215, 0x1C001757, 0x0022E000], .fcvt ⟨(some ⟨4, false⟩), 21, .rdyn, 0, ⟨87, true, true, 5⟩, ⟨0, false, false, 0⟩, ⟨0, false, false, 0⟩, 0x8, true, .bf16, none⟩)
  , ([0xA00BD615, 0x20001A59, 0x00310000], .icvt ⟨(some ⟨5, true⟩), 23, .ra, 0, ⟨89, false, true, 6⟩, ⟨0, false, false, 0⟩, ⟨0, false, false, 0⟩, 0xC, false, .e4m3, none⟩)
  , ([0xA80C9A15, 0x24001F5B, 0x001B8000], .fcvti ⟨(some ⟨6, false⟩), 25, .rdyn, 0, ⟨91, true, true, 7⟩, ⟨0, false, false, 0⟩, ⟨0, false, false, 0⟩, 0x6, true, .i8, none⟩)
  , ([0x600DDE15, 0x2800025D, 0x0000E000], .frnd ⟨(some ⟨7, true⟩), 27, .ra, 0, ⟨93, false, true, 0⟩, ⟨0, false, false, 0⟩, ⟨0, false, false, 0⟩, 0x0, false, .bf16, none⟩)
  , ([0x280EA215, 0x2C18615F, 0x00008000], .fscale ⟨(some ⟨8, false⟩), 29, .rdyn, 0, ⟨95, true, false, 0⟩, ⟨195, false, false, 0⟩, ⟨0, false, false, 0⟩, 0x0, false, .f32, none⟩)
  , ([0xA01BD615, 0x3011BA79, 0x001B2000], .fcvtMx ⟨(some ⟨5, true⟩), 55, .ra, 0, ⟨121, false, true, 6⟩, ⟨141, false, false, 0⟩, ⟨0, false, false, 0⟩, 0x6, true, .e5m2, none⟩)] = true := by decide

/-- R40 to R59, R73 to R81: words of OP 0x06 with every field in use, and what they stand for. -/
theorem test_decode_ext_06 : decodesAll [
    ([0x200F6619, 0x00388060, 0x0000A000], .faddD ⟨(some ⟨9, true⟩), 30, .ra, 0, ⟨96, false, false, 0⟩, ⟨196, true, false, 0⟩, ⟨0, false, false, 0⟩, 0x0, false, .f64, none⟩)
  , ([0x28102A19, 0x0418C162, 0x0000A000], .fsubD ⟨(some ⟨10, false⟩), 32, .rdyn, 0, ⟨98, true, false, 0⟩, ⟨198, false, false, 0⟩, ⟨0, false, false, 0⟩, 0x0, false, .f64, none⟩)
  , ([0x20116E1B, 0x08000064, 0x0000A000, 0x12345678, 0x9ABCDEF0], .fmulD ⟨(some ⟨11, true⟩), 34, .ra, 0, ⟨100, false, false, 0⟩, ⟨0, false, false, 0⟩, ⟨0, false, false, 0⟩, 0x0, false, .f64, some 0x9ABCDEF012345678⟩)
  , ([0x28123219, 0x0C194166, 0x0000A1DA], .fmaD ⟨(some ⟨12, false⟩), 36, .rdyn, 0, ⟨102, true, false, 0⟩, ⟨202, false, false, 0⟩, ⟨218, true, false, 0⟩, 0x0, false, .f64, none⟩)
  , ([0x00137619, 0x10398068, 0x0000A000], .fminD ⟨(some ⟨13, true⟩), 38, .rn, 0, ⟨104, false, false, 0⟩, ⟨204, true, false, 0⟩, ⟨0, false, false, 0⟩, 0x0, false, .f64, none⟩)
  , ([0x00143A1B, 0x1400016A, 0x0000A000, 0x12345678, 0x9ABCDEF0], .fmaxD ⟨(some ⟨14, false⟩), 40, .rn, 0, ⟨106, true, false, 0⟩, ⟨0, false, false, 0⟩, ⟨0, false, false, 0⟩, 0x0, false, .f64, some 0x9ABCDEF012345678⟩)
  , ([0x0015FE19, 0x183A006C, 0x0034A000], .fcmpD ⟨(some ⟨15, true⟩), 43, .rn, 0, ⟨108, false, false, 0⟩, ⟨208, true, false, 0⟩, ⟨0, false, false, 0⟩, 0xD, false, .f64, none⟩)
  , ([0x28160219, 0x1C00016F, 0x0012A000], .fcvtD ⟨(some ⟨0, false⟩), 44, .rdyn, 0, ⟨111, true, false, 0⟩, ⟨0, false, false, 0⟩, ⟨0, false, false, 0⟩, 0x4, true, .f64, none⟩)
  , ([0x20174619, 0x20000070, 0x0008A000], .icvtD ⟨(some ⟨1, true⟩), 46, .ra, 0, ⟨112, false, false, 0⟩, ⟨0, false, false, 0⟩, ⟨0, false, false, 0⟩, 0x2, false, .f64, none⟩)
  , ([0x28180A19, 0x24000172, 0x00164000], .fcvtiD ⟨(some ⟨2, false⟩), 48, .rdyn, 0, ⟨114, true, false, 0⟩, ⟨0, false, false, 0⟩, ⟨0, false, false, 0⟩, 0x5, true, .i64, none⟩)
  , ([0x20194E19, 0x28000074, 0x0000A000], .frndD ⟨(some ⟨3, true⟩), 50, .ra, 0, ⟨116, false, false, 0⟩, ⟨0, false, false, 0⟩, ⟨0, false, false, 0⟩, 0x0, false, .f64, none⟩)
  , ([0x281A1219, 0x2C116176, 0x0000A000], .fscaleD ⟨(some ⟨4, false⟩), 52, .rdyn, 0, ⟨118, true, false, 0⟩, ⟨139, false, false, 0⟩, ⟨0, false, false, 0⟩, 0x0, false, .f64, none⟩)] = true := by decide

/-- R40 to R59, R73 to R81: words of OP 0x07 with every field in use, and what they stand for. -/
theorem test_decode_ext_07 : decodesAll [
    ([0x401C9A1D, 0x00001F7B, 0x0000E000], .fneg ⟨(some ⟨6, false⟩), 57, .rn, 0, ⟨123, true, true, 7⟩, ⟨0, false, false, 0⟩, ⟨0, false, false, 0⟩, 0x0, false, .bf16, none⟩)
  , ([0x001D5E1D, 0x0432007C, 0x0000A000], .fsgn ⟨(some ⟨7, true⟩), 58, .rn, 0, ⟨124, false, false, 0⟩, ⟨144, true, false, 0⟩, ⟨0, false, false, 0⟩, 0x0, false, .f64, none⟩)
  , ([0x801EA21D, 0x0800077F, 0x00010000], .fclass ⟨(some ⟨8, false⟩), 61, .rn, 0, ⟨127, true, true, 1⟩, ⟨0, false, false, 0⟩, ⟨0, false, false, 0⟩, 0x0, false, .e4m3, none⟩)
  , ([0x801FE61D, 0x0C000A81, 0x00012000], .fexpo ⟨(some ⟨9, true⟩), 63, .rn, 0, ⟨129, false, true, 2⟩, ⟨0, false, false, 0⟩, ⟨0, false, false, 0⟩, 0x0, false, .e5m2, none⟩)] = true := by decide

/-- R40 to R59, R73 to R81: words of OP 0x08 with every field in use, and what they stand for. -/
theorem test_decode_ext_08 : decodesAll [
    ([0x2882AA21, 0x0012E147, 0x00008000], .fdiv ⟨(some ⟨10, false⟩), 5, .rdyn, 1, ⟨71, true, false, 0⟩, ⟨151, false, false, 0⟩, ⟨0, false, false, 0⟩, 0x0, false, .f32, none⟩)
  , ([0x6103EE21, 0x04001249, 0x0000C000], .frcp ⟨(some ⟨11, true⟩), 7, .ra, 2, ⟨73, false, true, 4⟩, ⟨0, false, false, 0⟩, ⟨0, false, false, 0⟩, 0x0, false, .f16, none⟩)
  , ([0x6984B221, 0x0800174B, 0x0000E000], .fsqrt ⟨(some ⟨12, false⟩), 9, .rdyn, 3, ⟨75, true, true, 5⟩, ⟨0, false, false, 0⟩, ⟨0, false, false, 0⟩, 0x0, false, .bf16, none⟩)
  , ([0x2205F621, 0x0C00004D, 0x00008000], .frsqrt ⟨(some ⟨13, true⟩), 11, .ra, 4, ⟨77, false, false, 0⟩, ⟨0, false, false, 0⟩, ⟨0, false, false, 0⟩, 0x0, false, .f32, none⟩)
  , ([0x6A86BA21, 0x10001F4F, 0x0000C000], .fexp ⟨(some ⟨14, false⟩), 13, .rdyn, 5, ⟨79, true, true, 7⟩, ⟨0, false, false, 0⟩, ⟨0, false, false, 0⟩, 0x0, false, .f16, none⟩)
  , ([0x6307FE21, 0x14000251, 0x0000E000], .fexp2 ⟨(some ⟨15, true⟩), 15, .ra, 6, ⟨81, false, true, 0⟩, ⟨0, false, false, 0⟩, ⟨0, false, false, 0⟩, 0x0, false, .bf16, none⟩)
  , ([0x2B888221, 0x18000153, 0x00008000], .fexpm1 ⟨(some ⟨0, false⟩), 17, .rdyn, 7, ⟨83, true, false, 0⟩, ⟨0, false, false, 0⟩, ⟨0, false, false, 0⟩, 0x0, false, .f32, none⟩)
  , ([0x6409C621, 0x1C000A55, 0x0000C000], .flog ⟨(some ⟨1, true⟩), 19, .ra, 8, ⟨85, false, true, 2⟩, ⟨0, false, false, 0⟩, ⟨0, false, false, 0⟩, 0x0, false, .f16, none⟩)
  , ([0x6C8A8A21, 0x20000F57, 0x0000E000], .flog2 ⟨(some ⟨2, false⟩), 21, .rdyn, 9, ⟨87, true, true, 3⟩, ⟨0, false, false, 0⟩, ⟨0, false, false, 0⟩, 0x0, false, .bf16, none⟩)
  , ([0x250BCE21, 0x24000059, 0x00008000], .flog1p ⟨(some ⟨3, true⟩), 23, .ra, 10, ⟨89, false, false, 0⟩, ⟨0, false, false, 0⟩, ⟨0, false, false, 0⟩, 0x0, false, .f32, none⟩)
  , ([0x6D8C9221, 0x2800175B, 0x0000C000], .fsin ⟨(some ⟨4, false⟩), 25, .rdyn, 11, ⟨91, true, true, 5⟩, ⟨0, false, false, 0⟩, ⟨0, false, false, 0⟩, 0x0, false, .f16, none⟩)
  , ([0x660DD621, 0x2C001A5D, 0x0000E000], .fcos ⟨(some ⟨5, true⟩), 27, .ra, 12, ⟨93, false, true, 6⟩, ⟨0, false, false, 0⟩, ⟨0, false, false, 0⟩, 0x0, false, .bf16, none⟩)
  , ([0x2E8E9A21, 0x3000015F, 0x00008000], .ftan ⟨(some ⟨6, false⟩), 29, .rdyn, 13, ⟨95, true, false, 0⟩, ⟨0, false, false, 0⟩, ⟨0, false, false, 0⟩, 0x0, false, .f32, none⟩)
  , ([0x670FDE21, 0x34000261, 0x0000C000], .fsinpi ⟨(some ⟨7, true⟩), 31, .ra, 14, ⟨97, false, true, 0⟩, ⟨0, false, false, 0⟩, ⟨0, false, false, 0⟩, 0x0, false, .f16, none⟩)
  , ([0x6F90A221, 0x38000763, 0x0000E000], .fcospi ⟨(some ⟨8, false⟩), 33, .rdyn, 15, ⟨99, true, true, 1⟩, ⟨0, false, false, 0⟩, ⟨0, false, false, 0⟩, 0x0, false, .bf16, none⟩)
  , ([0x2091E621, 0x3C000065, 0x00008000], .fatan ⟨(some ⟨9, true⟩), 35, .ra, 1, ⟨101, false, false, 0⟩, ⟨0, false, false, 0⟩, ⟨0, false, false, 0⟩, 0x0, false, .f32, none⟩)
  , ([0x6912AA21, 0x4256EF67, 0x0000C000], .fhypot ⟨(some ⟨10, false⟩), 37, .rdyn, 2, ⟨103, true, true, 3⟩, ⟨183, false, true, 4⟩, ⟨0, false, false, 0⟩, 0x0, false, .f16, none⟩)
  , ([0x6193EE21, 0x46F73269, 0x0000E000], .fpow ⟨(some ⟨11, true⟩), 39, .ra, 3, ⟨105, false, true, 4⟩, ⟨185, true, true, 5⟩, ⟨0, false, false, 0⟩, 0x0, false, .bf16, none⟩)
  , ([0x6A14B221, 0x4B57776B, 0x0000C1D3], .fdot2 ⟨(some ⟨12, false⟩), 41, .rdyn, 4, ⟨107, true, true, 5⟩, ⟨187, false, true, 6⟩, ⟨211, true, false, 0⟩, 0x0, false, .f16, none⟩)
  , ([0xA295F621, 0x4FF7BA6D, 0x000120D5], .fdot4 ⟨(some ⟨13, true⟩), 43, .ra, 5, ⟨109, false, true, 6⟩, ⟨189, true, true, 7⟩, ⟨213, false, false, 0⟩, 0x0, false, .e5m2, none⟩)
  , ([0x6B16BA21, 0x50001F6F, 0x0000E000], .gsum ⟨(some ⟨14, false⟩), 45, .rdyn, 6, ⟨111, true, true, 7⟩, ⟨0, false, false, 0⟩, ⟨0, false, false, 0⟩, 0x0, false, .bf16, none⟩)
  , ([0x2397FE21, 0x54000071, 0x00008000], .gsumsq ⟨(some ⟨15, true⟩), 47, .ra, 7, ⟨113, false, false, 0⟩, ⟨0, false, false, 0⟩, ⟨0, false, false, 0⟩, 0x0, false, .f32, none⟩)] = true := by decide

/-- R40 to R59, R73 to R81: words of OP 0x09 with every field in use, and what they stand for. -/
theorem test_decode_ext_09 : decodesAll [
    ([0x2C180225, 0x00184172, 0x0000A000], .fdivD ⟨(some ⟨0, false⟩), 48, .rdyn, 8, ⟨114, true, false, 0⟩, ⟨194, false, false, 0⟩, ⟨0, false, false, 0⟩, 0x0, false, .f64, none⟩)
  , ([0x24994625, 0x04000074, 0x0000A000], .frcpD ⟨(some ⟨1, true⟩), 50, .ra, 9, ⟨116, false, false, 0⟩, ⟨0, false, false, 0⟩, ⟨0, false, false, 0⟩, 0x0, false, .f64, none⟩)
  , ([0x2D1A0A25, 0x08000176, 0x0000A000], .fsqrtD ⟨(some ⟨2, false⟩), 52, .rdyn, 10, ⟨118, true, false, 0⟩, ⟨0, false, false, 0⟩, ⟨0, false, false, 0⟩, 0x0, false, .f64, none⟩)
  , ([0x259B4E25, 0x0C000078, 0x0000A000], .frsqrtD ⟨(some ⟨3, true⟩), 54, .ra, 11, ⟨120, false, false, 0⟩, ⟨0, false, false, 0⟩, ⟨0, false, false, 0⟩, 0x0, false, .f64, none⟩)
  , ([0x2E1C1225, 0x1000017A, 0x0000A000], .fexpD ⟨(some ⟨4, false⟩), 56, .rdyn, 12, ⟨122, true, false, 0⟩, ⟨0, false, false, 0⟩, ⟨0, false, false, 0⟩, 0x0, false, .f64, none⟩)
  , ([0x269D5625, 0x1400007C, 0x0000A000], .fexp2D ⟨(some ⟨5, true⟩), 58, .ra, 13, ⟨124, false, false, 0⟩, ⟨0, false, false, 0⟩, ⟨0, false, false, 0⟩, 0x0, false, .f64, none⟩)
  , ([0x2F1E1A25, 0x1800017E, 0x0000A000], .fexpm1D ⟨(some ⟨6, false⟩), 60, .rdyn, 14, ⟨126, true, false, 0⟩, ⟨0, false, false, 0⟩, ⟨0, false, false, 0⟩, 0x0, false, .f64, none⟩)
  , ([0x279F5E25, 0x1C000080, 0x0000A000], .flogD ⟨(some ⟨7, true⟩), 62, .ra, 15, ⟨128, false, false, 0⟩, ⟨0, false, false, 0⟩, ⟨0, false, false, 0⟩, 0x0, false, .f64, none⟩)
  , ([0x28822225, 0x20000146, 0x0000A000], .flog2D ⟨(some ⟨8, false⟩), 4, .rdyn, 1, ⟨70, true, false, 0⟩, ⟨0, false, false, 0⟩, ⟨0, false, false, 0⟩, 0x0, false, .f64, none⟩)
  , ([0x21036625, 0x24000048, 0x0000A000], .flog1pD ⟨(some ⟨9, true⟩), 6, .ra, 2, ⟨72, false, false, 0⟩, ⟨0, false, false, 0⟩, ⟨0, false, false, 0⟩, 0x0, false, .f64, none⟩)
  , ([0x29842A25, 0x2800014A, 0x0000A000], .fsinD ⟨(some ⟨10, false⟩), 8, .rdyn, 3, ⟨74, true, false, 0⟩, ⟨0, false, false, 0⟩, ⟨0, false, false, 0⟩, 0x0, false, .f64, none⟩)
  , ([0x22056E25, 0x2C00004C, 0x0000A000], .fcosD ⟨(some ⟨11, true⟩), 10, .ra, 4, ⟨76, false, false, 0⟩, ⟨0, false, false, 0⟩, ⟨0, false, false, 0⟩, 0x0, false, .f64, none⟩)
  , ([0x2A863225, 0x3000014E, 0x0000A000], .ftanD ⟨(some ⟨12, false⟩), 12, .rdyn, 5, ⟨78, true, false, 0⟩, ⟨0, false, false, 0⟩, ⟨0, false, false, 0⟩, 0x0, false, .f64, none⟩)
  , ([0x23077625, 0x34000050, 0x0000A000], .fsinpiD ⟨(some ⟨13, true⟩), 14, .ra, 6, ⟨80, false, false, 0⟩, ⟨0, false, false, 0⟩, ⟨0, false, false, 0⟩, 0x0, false, .f64, none⟩)
  , ([0x2B883A25, 0x38000152, 0x0000A000], .fcospiD ⟨(some ⟨14, false⟩), 16, .rdyn, 7, ⟨82, true, false, 0⟩, ⟨0, false, false, 0⟩, ⟨0, false, false, 0⟩, 0x0, false, .f64, none⟩)
  , ([0x24097E25, 0x3C000054, 0x0000A000], .fatanD ⟨(some ⟨15, true⟩), 18, .ra, 8, ⟨84, false, false, 0⟩, ⟨0, false, false, 0⟩, ⟨0, false, false, 0⟩, 0x0, false, .f64, none⟩)
  , ([0x2C8A0225, 0x50000156, 0x0000A000], .gsumD ⟨(some ⟨0, false⟩), 20, .rdyn, 9, ⟨86, true, false, 0⟩, ⟨0, false, false, 0⟩, ⟨0, false, false, 0⟩, 0x0, false, .f64, none⟩)
  , ([0x250B4625, 0x54000058, 0x0000A000], .gsumsqD ⟨(some ⟨1, true⟩), 22, .ra, 10, ⟨88, false, false, 0⟩, ⟨0, false, false, 0⟩, ⟨0, false, false, 0⟩, 0x0, false, .f64, none⟩)] = true := by decide

/-- R40 to R59, R73 to R81: words of OP 0x0A with every field in use, and what they stand for. -/
theorem test_decode_ext_0a : decodesAll [
    ([0x000C0A29, 0x0000015A, 0x00004000], .gmax ⟨(some ⟨2, false⟩), 24, .rn, 0, ⟨90, true, false, 0⟩, ⟨0, false, false, 0⟩, ⟨0, false, false, 0⟩, 0x0, false, .i64, none⟩)
  , ([0x000D4E29, 0x0400005C, 0x00006000], .gmin ⟨(some ⟨3, true⟩), 26, .rn, 0, ⟨92, false, false, 0⟩, ⟨0, false, false, 0⟩, ⟨0, false, false, 0⟩, 0x0, false, .n64, none⟩)
  , ([0x2E8E9229, 0x0813615F, 0x009481D3], .fprog ⟨(some ⟨4, false⟩), 29, .rdyn, 13, ⟨95, true, false, 0⟩, ⟨155, false, false, 0⟩, ⟨211, true, false, 0⟩, 0x25, false, .f32, none⟩)
  , ([0x00000029, 0x0C000000, 0x00000000], .parkw ⟨none, 0, .rn, 0, ⟨0, false, false, 0⟩, ⟨0, false, false, 0⟩, ⟨0, false, false, 0⟩, 0x0, false, .i32, none⟩)
  , ([0x00101A29, 0x10000163, 0x00000000], .gsumInt ⟨(some ⟨6, false⟩), 32, .rn, 0, ⟨99, true, false, 0⟩, ⟨0, false, false, 0⟩, ⟨0, false, false, 0⟩, 0x0, false, .i32, none⟩)] = true := by decide

/-- R40 to R59, R73 to R81: words of OP 0x0B with every field in use, and what they stand for. -/
theorem test_decode_ext_0b : decodesAll [
    ([0x4091DE2D, 0x00000065, 0xEAF0E000], .lds ⟨(some ⟨7, true⟩), 35, .rn, 1, ⟨101, false, false, 0⟩, ⟨0, false, false, 0⟩, ⟨0, false, false, 0⟩, 0x3ABC, false, .bf16, none⟩)
  , ([0x8000222D, 0x05546167, 0xEAF10000], .sts ⟨(some ⟨8, false⟩), 0, .rn, 0, ⟨103, true, false, 0⟩, ⟨163, false, true, 2⟩, ⟨0, false, false, 0⟩, 0x3ABC, false, .e4m3, none⟩)
  , ([0x0193E62D, 0x08000069, 0xEAF08000], .ldsg ⟨(some ⟨9, true⟩), 39, .rn, 3, ⟨105, false, false, 0⟩, ⟨0, false, false, 0⟩, ⟨0, false, false, 0⟩, 0x3ABC, false, .f32, none⟩)
  , ([0x40002A2D, 0x0C14E16B, 0xEAF1C000], .stss ⟨(some ⟨10, false⟩), 0, .rn, 0, ⟨107, true, false, 0⟩, ⟨167, false, false, 0⟩, ⟨0, false, false, 0⟩, 0x3ABC, false, .i16, none⟩)
  , ([0x02956E2D, 0x1035006D, 0x65546000], .atomsOp ⟨(some ⟨11, true⟩), 42, .rn, 5, ⟨109, false, false, 0⟩, ⟨168, true, false, 0⟩, ⟨0, false, false, 0⟩, 0x1955, false, .n64, none⟩)
  , ([0x0316B22D, 0x1415616F, 0x00000000], .atomsXchg ⟨(some ⟨12, false⟩), 45, .rn, 6, ⟨111, true, false, 0⟩, ⟨171, false, false, 0⟩, ⟨0, false, false, 0⟩, 0x0, false, .i32, none⟩)
  , ([0x0397F62D, 0x1835A071, 0x000020E5], .atomsCas ⟨(some ⟨13, true⟩), 47, .rn, 7, ⟨113, false, false, 0⟩, ⟨173, true, false, 0⟩, ⟨229, false, false, 0⟩, 0x0, false, .n32, none⟩)
  , ([0x00003A2D, 0x1C000173, 0x00240000], .sppin ⟨(some ⟨14, false⟩), 0, .rn, 0, ⟨115, true, false, 0⟩, ⟨0, false, false, 0⟩, ⟨0, false, false, 0⟩, 0x9, false, .i32, none⟩)
  , ([0x00007E2D, 0x20000075, 0x00240000], .spfree ⟨(some ⟨15, true⟩), 0, .rn, 0, ⟨117, false, false, 0⟩, ⟨0, false, false, 0⟩, ⟨0, false, false, 0⟩, 0x9, false, .i32, none⟩)] = true := by decide

/-- R40 to R59, R73 to R81: words of OP 0x0C with every field in use, and what they stand for. -/
theorem test_decode_ext_0c : decodesAll [
    ([0x00000231, 0x00166177, 0x002C0000], .qinit ⟨(some ⟨0, false⟩), 0, .rn, 0, ⟨119, true, false, 0⟩, ⟨179, false, false, 0⟩, ⟨0, false, false, 0⟩, 0xB, false, .i32, none⟩)
  , ([0x00004631, 0x04000078, 0x002C0000], .qpush ⟨(some ⟨1, true⟩), 0, .rn, 0, ⟨120, false, false, 0⟩, ⟨0, false, false, 0⟩, ⟨0, false, false, 0⟩, 0xB, false, .i32, none⟩)
  , ([0x001C0A31, 0x08000000, 0x002C0000], .qpop ⟨(some ⟨2, false⟩), 56, .rn, 0, ⟨0, false, false, 0⟩, ⟨0, false, false, 0⟩, ⟨0, false, false, 0⟩, 0xB, false, .i32, none⟩)
  , ([0x001D4E31, 0x0C000000, 0x002C0000], .qtry ⟨(some ⟨3, true⟩), 58, .rn, 0, ⟨0, false, false, 0⟩, ⟨0, false, false, 0⟩, ⟨0, false, false, 0⟩, 0xB, false, .i32, none⟩)
  , ([0x00001231, 0x1000017F, 0x0A940000], .qallow ⟨(some ⟨4, false⟩), 0, .rn, 0, ⟨127, true, false, 0⟩, ⟨0, false, false, 0⟩, ⟨0, false, false, 0⟩, 0x2A5, false, .i32, none⟩)] = true := by decide

/-- R40 to R59, R73 to R81: words of OP 0x0D with every field in use, and what they stand for. -/
theorem test_decode_ext_0d : decodesAll [
    ([0x00000035, 0x00378080, 0x00000000], .fork ⟨none, 0, .rn, 0, ⟨128, false, false, 0⟩, ⟨188, true, false, 0⟩, ⟨0, false, false, 0⟩, 0x0, false, .i32, none⟩)
  , ([0x00000035, 0x04000000, 0x00000000], .join ⟨none, 0, .rn, 0, ⟨0, false, false, 0⟩, ⟨0, false, false, 0⟩, ⟨0, false, false, 0⟩, 0x0, false, .i32, none⟩)
  , ([0xC0028035, 0x08380048, 0xA85560E1], .mmaReg ⟨none, 5, .rn, 0, ⟨72, false, false, 0⟩, ⟨192, true, false, 0⟩, ⟨225, false, false, 0⟩, 0x2A15, false, .cb4, none⟩)
  , ([0x00028035, 0x0C18404A, 0x40548000], .mmaSp ⟨none, 5, .rn, 0, ⟨74, false, false, 0⟩, ⟨194, false, false, 0⟩, ⟨0, false, false, 0⟩, 0x1015, false, .f32, none⟩)
  , ([0x40028035, 0x1038804C, 0x6054C000], .mmazReg ⟨none, 5, .rn, 0, ⟨76, false, false, 0⟩, ⟨196, true, false, 0⟩, ⟨0, false, false, 0⟩, 0x1815, false, .f16, none⟩)
  , ([0x40028035, 0x1418C04E, 0x7054E000], .mmazSp ⟨none, 5, .rn, 0, ⟨78, false, false, 0⟩, ⟨198, false, false, 0⟩, ⟨0, false, false, 0⟩, 0x1C15, false, .bf16, none⟩)
  , ([0x00028035, 0x18000050, 0x00040000], .acld ⟨none, 5, .rn, 0, ⟨80, false, false, 0⟩, ⟨0, false, false, 0⟩, ⟨0, false, false, 0⟩, 0x1, false, .i32, none⟩)
  , ([0x00028035, 0x1C000052, 0x00040000], .acst ⟨none, 5, .rn, 0, ⟨82, false, false, 0⟩, ⟨0, false, false, 0⟩, ⟨0, false, false, 0⟩, 0x1, false, .i32, none⟩)
  , ([0x20028035, 0x20000054, 0x0152A000], .mdrain ⟨none, 5, .ra, 0, ⟨84, false, false, 0⟩, ⟨0, false, false, 0⟩, ⟨0, false, false, 0⟩, 0x54, true, .f64, none⟩)
  , ([0x00000035, 0x24000056, 0x00040000], .lutld ⟨none, 0, .rn, 0, ⟨86, false, false, 0⟩, ⟨0, false, false, 0⟩, ⟨0, false, false, 0⟩, 0x1, false, .i32, none⟩)
  , ([0x00000035, 0x28000000, 0x00000000], .lutsw ⟨none, 0, .rn, 0, ⟨0, false, false, 0⟩, ⟨0, false, false, 0⟩, ⟨0, false, false, 0⟩, 0x0, false, .i32, none⟩)
  , ([0x00000235, 0x2C000000, 0x04540000], .mbarv ⟨(some ⟨0, false⟩), 0, .rn, 0, ⟨0, false, false, 0⟩, ⟨0, false, false, 0⟩, ⟨0, false, false, 0⟩, 0x115, false, .i32, none⟩)
  , ([0x00004635, 0x30000000, 0x00340000], .mbarw ⟨(some ⟨1, true⟩), 0, .rn, 0, ⟨0, false, false, 0⟩, ⟨0, false, false, 0⟩, ⟨0, false, false, 0⟩, 0xD, false, .i32, none⟩)] = true := by decide

/-- R40 to R59, R73 to R81: words of OP 0x0E with every field in use, and what they stand for. -/
theorem test_decode_ext_0e : decodesAll [
    ([0x068E0A3B, 0x0000015E, 0x00005400, 0x12345678, 0x9ABCDEF0], .ld ⟨(some ⟨2, false⟩), 28, .rn, 13, ⟨94, true, false, 0⟩, ⟨0, false, false, 0⟩, ⟨0, false, false, 5⟩, 0x0, false, .i64, some 0x9ABCDEF012345678⟩)
  , ([0x00004E39, 0x04310060, 0xEAF07400], .st ⟨(some ⟨3, true⟩), 0, .rn, 0, ⟨96, false, false, 0⟩, ⟨136, true, false, 0⟩, ⟨0, false, false, 5⟩, 0x3ABC, false, .n64, none⟩)
  , ([0x07819239, 0x08114062, 0x000000E3], .ldt ⟨(some ⟨4, false⟩), 3, .rn, 15, ⟨98, false, false, 0⟩, ⟨138, false, false, 0⟩, ⟨227, false, false, 0⟩, 0x0, false, .i32, none⟩)
  , ([0x0001D639, 0x0C118064, 0x000000E5], .stt ⟨(some ⟨5, true⟩), 3, .rn, 0, ⟨100, false, false, 0⟩, ⟨140, false, false, 0⟩, ⟨229, false, false, 0⟩, 0x0, false, .i32, none⟩)
  , ([0x41129A39, 0x10000166, 0xEAF0C000], .ldw ⟨(some ⟨6, false⟩), 37, .rn, 2, ⟨102, true, false, 0⟩, ⟨0, false, false, 0⟩, ⟨0, false, false, 0⟩, 0x3ABC, false, .f16, none⟩)
  , ([0x00005E39, 0x14320068, 0x81501200], .cpy ⟨(some ⟨7, true⟩), 0, .rn, 0, ⟨104, false, false, 0⟩, ⟨144, true, false, 0⟩, ⟨0, false, true, 4⟩, 0x2054, false, .i32, none⟩)
  , ([0x00002239, 0x1800016A, 0xEAF01000], .publish ⟨(some ⟨8, false⟩), 0, .rn, 0, ⟨106, true, false, 0⟩, ⟨0, false, false, 0⟩, ⟨0, false, false, 4⟩, 0x3ABC, false, .i32, none⟩)
  , ([0x00006639, 0x1C00006C, 0xEAF00000], .prf ⟨(some ⟨9, true⟩), 0, .rn, 0, ⟨108, false, false, 0⟩, ⟨0, false, false, 0⟩, ⟨0, false, false, 0⟩, 0x3ABC, false, .i32, none⟩)
  , ([0x00002A39, 0x2000016E, 0xEAF01400], .cflush ⟨(some ⟨10, false⟩), 0, .rn, 0, ⟨110, true, false, 0⟩, ⟨0, false, false, 0⟩, ⟨0, false, false, 5⟩, 0x3ABC, false, .i32, none⟩)
  , ([0x0397EE39, 0x24000070, 0x00000000], .xprobe ⟨(some ⟨11, true⟩), 47, .rn, 7, ⟨112, false, false, 0⟩, ⟨0, false, false, 0⟩, ⟨0, false, false, 0⟩, 0x0, false, .i32, none⟩)] = true := by decide

/-- R40 to R59, R73 to R81: words of OP 0x0F with every field in use, and what they stand for. -/
theorem test_decode_ext_0f : decodesAll [
    ([0x0018B23D, 0x00000000, 0x000C1400], .fence ⟨(some ⟨12, false⟩), 49, .rn, 0, ⟨0, false, false, 0⟩, ⟨0, false, false, 0⟩, ⟨0, false, false, 5⟩, 0x3, false, .i32, none⟩)
  , ([0x0000763D, 0x04000075, 0x00000000], .fwait ⟨(some ⟨13, true⟩), 0, .rn, 0, ⟨117, false, false, 0⟩, ⟨0, false, false, 0⟩, ⟨0, false, false, 0⟩, 0x0, false, .i32, none⟩)
  , ([0x451ABA3F, 0x08000176, 0x0001D400, 0x12345678, 0x9ABCDEF0], .ldacq ⟨(some ⟨14, false⟩), 53, .rn, 10, ⟨118, true, false, 0⟩, ⟨0, false, false, 0⟩, ⟨0, false, false, 5⟩, 0x0, false, .i16, some 0x9ABCDEF012345678⟩)
  , ([0x40007E3D, 0x0CF42078, 0xEAF1F400], .strel ⟨(some ⟨15, true⟩), 0, .rn, 0, ⟨120, false, false, 0⟩, ⟨161, true, true, 1⟩, ⟨0, false, false, 5⟩, 0x3ABC, false, .n16, none⟩)
  , ([0x061C823D, 0x1014617A, 0x65541700], .atomOp ⟨(some ⟨0, false⟩), 57, .rn, 12, ⟨122, true, false, 0⟩, ⟨163, false, false, 0⟩, ⟨0, true, true, 5⟩, 0x1955, false, .i32, none⟩)
  , ([0x069DC63D, 0x1434A07C, 0x00003700], .atomXchg ⟨(some ⟨1, true⟩), 59, .rn, 13, ⟨124, false, false, 0⟩, ⟨165, true, false, 0⟩, ⟨0, true, true, 5⟩, 0x0, false, .n32, none⟩)
  , ([0x071E0A3D, 0x1814C17E, 0x00005700], .atomCas ⟨(some ⟨2, false⟩), 60, .rn, 14, ⟨126, true, false, 0⟩, ⟨166, false, false, 0⟩, ⟨0, true, true, 5⟩, 0x0, false, .i64, none⟩)
  , ([0x00004E3D, 0x1C350080, 0x55547600], .redInt ⟨(some ⟨3, true⟩), 0, .rn, 0, ⟨128, false, false, 0⟩, ⟨168, true, false, 0⟩, ⟨0, false, true, 5⟩, 0x1555, false, .n64, none⟩)
  , ([0x0000123D, 0x20156146, 0x05549600], .redFloat ⟨(some ⟨4, false⟩), 0, .rn, 0, ⟨70, true, false, 0⟩, ⟨171, false, false, 0⟩, ⟨0, false, true, 5⟩, 0x155, false, .f32, none⟩)
  , ([0x6103D63D, 0x24000048, 0x1554D500], .redget ⟨(some ⟨5, true⟩), 7, .ra, 2, ⟨72, false, false, 0⟩, ⟨0, false, false, 0⟩, ⟨0, true, false, 5⟩, 0x555, false, .f16, none⟩)
  , ([0x00001A3D, 0x2800014B, 0x00740000], .bar ⟨(some ⟨6, false⟩), 0, .rn, 0, ⟨75, true, false, 0⟩, ⟨0, false, false, 0⟩, ⟨0, false, false, 0⟩, 0x1D, false, .i32, none⟩)
  , ([0x00005E3D, 0x2C00004D, 0x00740000], .barv ⟨(some ⟨7, true⟩), 0, .rn, 0, ⟨77, false, false, 0⟩, ⟨0, false, false, 0⟩, ⟨0, false, false, 0⟩, 0x1D, false, .i32, none⟩)
  , ([0x0000223D, 0x30000000, 0x00740000], .barw ⟨(some ⟨8, false⟩), 0, .rn, 0, ⟨0, false, false, 0⟩, ⟨0, false, false, 0⟩, ⟨0, false, false, 0⟩, 0x1D, false, .i32, none⟩)
  , ([0x0000003D, 0x34000000, 0xEAF00000], .sbar ⟨none, 0, .rn, 0, ⟨0, false, false, 0⟩, ⟨0, false, false, 0⟩, ⟨0, false, false, 0⟩, 0x3ABC, false, .i32, none⟩)] = true := by decide

/-! ### Ill-formed terms -/

/-- R48, R49: a type that the entry does not accept. -/
theorem test_ill_type : (Instr.addc (ops .i64 4 6 8 10)).wellFormed = false := by decide
/-- R47: a rounding mode on an instruction that does not round. -/
theorem test_ill_rounding : (Instr.add { ops .i32 4 6 8 0 with rm := .rz }).wellFormed = false := by decide
/-- R54: a window on an instruction that is not lk. -/
theorem test_ill_window : (Instr.add { ops .i32 4 6 8 0 with lk := 1 }).wellFormed = false := by decide
/-- R55: SAT outside the four instructions. -/
theorem test_ill_saturate : (Instr.add { ops .i32 4 6 8 0 with sat := true }).wellFormed = false := by decide
/-- R42: a guard where the entry permits none. -/
theorem test_ill_guard : (Instr.sbar { noOps with g := some ⟨1, false⟩ }).wellFormed = false := by decide
/-- R57: a literal where the map gives no xL form, and one whose high word is not 0. -/
theorem test_ill_literal : (Instr.mov { ops .i32 4 6 0 0 with lit := some 1 }).wellFormed = false
    ∧ (Instr.add { ops .i32 4 6 0 0 with lit := some (2 ^ 32) }).wellFormed = false
    ∧ (Instr.moviBaseLiteral none 4 (2 ^ 32)).wellFormed = false := by decide
/-- R50: odd registers where a pair is named. -/
theorem test_ill_pair : (Instr.add (ops .i64 5 6 8 0)).wellFormed = false
    ∧ (Instr.add (ops .i64 4 7 8 0)).wellFormed = false ∧ (Instr.moviI64 none 5 0).wellFormed = false
    ∧ (Instr.ret none 5 false).wellFormed = false ∧ (Instr.calli (dA 4 7)).wellFormed = false := by decide
/-- R53: a last-use bit of a field that is not used, or that the entry forbids. -/
theorem test_ill_last_use : (Instr.mov { ops .i32 4 6 0 0 with b := ⟨0, true, false, 0⟩ }).wellFormed = false
    ∧ (Instr.ldt { ops .i32 1 6 8 10 with a := ⟨6, true, false, 0⟩ }).wellFormed = false := by decide
/-- R51, R52: half select and swizzle of an unpacked word. -/
theorem test_ill_modifiers : (Instr.add { ops .i32 4 6 8 0 with a := ⟨6, false, true, 0⟩ }).wellFormed = false
    ∧ (Instr.add { ops .i32 4 6 8 0 with a := ⟨6, false, false, 1⟩ }).wellFormed = false := by decide
/-- R61: a register in a field that is not used. -/
theorem test_ill_unused : (Instr.not (ops .i32 4 6 8 0)).wellFormed = false
    ∧ (Instr.vote (ops .i32 4 6 8 0)).wellFormed = false := by decide
/-- R56: scope and ordering codes that the entry does not accept. -/
theorem test_ill_scope : (Instr.ld { ops .i32 4 6 0 0 with c := ⟨0, false, false, 6⟩ }).wellFormed = false
    ∧ (Instr.ld { ops .i32 4 6 0 0 with c := ⟨0, true, false, 1⟩ }).wellFormed = false
    ∧ (Instr.cpy { ops .i32 0 6 8 0 with c := ⟨0, false, false, 5⟩ }).wellFormed = false := by decide
/-- R57: IMM14 outside its layout. -/
theorem test_ill_immediate : (Instr.vote (opsI .i32 4 6 0 0 7)).wellFormed = false
    ∧ (Instr.bfx (opsI .i32 4 6 0 0 (31 * 64 + 1))).wellFormed = false
    ∧ (Instr.mfs (opsI .i32 4 0 0 0 0x010)).wellFormed = false
    ∧ (Instr.mov (opsI .i32 4 6 0 0 1)).wellFormed = false := by decide
/-- R208, R211, R288: fields that must go together: source and result types, D and B apart, image registers aligned. -/
theorem test_ill_joined : (Instr.fcvt (opsI .f32 4 6 0 0 5)).wellFormed = false
    ∧ (Instr.fcvtMx (opsI .e4m3 4 6 4 0 4)).wellFormed = false
    ∧ (Instr.mmaReg (opsI .f16 0 6 8 0 (6 * 1024))).wellFormed = false := by decide
/-- R41, R42, R47, R48, R60: words with no meaning: opcode 0 and one above the map, a sub-opcode above the map, a form that
the map does not give, GS or G without GE, RM 6, a packing that is not the type's, TY 5 on `addc`, and missing words. -/
theorem test_undefined_words : decodesNone
    [[0x00000000], [0x000000A4], [0x00020009, 0x3800C005, 0], [0x00020016, 0, 0], [0x00004604 - 0x200], [0x00000404]
    , [0x30020015, 0x0000C005, 0x00008000], [0x4002000D, 0x0000C005, 0], [0x0002000D, 0x0800C006, 0x0000A000]] = true := by decide
/-- R40, R41: an instruction whose last byte is missing. -/
theorem test_truncated : (decodeBytes (((encodeBytes (.add (ops .i32 4 6 8 0))).getD []).take 11)).toOption = none := by decide

/-! ### Integer and logic instructions -/

theorem witness_BaseTwoSourceResults : (baseTwo.all fun p => meets (p.1 (dA 4 6)) bench) = true := by decide
theorem witness_BaseOneSourceResults : (baseOne.all fun p => meets (p.1 (dA 4 6)) bench) = true := by decide
theorem witness_PackedTwoSourceResults :
    (extTwo.all fun p => meets (p.1 (ops .i32 4 6 8 0)) bench && (p.1 (ops .n8 4 6 8 0)).wellFormed) = true := by decide
theorem witness_PackedOneSourceResults : (extOne.all fun p => meets (p.1 (ops .i32 4 6 0 0)) bench) = true := by decide
theorem witness_SaturatingResults :
    ([Instr.sadd, Instr.ssub].all fun i => meets (i (ops .i8 4 6 8 0)) bench) = true := by decide
theorem witness_CarryChains :
    ([Instr.addc, Instr.subb].all fun i => meets (i (ops .n32 4 6 8 10)) bench) = true := by decide
theorem witness_MultiplyAddResults :
    (meets (.mad (ops .i16 4 6 8 10)) bench && meets (.madw (ops .i32 4 6 8 10)) bench) = true := by decide
theorem witness_ByteDotProduct : meets (.dot4 { ops .n8 4 6 8 10 with sat := true }) bench = true := by decide
theorem witness_LogicFunctionResults : (meets (.lfn (opsI .i64 4 6 8 10 0xFF)) bench
    && meets (.lfnD { ops .i32 4 6 8 10 with lit := some 0xFFFF }) bench) = true := by decide
theorem witness_FieldAndFunnelResults : (meets (.fsh (ops .i64 4 6 8 10)) bench
    && meets (.bfx (opsI .i32 4 6 0 0 (31 * 64))) bench && meets (.bfi (opsI .n64 4 6 8 0 63)) bench) = true := by decide
theorem witness_CompareResults :
    (meets (.cmp (opsI .n8 4 6 8 0 5)) bench && meets (.cmp (opsI .i64 4 6 8 0 0)) bench) = true := by decide
theorem witness_LongProducts :
    ([Instr.mul64, Instr.mulhi64].all fun i => meets (i { ops .i64 4 6 8 0 with lk := 15 }) bench) = true
    ∧ meets (.mad64 (ops .n64 4 6 8 10)) bench = true := by decide
theorem witness_LongDivisions : (meets (.idiv (ops .i8 4 6 8 0)) bench && meets (.irem (ops .n32 4 6 8 0)) bench
    && meets (.idiv64 (ops .i64 4 6 8 0)) bench && meets (.irem64 (ops .n64 4 6 8 0)) bench) = true := by decide

/-- R189: the example of a 64-bit sum, a word at a time. -/
theorem test_addc_example :
    answers (exec (.addc (ops .n32 20 4 6 30)) (regs bench [(4, same 0xFFFFFFFF), (6, same 2)]))
      (fun t => reg t 20 31 == 1 && reg t 21 31 == 1) = true
    ∧ answers (exec (.addc { ops .n32 22 5 7 21 with c := ⟨21, true, false, 0⟩ })
        (regs bench [(5, same 1), (7, same 2), (21, same 1)]))
      (fun t => reg t 22 0 == 4 && reg t 23 0 == 0 && reg t 21 0 == 0) = true := by decide
/-- R189: a difference below 0 borrows. -/
theorem test_subb_borrows : answers (exec (.subb (ops .n32 20 4 6 30)) (regs bench [(6, same 1)]))
    (fun t => reg t 20 5 == 0xFFFFFFFF && reg t 21 5 == 1) = true := by decide
/-- R188: the example of bytes that wrap, saturate signed and saturate unsigned. -/
theorem test_byte_sums : ([(Instr.add (ops .i8 4 5 6 0), 0x80157F10, 0), (.sadd (ops .i8 4 5 6 0), 0x7F158010, fSI)
    , (.sadd (ops .n8 4 5 6 0), 0x8015FFFF, fSI)].all fun p =>
      answers (exec p.1 (regs bench [(5, same 0x7F1080F0), (6, same 0x0105FF20)])) fun t => reg t 4 3 == p.2.1 && flagsOf t == p.2.2)
    = true := by decide
/-- R57: IMM14 as operand B is sign-extended for i32. -/
theorem test_add_immediate : answers (exec (.add { opsI .i32 4 6 0 0 0x3FFD with b := ⟨0, false, true, 0⟩ })
    (regs bench [(6, same 5)])) (fun t => reg t 4 0 == 2) = true := by decide
/-- R190: the upper half of -1 times 2, signed and unsigned. -/
theorem test_mulhi : answers (exec (.mulhi (ops .i32 4 6 8 0)) (regs bench [(6, same 0xFFFFFFFF), (8, same 2)]))
      (fun t => reg t 4 0 == 0xFFFFFFFF) = true
    ∧ answers (exec (.mulhi (ops .n32 4 6 8 0)) (regs bench [(6, same 0xFFFFFFFF), (8, same 2)]))
      (fun t => reg t 4 0 == 1) = true := by decide
/-- R194: a shift of the width gives 0, an arithmetic one the sign; a base shift takes its amount from A. -/
theorem test_shifts : answers (exec (.shl (ops .i32 4 6 8 0)) (regs bench [(6, same 1), (8, same 32)])) (fun t => reg t 4 0 == 0) = true
    ∧ answers (exec (.sarBase (dA 4 6)) (regs bench [(4, same 0x80000000), (6, same 33)])) (fun t => reg t 4 0 == 0xFFFFFFFF) = true
    := by decide
/-- R8, R42: lanes whose guard fails keep their value. -/
theorem test_guard : answers (exec (.movBase { dA 4 6 with g := some ⟨1, true⟩ })
    (regs bench [(1, lanes fun k => k), (4, same 9), (6, same 7)])) (fun t => reg t 4 2 == 7 && reg t 4 3 == 9) = true := by decide
/-- R53: a source that is also the destination is killed before the result is written. -/
theorem test_last_use : answers (exec (.addBase { dA 4 4 with la := true }) (regs bench [(4, same 3)]))
    (fun t => reg t 4 0 == 6) = true
    ∧ answers (exec (.movBase { dA 4 6 with la := true }) (regs bench [(6, same 3)])) (fun t => reg t 4 0 == 3 && reg t 6 0 == 0) = true
    := by decide

/-! ### Moves between registers and lanes -/

theorem witness_MoveResults : (meets (.moviBase none 4 0x1FF) bench && meets (.moviBaseLiteral none 4 0xFFFFFFFF) bench
    && meets (.moviI64 none 4 0xFFFFFFFFFFFFFFFF) bench && meets (.mov (ops .i64 4 6 0 0)) bench
    && meets (.movi (opsI .n16 4 0 0 0 0x3FFF)) bench && meets (.movi { ops .f64 4 0 0 0 with lit := some 1 }) bench) = true := by decide
theorem witness_SelectResults : meets (.sel (ops .n8 4 6 8 10)) bench = true := by decide
theorem witness_ShuffleResults : ([0x00, 0x35, 0x2D, 0x02, 0x17].all fun m =>
    meets (.shfl (opsI .i32 4 6 (if m % 4 = 2 then 0 else 8) 0 m)) bench) = true := by decide
theorem witness_LaneBroadcasts :
    (meets (.bcast (opsI .i32 4 6 0 0 31)) bench
    && meets (.rdlane (ops .i64 4 6 8 0)) (regs bench [(8, same 63)]) (fun c => c.lanes.all fun k => c.rd 8 k % 32 == 31)
    && meets (.wrlane (ops .i32 4 6 8 0)) (regs bench [(8, same 5), (6, same 9)]) (fun c => c.lanes.contains 5
        && !c.use.kills.contains 4 && c.lanes.all fun k => c.rd 8 k % 32 == 5 && c.rdTy .i32 6 k == 9)) = true := by decide
theorem witness_NonUniformLaneRaises :
    (meets (.rdlane (ops .i32 4 6 8 0)) (regs bench [(8, lanes id)]) (fun c => c.lanes.contains 0 && c.lanes.contains 31
        && c.rd 8 0 % 32 != c.rd 8 31 % 32)
    && meets (.wrlane (ops .i32 4 6 8 0)) (regs bench [(6, lanes id)]) (fun c => c.lanes.contains 0 && c.lanes.contains 1
        && c.rdTy .i32 6 0 != c.rdTy .i32 6 1)) = true := by decide
theorem witness_VoteResults : ([0, 1, 2, 3, 4, 5, 6].all fun m => meets (.vote (opsI .i32 4 6 0 0 m)) bench) = true := by decide
theorem witness_BytePermutation :
    (meets (.perm (opsI .i32 4 6 8 0 0x2FFF)) bench && meets (.perm (ops .i32 4 6 8 10)) bench) = true := by decide
theorem witness_PackedRearrangements : (meets (.pack (ops .e2m1 4 6 8 0)) bench
    && meets (.unpack (opsI .i8 4 6 0 0 1)) bench && meets (.swz (opsI .n16 4 6 0 0 7)) bench) = true := by decide
theorem witness_RegisterQuota : (meets (.kill 4) bench
    && meets (.xrel (opsI .i32 0 0 0 0 2)) (onGroup bench fun g => { g with base := 6, quota := 2 }) (fun c => c.g.quota == 2 && c.g.base == 6
        && c.g.pend == [] && c.g.longs == [] && [6, 7].all fun r => !awaitsHold c.g r)
    && meets (.xacq (opsI .i32 0 0 0 0 3)) (onGroup bench fun g => { g with base := 200, ext := 8, quota := 4, asked := 1 })
        (fun c => decide (3 ≤ c.g.ext - c.g.quota - c.g.asked) && decide (3 ≤ poolSize c.b 0)
          && (coreOf c.s 0).teams[teamOf c.b 0]?.isSome)) = true := by decide
theorem witness_RegisterQuotaExceeded :
    (meets (.xacq (opsI .i32 0 0 0 0 1)) bench (fun c => decide (c.g.ext - c.g.quota - c.g.asked < 1))
    && meets (.xrel (opsI .i32 0 0 0 0 1)) bench (fun c => decide (c.g.quota < 1))) = true := by decide

/-- R183: selector 0x053: the bytes of A reversed; with control bytes, bit 7 gives 0. -/
theorem test_perm_reverse : answers (exec (.perm (opsI .i32 4 6 8 0 0x2053)) (regs bench [(6, same 0x44332211)]))
      (fun t => reg t 4 0 == 0x11223344) = true
    ∧ answers (exec (.perm (ops .i32 4 6 8 10)) (regs bench [(6, same 0x44332211), (8, same 0x88776655), (10, same 0x80070400)]))
      (fun t => reg t 4 0 == 0x00885511) = true := by decide
/-- R180: lane k of `.xor` with 1 reads lane k ^ 1; `.rot` by 1 with EDGE in segments of 8 gives 0 past the end. -/
theorem test_shuffle : answers (exec (.shfl (opsI .i32 4 6 8 0 0x17)) (regs bench [(6, lanes (100 + ·)), (8, same 1)]))
      (fun t => reg t 4 0 == 101 && reg t 4 31 == 130) = true
    ∧ answers (exec (.shfl (opsI .i32 4 6 8 0 0x2D)) (regs bench [(6, lanes (100 + ·)), (8, same 1)]))
      (fun t => reg t 4 6 == 107 && reg t 4 7 == 0 && reg t 4 8 == 109) = true := by decide
/-- R182: the rank of lane 3 among odd values is 1; `.mask` over lanes 0 to 31 with odd values. -/
theorem test_vote : answers (exec (.vote (opsI .i32 4 6 0 0 3)) (regs bench [(6, lanes id)])) (fun t => reg t 4 3 == 1) = true
    ∧ answers (exec (.vote (opsI .i32 4 6 0 0 0)) (regs bench [(6, lanes id)])) (fun t => reg t 4 9 == 0xAAAAAAAA) = true := by decide
/-- R177: each byte by bit 0 of C's. -/
theorem test_sel : answers (exec (.sel (ops .n8 4 6 8 10)) (regs bench [(6, same 0x44332211), (8, same 0x88776655), (10, same 0x01FE0100)]))
    (fun t => reg t 4 0 == 0x44772255) = true := by decide
/-- R184: the high half of signed bytes, widened. -/
theorem test_unpack : answers (exec (.unpack (opsI .i8 4 6 0 0 1)) (regs bench [(6, same 0x80330000)]))
    (fun t => reg t 4 0 == 0xFF800033) = true := by decide

/-! ### System registers -/

theorem witness_SystemRegisterReads : ([0x000, 0x001, 0x002, 0x003, 0x004, 0x005, 0x006, 0x007, 0x020, 0x021, 0x022, 0x040, 0x041].all
      fun n => meets (.mfs (opsI .i32 4 0 0 0 n)) bench (fun c => !flagsWait c)) = true
    ∧ ([0x010, 0x012, 0x014, 0x030, 0x042].all fun n => meets (.mfs (opsI .i64 4 0 0 0 n)) bench) = true := by decide
theorem witness_SystemRegisterWrites :
    ([(0x020, 0x3F), (0x021, 4), (0x021, 5), (0x022, 0)].all fun p => meets (.mts (opsI .i32 0 6 0 0 p.1)) (regs bench [(6, same p.2)])
      (fun c => !flagsWait c && c.lanes != [] && c.lanes.all fun k => c.rdTy .i32 6 k == p.2)) = true := by decide

/-- R98, R154: SFLAGS takes the low six bits; a mode above 4 is not taken. -/
theorem test_mts_flags : answers (exec (.mts (opsI .i32 0 6 0 0 0x020)) (regs bench [(6, same 0xFFFFFFD5)]))
    (fun t => flagsOf t == 0x15) = true := by decide
/-- R21: the lane's number. -/
theorem test_mfs_lane : answers (exec (.mfs (opsI .i32 4 0 0 0 0)) bench) (fun t => reg t 4 17 == 17) = true := by decide

/-! ### Control flow -/

/-- Guard register v1, whose bit 0 is 1 in lanes 0 and 1 of each slice. -/
def splitGuard (s : State) : State := regs s [(1, lanes fun k => if k % 4 < 2 then 1 else 0)]

/-- What `Claims.GuardedBranch` asks of the slices. -/
def branchFits (target : DWord) (c : Ctx) : Bool :=
  c.sq.isNone && target.toNat % 4 == 0 && c.sl.all fun k => match c.g.slices[k]? with
    | some x => x.act != 0 && decide ((branchOutcome (decide (c.pc.toNat < target.toNat)) target (fallsTo c x)
        (takenMask c k) x).2.2.length ≤ 8)
    | none => true

theorem witness_NopResults : (meets (.nop none) bench && meets (.nop none) seqBench (fun c => c.sq.isSome)) = true := by decide
theorem witness_BranchTaken : (meets (.bra none 3) bench (fun c => (c.pc + 4 * 3).toNat % 4 == 0)
    && meets (.braLiteral none 0x20000) bench && meets (.bra none (-3)) seqBench (fun c => c.sq.isSome)) = true := by decide
theorem witness_GuardedBranch :
    (meets (.bra (some ⟨1, true⟩) 3) (splitGuard bench) (branchFits 0x1000C)
    && meets (.bra (some ⟨1, true⟩) 3) (splitGuard (onSlices bench fun _ x => { x with stack := List.replicate 6 (.rejoin 15) }))
        (branchFits 0x1000C)
    && meets (.braLiteral (some ⟨1, false⟩) 0x8000) (splitGuard bench) (branchFits 0x8000)) = true := by decide
theorem witness_SequencerBranch : ([true, false].all fun n =>
    meets (.bra (some ⟨1, n⟩) 3) seqBench (fun c => c.sq.isSome)) = true := by decide
theorem witness_StackOverflowRaises :
    meets (.bra (some ⟨1, true⟩) 3) (splitGuard (onSlices bench fun k x =>
        { x with stack := if k = 0 then List.replicate 7 (.rejoin 15) else [] }))
      (fun c => c.sq.isNone && c.pc.toNat % 4 == 0 && c.sl.contains 0 && (match c.g.slices[0]? with
        | some x => x.act != 0 && decide (8 < (branchOutcome true 0x1000C (fallsTo c x) (takenMask c 0) x).2.2.length)
        | none => false)) = true := by decide
theorem witness_IndirectBranches : ([Instr.brx none 6 false, .ret none 6 true].all fun i =>
    meets i (regs bench [(6, same 0x20000), (7, same 1)]) (fun c => c.sl.all fun k =>
      activeIn c k != [] && (activeIn c k).all fun j => c.lanes.contains j && c.rd2 6 j == 0x100020000)) = true
    ∧ meets (.brx (some ⟨1, false⟩) 6 false) bench (fun c => c.lanes == []) = true := by decide
theorem witness_Calls : (meets (.call none 4 0x20000) bench (fun c => c.sl.all fun k =>
      activeIn c k != [] && (activeIn c k).all c.lanes.contains)
    && meets (.calli (dA 4 6)) (regs bench [(6, same 0x20000)]) (fun c => c.sl.all fun k =>
      activeIn c k != [] && (activeIn c k).all fun j => c.lanes.contains j && c.rd2 6 j == 0x20000)) = true := by decide
theorem witness_IndirectBranchRaises :
    (meets (.brx none 6 false) (regs bench [(6, lanes fun k => 4 * k)]) (fun c => c.sl.contains 0 && c.lanes.contains 0
        && c.lanes.contains 1 && (activeIn c 0).contains 0 && (activeIn c 0).contains 1 && c.rd2 6 0 != c.rd2 6 1)
    && meets (.ret (some ⟨1, false⟩) 6 false) (splitGuard bench) (fun c => c.sl.contains 0 && activeIn c 0 == [0, 1, 2, 3]
        && c.lanes.contains 0 && !c.lanes.contains 2)
    && meets (.brx none 6 false) (regs bench [(6, same 2)]) (fun c => c.lanes.contains 0 && c.rd2 6 0 % 4 != 0)) = true := by decide
theorem witness_JoinPops : ([[], [SEntry.alt 0x20000 3, .rejoin 15], [.rejoin 0, .rejoin 7]].all fun st =>
    meets .jn (onSlices bench fun _ x => { x with stack := st })) = true := by decide
/-- A gang of slices 0 to 3 issues; the others are a gang that waits or does not. -/
def twoGangs (w : Wait) : State :=
  { onSlices bench (fun k x => if k < 4 then x else { x with gang := 4, wait := w, pc := 0x20000 }) with
    focus := some (.group 1 0 0x0F) }
theorem witness_Regang : ([Wait.none, .regang].all fun w => meets .regang (twoGangs w) (fun c => c.g.slices.length == 8
    && c.sl == [0, 1, 2, 3] && c.g.slices.all (fun x => x.live != 0)
    && (c.g.slices.drop 4).all fun x => (x.wait == .regang) == (w == .regang))) = true := by decide
theorem witness_ExitRemovesLanes : (meets (.exit (some ⟨1, false⟩)) (splitGuard bench) (fun c => !pendingIn c && c.g.longs.isEmpty
      && c.g.aside.isNone && !c.b.ended && (match c.g.slices[0]? with
        | some x => (x.live &&& ~~~takenMask c 0) != 0
        | none => false))
    && meets (.exit none) (twoGangs .none) (fun c => !pendingIn c && (match c.g.slices[4]? with
        | some x => x.live != 0 && !c.sl.contains 4
        | none => false))) = true := by decide
theorem witness_YieldResults : meets .yield bench (fun c => (coreOf c.s c.b.core).teams[teamOf c.b c.party]?.isSome) = true := by decide
theorem witness_SleepResults : ([0, 1, 0x3FFF].all fun n => meets (.sleep (opsI .i32 0 0 0 0 n)) bench
    && meets (.sleep (opsI .i32 0 0 0 0 n)) seqBench) = true := by decide
theorem witness_PhaseHints : ([0, 1, 2].all fun n => meets (.phint (opsI .i32 0 0 0 0 n)) bench) = true
    ∧ meets (.phint { opsI .i32 0 0 0 0 1 with g := some ⟨1, false⟩ }) bench (fun c => c.lanes == []) = true := by decide

/-- R138: the example of a mixed forward branch: T = 0b1100, N = 0b0011. -/
theorem test_mixed_branch : answers (exec (.bra (some ⟨1, true⟩) 3) (splitGuard bench)) (fun t =>
    ((tget t.blocks 1).bind fun k => (tget k.groups 0).bind fun g => g.slices[7]?.map Slice.path)
      == some (0x10004, 3, [.alt 0x1000C 12, .rejoin 15])) = true := by decide
/-- R145: the link is the address after the call: 12 bytes on. -/
theorem test_call_link : answers (exec (.call none 4 0x20000) bench) (fun t => reg t 4 9 == 0x1000C && reg t 5 9 == 0) = true := by decide

/-! ### Floating point -/

theorem witness_RoundingToNearest : (floatTypes.all fun ty => (roundF ty 0 false true 3 (-1)).2 &&& fOF == 0) = true := by
  decide +kernel
theorem witness_FloatArithmeticResults : (floatBase.all fun p => meets (p.1 (dA 4 6)) bench) = true
    ∧ ((floatTwo.zip [Ty.f16, .f64, .bf16, .f64, .f32, .f64]).all fun p => meets (p.1.1 { ops p.2 4 6 8 0 with rm := .rdyn }) bench)
      = true := by decide
theorem witness_FusedMultiplyAddResults : (meets (.fma { ops .bf16 4 6 8 10 with rm := .ra }) bench
    && meets (.fmaD (ops .f64 4 6 8 10)) bench) = true := by decide
theorem witness_FloatExtremes : (meets (.fmin (ops .f16 4 6 8 0)) bench && meets (.fmax (ops .f32 4 6 8 0)) bench
    && meets (.fminD (ops .f64 4 6 8 0)) bench && meets (.fmaxD (ops .f64 4 6 8 0)) bench) = true := by decide
theorem witness_FloatCompares : ([0, 15].all fun m => meets (.fcmp (opsI .bf16 4 6 8 0 m)) bench
    && meets (.fcmpD (opsI .f64 4 6 8 0 m)) bench) = true := by decide
theorem witness_FloatSignAndClass : meets (.fnegBase (dA 4 6)) bench = true
    ∧ ([Instr.fneg, Instr.fclass, Instr.fexpo].all fun i => meets (i (ops .e2m1 4 6 0 0)) bench && meets (i (ops .f64 4 6 0 0)) bench) = true
    ∧ meets (.fsgn (ops .e4m3 4 6 8 0)) bench = true := by decide
theorem witness_FloatIntegralAndScaled : (meets (.frnd (ops .f16 4 6 0 0)) bench && meets (.frndD (ops .f64 4 6 0 0)) bench
    && meets (.fscale (ops .bf16 4 6 8 0)) bench && meets (.fscaleD (ops .f64 4 6 8 0)) bench) = true := by decide
theorem witness_ConversionResults :
    (meets (.fcvt { opsI .e2m1 4 6 0 0 4 with sat := true }) bench && meets (.fcvtD (opsI .f64 4 6 0 0 10)) bench
    && meets (.icvt (opsI .e5m2 4 6 0 0 12)) bench && meets (.icvtD (opsI .f64 4 6 0 0 3)) bench
    && meets (.fcvti { opsI .n8 4 6 0 0 6 with sat := true }) bench && meets (.fcvtiD (opsI .i64 4 6 0 0 5)) bench) = true := by decide
/-- The block of the manual's example: lane 0 100.0, lane 1 -0.3, lane 2 0.0001, lane 3 -0. -/
def quantised : State := regs bench [(6, lanes fun k => [0x42C80000, 0xBE99999A, 0x38D1B717, 0x80000000].getD k 0)]
theorem witness_BlockQuantisation : (meets (.fcvtMx (opsI .e4m3 4 6 8 0 4)) quantised (fun c => c.lanes.length == 32)
    && meets (.fcvtMx (opsI .e2m1 4 6 8 0 4)) bench
    && meets (.fcvtMx (opsI .e5m2 4 6 8 0 4)) (regs bench [(6, same 0x7F800000)])) = true := by decide

/-- R82: what encodings of f32 hold: each kind of operand that the claims of the resolved functions set apart. -/
theorem witness_ResolvedSpecialInputs : decodeF .f32 0x7FC00000 = .nan false ∧ decodeF .f32 0x7F800001 = .nan true
    ∧ decodeF .f32 0x80000000 = .fin true 0 (-149) ∧ decodeF .f32 0x7F800000 = .inf false ∧ decodeF .f32 0xFF800000 = .inf true
    ∧ decodeF .f32 0xC0000000 = .fin true (2 ^ 23) (-22) ∧ oneBits .f32 + zeroBits .f32 true = 0xBF800000
    ∧ (decodeF .f32 0x40400000 = .fin false (3 * 2 ^ 22) (-22) ∧ 3 * 2 ^ 22 % 2 ^ 22 = 0)
    ∧ (decodeF .f32 0x3F000000 = .fin false (2 ^ 23) (-24) ∧ 2 ^ 23 * 2 % 2 ^ 24 = 0 ∧ 2 ^ 23 % 2 ^ 24 ≠ 0) := by decide +kernel
theorem witness_PowerSpecialInputs : (decodeF .f32 0 = .fin false 0 (-149) ∧ decodeF .f32 0xC0400000 = .fin true (3 * 2 ^ 22) (-22))
    ∧ (decodeF .f32 0xFF800000 = .inf true ∧ decodeF .f32 0x7F800000 = .inf false) ∧ oneBits .f32 = 0x3F800000
    ∧ (decodeF .f32 0x7F800001 = .nan true ∧ isZero true (decodeF .f32 0x7F800000) = false ∧ isZero false (decodeF .f32 0x7F800000) = false)
    ∧ (decodeF .f32 0xBF000000 = .fin true (2 ^ 23) (-24) ∧ 2 ^ 23 % 2 ^ 24 ≠ 0) := by decide +kernel
theorem witness_RootsAreRounded : [(Ty.f32, 0x40000000, 0x800000, -22), (.f16, 1, 1, -24), (.bf16, 0x7F7F, 0xFF, 120)
    , (.f64, 0x3FF0000000000000, 2 ^ 52, -52)].all (fun x => decodeF x.1 x.2.1 == .fin false x.2.2.1 x.2.2.2) = true := by decide +kernel

/-- R85, R105: worked encodings: -2.5 and 0.1 of f64 in each smaller type, with the flags of the conversion. -/
theorem test_worked_encodings : ([(Ty.f32, 0xC0200000, 0), (.f16, 0xC100, 0), (.bf16, 0xC020, 0), (.e4m3, 0xC2, 0), (.e5m2, 0xC1, 0)
      , (.e2m1, 0xC, fNX)].all fun x => convertedTo x.1 0 false (decodeF .f64 0xC004000000000000) == x.2) = true
    ∧ ([(Ty.f32, 0x3DCCCCCD, fNX), (.f16, 0x2E66, fNX), (.bf16, 0x3DCD, fNX), (.e4m3, 0x1D, fNX), (.e5m2, 0x2E, fNX)
      , (.e2m1, 0, fUF ||| fNX)].all fun x => convertedTo x.1 0 false (decodeF .f64 0x3FB999999999999A) == x.2) = true := by
  decide +kernel
/-- R106: the example of 470.0 in E4M3: RNE, RNE with SAT, RTZ. -/
theorem test_overflowing_conversion : ([(Rm.rn, false, 0x7F7F7F7F, fOF ||| fNX), (.rn, true, 0x7E7E7E7E, fOF ||| fNX), (.rz, false, 0x7E7E7E7E, fNX)].all
    fun x => answers (exec (.fcvt { opsI .e4m3 4 6 0 0 4 with rm := x.1, sat := x.2.1 }) (regs bench [(6, same 0x43EB0000)]))
      fun t => reg t 4 0 == x.2.2.1 && flagsOf t == x.2.2.2) = true := by decide
/-- R108, R208: the example of -2.5 as i32, n32, and n32 with SAT. -/
theorem test_fcvti_example : ([(Ty.i32, false, 0xFFFFFFFE, fNX), (.n32, false, 0, fNV), (.n32, true, 0, fSI)].all fun x =>
    answers (exec (.fcvti { opsI x.1 4 6 0 0 4 with sat := x.2.1 }) (regs bench [(6, same 0xC0200000)]))
      fun t => reg t 4 0 == x.2.2.1 && flagsOf t == x.2.2.2) = true := by decide
/-- R110 to R112: the example of a block in E4M3. -/
theorem test_block_example : answers (exec (.fcvtMx (opsI .e4m3 4 6 8 0 4)) quantised) (fun t =>
    (List.range 5).map (reg t 4) == [0x7C, 0xBA, 0x00, 0x80, 0x00] && reg t 8 31 == 0x7D && flagsOf t == fUF ||| fNX) = true := by decide
/-- R202: -0 comes before +0; a number comes before a NaN. -/
theorem test_fmin : answers (exec (.fmin (ops .f32 4 6 8 0)) (regs bench [(6, lanes fun k => if k = 0 then 0 else 0x7FC00000)
    , (8, same 0x80000000)])) (fun t => reg t 4 0 == 0x80000000 && reg t 4 1 == 0x80000000 && flagsOf t == 0) = true := by decide
/-- R201: 2^24 + 1 + 2^-24 by `fma` rounds once; infinity less infinity is invalid. -/
theorem test_fadd : answers (exec (.fadd (ops .f32 4 6 8 0)) (regs bench [(6, lanes fun k => if k = 0 then 0x7F800000 else 0x4B800000)
    , (8, lanes fun k => if k = 0 then 0xFF800000 else 0x3F800000)])) (fun t => reg t 4 0 == 0x7FC00000 && reg t 4 1 == 0x4B800000
      && flagsOf t == fNV ||| fNX) = true := by decide

/-! ### Exceptions -/

/-- The lanes of the manual's example of R404: lane 3 misaligned, lane 7 not readable, lane 9 both. -/
def mixedCauses : List LaneCause := [(3, .misa, 0x103), (7, .perm, 0x700), (9, .misa, 0x901), (9, .perm, 0x901)]

theorem mixed_highest : highestOf mixedCauses .misa := by
  unfold highestOf noLower; decide
theorem witness_RaisingRecordsCause : within (.add (ops .i32 4 6 8 0)) bench (fun c => c.sq.isNone && !c.b.ended && c.g.cause.isNone) = true
    ∧ (∀ y ∈ mixedCauses, y.1 < 32) ∧ highestOf mixedCauses .misa := ⟨by decide, by decide, mixed_highest⟩
theorem witness_RaisingInSequencer : within (.nop none) seqBench (fun c => c.sq.isSome && !c.b.ended) = true
    ∧ highestOf [(0, .tlim, 8)] .tlim := ⟨by decide, by unfold highestOf noLower; decide⟩
/-- R404: the masks, cause, lower cause and address of the manual's example. -/
theorem test_cause_record : within (.ld (ops .f32 4 6 0 0)) bench (fun c =>
    let r := causeRec c mixedCauses false
    r.code == 0x05 && r.pmask == 0x208 && r.lmask == 0x80 && r.lower == 0x06 && r.addr == 0x103) = true := by decide

/-- A group with an open long instruction on v10, with a window in every slice. -/
def windowed : State := onGroup bench fun g => { g with
  longs := [{ id := 9, reg := 10, nregs := 1, rem := List.replicate 8 1, slices := 0xFF, left := 3 }] }

theorem witness_GenericCauses :
    (within (.mmaReg (opsI .f32 0 0 2 0 4096)) bench (fun c => c.sq.isNone && !streamOk c)
    && within (.addc (ops .i64 4 6 8 10)) bench (fun c => !c.instr.wellFormed)
    && within (.nop none) (onGroup bench fun g => { g with badCtl := true }) (fun c => c.g.badCtl)
    && within (.movBase (dA 4 10)) (onGroup bench fun g => { g with base := 8, quota := 2 }) (fun c =>
        streamOk c && c.instr.wellFormed && !c.g.badCtl && c.named.contains 10 && decide (c.g.base + c.g.quota ≤ 10))
    && within (.movBase (dA 4 10)) windowed (fun c => streamOk c && c.instr.wellFormed && c.named.contains 10 && !readsFlags c.instr
        && c.sl.contains 7 && c.g.longs.any fun x => x.regs.contains 10 && decide (0 < x.rem.getD 7 0))) = true := by decide
theorem witness_IllegalEncodingRaises :
    (within (.mmaReg (opsI .f32 0 0 2 0 4096)) bench (fun c => (opInfo c.instr).isSome && gangFree c && !streamOk c)
    && within (.addc (ops .i64 4 6 8 10)) bench (fun c => (opInfo c.instr).isSome && gangFree c && !c.instr.wellFormed)) = true := by decide
theorem witness_CausesOfARaise : within (.ld (ops .f32 4 6 0 0)) bench (fun _ => true) = true ∧ (∀ y ∈ mixedCauses, y.1 < 32)
    ∧ ∀ x, highestOf mixedCauses x → x ≠ .ecc := ⟨by decide, by decide, fun x h => by
      rintro rfl
      obtain ⟨⟨k, hk, h⟩, -⟩ := h
      revert k; decide⟩
theorem witness_CausesWriteNothing : within (.movBase (dA 4 10)) (onGroup bench fun g => { g with base := 8 }) (fun c =>
    (opInfo c.instr).isSome && genericCauses c != [] && dataReady c) = true := by decide
theorem witness_TrapRaises : (meets (.trap 7) (onSlices bench fun _ x => { x with act := 0 }) (fun c => c.lanes == [])
    && meets (.trap 7) bench (fun c => c.lanes != [] && !c.b.ended && c.g.cause.isNone)) = true := by decide
theorem witness_BlockHaltResults : (let s := onGroup bench fun g => { g with cause := some { code := 1 } }
    match tget s.blocks 1 with
    | some k => k.h.halt == .running && (match tget k.groups 0 with
        | some g => g.cause.isSome
        | none => false) && decide (k.groups.Pairwise fun x y => x.1 < y.1)
    | none => false) = true := by decide

/-- A block that stopped for a cause of its group, in a launch with a handler. -/
def faulted : State := onRec (onBlock (onGroup bench fun g => { g with cause := some { code := 5, slices := 0xFF } }) fun k =>
  { k with h := { k.h with halt := .halting, why := some .cause, primary := some 0 } }) fun l => { l with handler := 0x40000 }
theorem witness_HandlerEntry : (match tget faulted.blocks 1 with
    | some k => k.h.halt == .halting && k.h.why == some .cause && k.h.primary == some 0 && !k.h.dbgPend
      && (recOf faulted k).handler != 0 && (k.groups.all fun x => x.2.longs.isEmpty) && (match tget k.groups 0 with
        | some g => (match g.cause with
          | some r => r.code != 0x0D
          | none => false) && g.aside.isNone
        | none => false)
    | none => false) = true := by decide
/-- R407: the handler's entry, and the frame's address in STRAPF. -/
theorem test_handler_entry : answers (exec (.blockStopped 1) faulted) (fun t =>
    ((tget t.blocks 1).bind fun k => (tget k.groups 0).bind fun g => g.slices[0]?.map fun x => (x.pc, g.frame)) == some (0x40000, 32768))
    = true := by decide
theorem witness_TrapFrameLayout : ({ code := 5, words := List.replicate 5 0 } : CauseRec).words.length ≤ 5 := by decide

/-- PASID 1: addresses below 2^30, readable and writable, at the same physical addresses. -/
def mapped (s : State) : State := { onFront s fun r => { r with pasidEn := true } with tlb := [⟨1, 0, 30, 0xC, 0, 30⟩] }

/-- A group in handler state whose frame stands at 0x8000, with resume PC 0x20004 there. -/
def handling : State := { mapped (onGroup bench fun g => { g with
    aside := some (g.slices.map fun x => ⟨x.pc, x.act, x.stack, x.gang, x.wait⟩), frame := 0x8000
    taken := some { code := 5, slices := 0xFF } }) with mem := { base := [(0x8010, 4), (0x8012, 2)] } }
/-- The same, each slice of which waited at `regang`. -/
def handlingAtRegang : State := onGroup handling fun g => { g with aside := g.aside.map fun as => as.map fun a => { a with wait := .regang } }
theorem witness_TrapReturn : ([handling, handlingAtRegang].all fun s => meets .tret s fun c => (match c.g.taken with
      | some r => !r.seq
      | none => false) && c.g.aside.isSome && wholeGang c && c.g.longs.isEmpty && c.g.cause.isNone
    && !resumeWaits c && (c.g.aside.map fun as => as.length == c.g.slices.length) == some true
    && vaNat c.s c.l.pasid (c.g.frame + 16) 8 == some 0x20004) = true := by decide
/-- R409: the faulting sub-gang goes on at the resume PC. -/
theorem test_tret : answers (exec .tret handling) (fun t =>
    ((tget t.blocks 1).bind fun k => (tget k.groups 0).bind fun g => g.slices[3]?.map fun x => (x.pc, g.frame)) == some (0x20004, 0))
    = true := by decide
theorem witness_TrapReturnRaises : (meets .tret bench (fun c => c.g.aside.isNone)
    && meets .tret { handling with focus := some (.group 1 0 0x0F) } (fun c => c.g.aside.isSome && !c.sl.contains 4
        && (c.g.slices[4]?.map fun x => x.live != 0) == some true)) = true := by decide
theorem witness_BreakpointResults : (meets .brkpt bench (fun c => !c.l.debug)
    && meets .brkpt (onRec bench fun l => { l with debug := true }) (fun c => c.l.debug && c.s.front.l.dbgLaunch == 0
        && c.b.h.halt == .running && c.b.placed && !c.b.ended && !c.b.complete && decide (c.b.launch < 2 ^ 32) && c.g.aside.isNone && c.g.cause.isNone))
    = true := by decide
theorem witness_UndefinedEncodings : (within (.nop none) bench (fun c => !c.b.ended && gangFree c && c.sq.isNone && c.g.cause.isNone)
    && within (.nop none) seqBench (fun c => !c.b.ended && gangFree c && c.sq.isSome)) = true := by decide

/-! ### The resolution path -/

/-- Three resident pages. -/
def pages3 : List (Nat × Page) := (List.range 3).map fun p => (p, { resident := true })

/-- A block with two pages of program area and a park ring of 64 places. -/
def roomy (s : State) : State := onBlock s fun k => { k with scratch := 8192, cap := 64, pages := pages3 }

/-- `RecordRoom`, as a Bool. -/
def roomFor (c : Ctx) (r : Nat) (ticket : Bool) : Bool :=
  let ks := (c.s.blocks.filter fun x => x.2.core == c.b.core).map (·.2)
  decide (placesTaken c.b + min r c.b.cap ≤ c.b.cap) && decide ((ks.map allowanceTaken).sum + r ≤ 384)
    && (!ticket || decide ((ks.map ticketsTaken).sum < 128))
theorem roomFor_iff (c : Ctx) (r : Nat) (ticket : Bool) : roomFor c r ticket = true ↔ RecordRoom c r (ticket = true) := by
  cases ticket <;> simp [roomFor, RecordRoom, and_assoc]
theorem witness_ResolvedOperationsComplete : (resolvedOps.all fun p =>
    let o := ops (if (p.1 (ops .f64 4 6 (if p.2.2 then 8 else 0) 0)).wellFormed then .f64 else .bf16) 4 6 (if p.2.2 then 8 else 0) 0
    meets (p.1 o) (roomy bench) fun c => roomFor c c.lanes.length (needsTicket o.ty p.2.1 && c.lanes != [])) = true := by decide
theorem witness_ReductionsComplete : ([(Instr.fdot2, Ty.bf16), (.fdot4, .e5m2)].all fun p =>
      meets (p.1 (ops p.2 4 6 8 10)) (roomy bench) fun c => roomFor c c.lanes.length false) = true
    ∧ ([(Instr.gsum, Ty.f16), (.gsumD, .f64), (.gsumsq, .f32), (.gsumsqD, .f64)].all fun p =>
      meets (p.1 (ops p.2 4 6 0 0)) (roomy bench) (fun c => c.lanes != [] && roomFor c (if p.2 = .f64 then 5 else 3) false)
      && meets (p.1 (ops p.2 4 6 0 0)) (onSlices (roomy bench) fun _ x => { x with act := 0 }) fun c => c.lanes == [] && roomFor c 0 false)
    = true := by decide

theorem witness_ResolvedResults : (resolvedOps.all fun p =>
    let o := ops (if (p.1 (ops .f64 4 6 (if p.2.2 then 8 else 0) 0)).wellFormed then .f64 else .bf16) 4 6 (if p.2.2 then 8 else 0) 0
    meets (p.1 o) (roomy bench) fun c =>
      recordsReady c c.lanes.length (needsTicket o.ty p.2.1 && c.lanes.length != 0)) = true := by decide
theorem witness_ResolvedWaits : meets (.fdiv (ops .f32 4 6 8 0)) (onGroup (roomy bench) fun g => { g with
    longs := [{ id := 9, reg := 20, nregs := 1, need := 40, left := 3 }] }) (fun c =>
      !recordsReady c c.lanes.length (needsTicket .f32 0 && c.lanes.length != 0)) = true := by decide
theorem witness_FloatDotProducts : ([(Instr.fdot2, Ty.bf16), (.fdot4, .e5m2)].all fun p =>
    meets (p.1 (ops p.2 4 6 8 10)) (roomy bench) fun c => recordsReady c c.lanes.length false) = true := by decide
theorem witness_GroupSums : ([(Instr.gsum, Ty.f16), (.gsumD, .f64), (.gsumsq, .f32), (.gsumsqD, .f64)].all fun p =>
    meets (p.1 (ops p.2 4 6 0 0)) (roomy bench) fun c => c.lanes != [] && recordsReady c (if p.2 = .f64 then 5 else 3) false)
    = true := by decide
theorem witness_GroupExtremes : ([(Instr.gmax, Ty.n64), (.gmin, .bf16)].all fun p =>
    meets (p.1 (ops p.2 4 6 0 0)) bench fun c => c.lanes != [] && c.sq.isNone) = true := by decide
theorem witness_IntegerGroupSum : meets (.gsumInt (ops .i32 4 6 0 0)) bench = true := by decide
/-- Slot 24 holds a function of one f32 operand. -/
def slotted : State := { roomy bench with front := { bench.front with slots := [(24, ⟨1, [.f32], 1, 100, []⟩)] } }
theorem witness_FunctionSlots : (meets (.fprog (opsI .f32 4 6 0 0 24)) slotted (fun c => (tget c.s.front.slots 24).isSome
      && recordsReady c c.lanes.length false)
    && meets (.fprog (opsI .f32 4 6 0 0 23)) slotted
    && meets (.fprog (opsI .f32 4 6 0 0 63)) slotted (fun c => (tget c.s.front.slots 63).isNone)
    && meets (.fprog (opsI .f64 4 6 0 0 24)) slotted (fun c => (tget c.s.front.slots 24).isSome)) = true := by decide
theorem witness_FunctionSlotsComplete : (meets (.fprog (opsI .f32 4 6 0 0 24)) slotted fun c => (match tget c.s.front.slots 24 with
    | some f => f.tys.contains .f32 && f.arity == 1 && roomFor c c.lanes.length false
    | none => false)) = true := by decide
theorem witness_ParkWait : (meets (.parkw noOps) windowed (fun c => c.sq.isNone && c.g.longs.any fun x => !x.done)
    && meets (.parkw noOps) bench (fun c => c.sq.isNone && c.g.longs.isEmpty && c.g.pend.isEmpty)) = true := by decide

/-- R235, R236: 4 / 1, 1 / 0 and 0 / 0 in f32; the square roots of 2 rounded down and of 4; R237: 1 × 2 + 3 × 4 + 5. -/
theorem test_quotients : (List.map (fun x : Nat × Nat => (resolved .f32 0 0 x.1 x.2).value .f32 0)
    [(0x40800000, 0x3F800000), (0x3F800000, 0), (0, 0)]) = [(0x40800000, 0), (0x7F800000, fDZ), (0x7FC00000, fNV)] := by
  decide +kernel
theorem test_roots : ((resolved .f32 3 2 0x40000000 0).value .f32 3, (resolved .f32 3 2 0x40800000 0).value .f32 3)
    = ((0x3FB504F3, fNX), (0x40000000, 0)) := by decide +kernel
/-- R192: the example: -7 / 2 and its remainder. -/
theorem test_division : (quotient .i32 0xFFFFFFF9 2, remainder .i32 0xFFFFFFF9 2, quotient .n32 0xFFFFFFF9 2)
    = ((0xFFFFFFFD, 0), (0xFFFFFFFF, 0), (0x7FFFFFFC, 0)) := by decide
/-- R238: the example of a sum over eight lanes. -/
theorem test_gsum_example : answers (exec (.gsum (ops .f32 4 6 0 0)) (regs (onSlices (roomy bench) fun k x =>
      if k < 2 then x else { x with act := 0 }) [(6, lanes fun k => [0x40800000, 0x3F800000, 0x3F800000, 0x3F000000, 0x3E000000
        , 0x3D800000, 0x3D000000, 0x3D000000].getD k 0)])) (fun t => ((tget t.blocks 1).bind fun k => (tget k.groups 0).bind fun g =>
    g.longs.head?.map fun x => (x.res, x.flags)) == some ((List.range 8).map fun k => (k, [0x40D80000]), 0)) = true := by decide +kernel

/-! ### The scratchpad and named queues -/

/-- `roomy` with v6 holding `a` in every lane, v8 holding `b`, and zeros above. -/
def with6 (a b : Nat) : State := regs (roomy bench) [(6, same a), (7, same 0), (8, same b), (9, same 0)]

theorem witness_ScratchpadAddresses : within (.nop none) (roomy bench) (fun c => (tget c.s.launches c.b.launch).isSome &&
    (scratchTarget c 8188 4).toOption == some (1, 8188) && (scratchTarget c 8189 4).toOption == none
    && (scratchTarget c (2 ^ 31 + 8) 4).toOption == some (1, 8) && (scratchTarget c (2 ^ 31 + 2 ^ 20) 4).toOption == none
    && (scratchTarget c (2 ^ 31 + 2 ^ 31 - 1) 4).toOption == none && progSize c.b == 8192) = true := by decide
theorem witness_ScratchpadMoves : (scratchMoves.all fun p =>
    let o := pick p.1 [ops .f32 4 6 0 0, ops .f32 0 6 8 0, ops .i8 4 6 0 0, ops .i8 0 6 8 0]
    meets (p.1 o) (with6 8188 5) fun c => c.lanes.all fun k => scratchAddr c o k % p.2.1 o == 0
      && (scratchTarget c (scratchAddr c o k) (p.2.1 o)).toOption == some (1, 8188)) = true := by decide
theorem witness_ScratchpadAtomics : (scratchAtomics.all fun p =>
    let o := pick p.1 [opsI .n64 4 6 8 0 1016, ops .n64 4 6 8 0, ops .n64 4 6 8 10]
    meets (p.1 o) (with6 8 5) fun c => c.lanes.all fun k => atomicAddr c o k % 8 == 0
      && (scratchTarget c (atomicAddr c o k) 8).toOption == some (1, if o.imm = 0 then 8 else 1024)) = true := by decide
theorem witness_ScratchpadCauses : (scratchMoves.all fun p =>
    [8189, 8192, 0x80100000].all fun a =>
      let o := pick p.1 [ops .f64 4 6 0 0, ops .f64 0 6 8 0, ops .n16 4 6 0 0, ops .n16 0 6 8 0]
      meets (p.1 o) (onRec (with6 a 0) fun l => { l with blocks := 2 }) fun c => c.lanes.any fun k =>
        scratchAddr c o k % p.2.1 o != 0 || (scratchTarget c (scratchAddr c o k) (p.2.1 o)).toOption == none) = true := by decide

/-- What `AccessOf` asks of a state, as a Bool. -/
def accessReady (s : State) (x : Nat) (q : Access → Block → Bool := fun _ _ => true) : Bool :=
  match s.accesses.find? (fun y => y.id == x) with
  | some a => !a.queued && !a.landed && (s.cores.all fun c => c.2.xfers.all fun y => y.id != x) && (match tget s.blocks a.b with
    | some k => !k.ended && (k.groups.any fun g => g.2.slices.any fun y => y.live != 0) && q a k
    | none => false)
  | none => false

/-- A scratchpad access of name 7 on the block. -/
def scrAccess (op : AccOp) : State :=
  { roomy bench with accesses := [{ id := 7, b := 1, party := 0, op := op, scr := true, tgt := 1, addr := 8188, len := 4, lanes := [0] }] }
theorem witness_ScratchpadPerforms : ([AccOp.read, .write [1, 2, 3, 4], .atomic 0 .i32 5 0].all fun op =>
    accessReady (scrAccess op) 7 fun a k => a.scr && !a.op.tile && scratchMay (scrAccess op) a && a.elemIx == 0 && a.tgt == 1
      && pagesIn k 8188 4) = true := by decide
theorem witness_AtomicFunctions : ((0 : Nat) ≤ 9 ∧ Ty.i64 ∈ [Ty.i32, .n32, .i64, .n64] ∧ 2 ^ 64 - 1 < 2 ^ tyWidth .i64) := by decide
/-- R277: increment and decrement wrap at their operand. -/
theorem test_wrapping_atomics : ([(4, 5), (5, 5), (6, 5), (0, 5)].map fun p => (atomicNew 6 .n32 p.1 p.2 0, atomicNew 7 .n32 p.1 p.2 0))
    = [(5, 3), (0, 4), (0, 5), (1, 5)] := by decide
theorem witness_PagePins :
    (meets (.sppin (opsI .i32 0 6 0 0 1)) (with6 0 0) (fun c => c.lanes != [] && (c.lanes.all fun k => c.rd 6 k == 0) && progSize c.b == 8192)
    && meets (.sppin (opsI .i32 0 6 0 0 16)) (onBlock (with6 0 0) fun k => { k with scratch := 65536 + 4096 })
        (fun c => decide (4096 * 16 ≤ progSize c.b) && pinnedPages c.b == [])
    && meets (.sppin (opsI .i32 0 6 0 0 16)) (onBlock (with6 4096 0) fun k => { k with scratch := 131072, pages := [(0, { pinned := true })] })
        (fun c => decide (4096 * 17 ≤ progSize c.b) && pinnedPages c.b == [0])
    && meets (.spfree (opsI .i32 0 6 0 0 1)) (onBlock (with6 0 0) fun k => { k with pages := [(0, { pinned := true, resident := true })] })
        (fun c => pinnedPages c.b == [0])
    && meets (.spfree (opsI .i32 0 6 0 0 3)) (with6 0 0) (fun c => decide (progSize c.b < 4096 * 3))) = true := by decide

/-- Queue 3 of the block, with a ring of 4 places at offset 64 that holds `n` handles from place `h` on. -/
def queued (s : State) (h n : Nat) (allow : Tab Nat) : State := onBlock s fun k =>
  { k with x := { k.x with queues := vmod k.x.queues 3 fun _ =>
    { init := true, base := 64, cap := 4, head := h, count := n, allow := allow } } }

/-- The hypotheses on an initialised queue of the issuer's block. -/
def queueIs (c : Ctx) (n : Nat) (q : Queue → Bool) : Bool := c.lanes != [] && q (queueOf c.b n)

theorem witness_QueueInit : ([2, 512].all fun cap => meets (.qinit (opsI .i32 0 6 8 0 15)) (with6 0 cap) fun c => queueIs c 15 fun q =>
    q.count == 0 && q.pushers == [] && q.poppers == [] && (c.lanes.all fun k => c.rd 6 k == 0 && c.rd 8 k == cap)
      && decide (0 + 8 * cap ≤ progSize c.b)) = true := by decide
theorem witness_QueueAllow : ([(0, 65535), (32, 1)].all fun pv =>
    meets (.qallow (opsI .i32 0 6 0 0 (16 * pv.1 + 3))) (queued (with6 pv.2 0) 0 0 []) fun c => queueIs c 3 fun q =>
      q.init && decide (allowance q pv.1 + pv.2 ≤ 65535) && c.lanes.all fun k => c.rd 6 k == pv.2) = true := by decide
theorem witness_QueuePush : ([(0, 0), (3, 3)].all fun hn =>
    meets (.qpush (opsI .i32 0 6 0 0 3)) (queued (with6 0xABCD 0) hn.1 hn.2 [(0, 1)]) fun c => queueIs c 3 fun q =>
      let a := q.base + 8 * ((q.head + q.count) % q.cap)
      (c.lanes.all fun k => c.rd2 6 k == 0xABCD) && q.init && allowance q (producerOf c.party) != 0 && decide (q.count < q.cap)
        && q.poppers == [] && !scratchPending c.s c.bid c.party && slotFree c.b c.s.nextId a true && pagesIn c.b a 8) = true := by decide
theorem witness_QueuePushBlocks : ([(4, [(0, 1)]), (0, [])].all fun na =>
    meets (.qpush (opsI .i32 0 6 0 0 3)) (queued (with6 0xABCD 0) 0 na.1 na.2) fun c => queueIs c 3 fun q =>
      (c.lanes.all fun k => c.rd2 6 k == 0xABCD) && q.init && (allowance q (producerOf c.party) == 0 || q.count == q.cap)
        && !scratchPending c.s c.bid c.party) = true := by decide
theorem witness_QueuePop : ([Instr.qpop (opsI .i32 4 0 0 0 3), .qtry (opsI .i32 4 0 0 0 3)].all fun i =>
    meets i (queued (with6 0 0) 3 4 []) fun c => queueIs c 3 fun q => q.init && decide (0 < q.count) && q.poppers == []
      && !localPending c.s c.bid c.party && slotFree c.b c.s.nextId (q.base + 8 * q.head) false && pagesIn c.b (q.base + 8 * q.head) 8) = true := by decide
theorem witness_QueueEmpty : ([Instr.qpop (opsI .i32 4 0 0 0 3), .qtry (opsI .i32 4 0 0 0 3)].all fun i =>
    meets i (queued (with6 0 0) 3 0 []) fun c => queueIs c 3 fun q => q.init && q.count == 0 && q.poppers == []
      && !localPending c.s c.bid c.party) = true := by decide
theorem witness_QueueMisuse :
    (([Instr.qpush (opsI .i32 0 6 0 0 2), .qpop (opsI .i32 4 0 0 0 2), .qtry (opsI .i32 4 0 0 0 2)].all fun i =>
      meets i (queued (with6 1 0) 0 0 []) fun c => queueIs c 2 fun q => !q.init)
    && meets (.qpush (opsI .i32 0 6 0 0 3)) (queued (regs (roomy bench) [(7, same 0xFFFFFFFF)]) 0 0 []) (fun c => c.lanes.all fun k => c.rd2 6 k == 0xFFFFFFFF00000000)
    && ([16 * 33 + 3, 2].all fun n => meets (.qallow (opsI .i32 0 6 0 0 n)) (queued (with6 1 0) 0 0 []) fun c => c.lanes != [])
    && meets (.qallow (opsI .i32 0 6 0 0 3)) (queued (with6 1 0) 0 0 [(0, 65535)]) (fun c => queueIs c 3 fun q => allowance q 0 == 65535)
    && ([(0, 2, 1), (0, 3, 0), (0, 2048, 0), (4, 2, 0), (8192 - 8, 2, 0)].all fun p => meets (.qinit (opsI .i32 0 6 8 0 3)) (queued (with6 p.1 p.2.1) 0 p.2.2 [])
        fun c => queueIs c 3 fun q => progSize c.b == 8192 && (q.count != 0 || !capOk p.2.1 || p.1 % 8 != 0 || decide (8192 < p.1 + 8 * p.2.1)))) = true := by decide
/-- R279: a push and the pop after it. -/
theorem test_queue_round : answers (exec (.qpush (opsI .i32 0 6 0 0 3)) (queued (with6 0xABCD 0) 3 0 [(0, 1)])) (fun t =>
    answers (exec (.qpop (opsI .i32 4 0 0 0 3)) { t with focus := some (.group 1 0 0xFF) }) fun u =>
      reg u 4 31 == 0xABCD && reg u 5 0 == 0 && ((tget u.blocks 1).map fun k => ((queueOf k 3).head, (queueOf k 3).count))
        == some (0, 0)) = true := by decide +kernel

/-- A waiter of group 0 on queue 3. -/
def waiting (got : Bool) : Waiter := { party := 0, slices := 0xFF, lanes := 0xFFFFFFFF, dst := 4, handle := 77, got := got, since := 0 }
def popWaits : State := onSlices (onBlock (queued (roomy bench) 3 1 []) fun k =>
  { k with x := { k.x with queues := vmod k.x.queues 3 fun q => { q with poppers := [waiting true] } } }) fun _ x => { x with wait := .queue 3 }
def pushWaits : State := onBlock (queued (roomy bench) 3 3 [(0, 1)]) fun k =>
  { k with x := { k.x with queues := vmod k.x.queues 3 fun q => { q with pushers := [waiting false] } } }
theorem witness_QueueWaiters : ([popWaits, pushWaits].all fun s => meets (.qinit (opsI .i32 0 6 8 0 3)) (onSlices s fun _ x => { x with wait := .none })
    fun c => queueIs c 3 fun q => q.pushers != [] || q.poppers != []) = true := by decide
theorem witness_BlockedPopResumes : (match tget popWaits.blocks 1 with
    | some k => k.h.halt == .running && (queueOf k 3).poppers == [waiting true]
      && ((tget k.groups 0).map fun g => g.aside.isNone && regReady g 4 && regReady g 5) == some true
      && slotFree k popWaits.nextId (64 + 8 * 3) false && pagesIn k (64 + 8 * 3) 8
    | none => false) = true := by decide
theorem witness_BlockedPushResumes : (match tget pushWaits.blocks 1 with
    | some k => k.h.halt == .running && (queueOf k 3).poppers == [] && (queueOf k 3).pushers == [waiting false]
      && allowance (queueOf k 3) 0 != 0 && decide ((queueOf k 3).count < (queueOf k 3).cap)
      && slotFree k pushWaits.nextId (64 + 8 * (6 % 4)) true && pagesIn k (64 + 8 * (6 % 4)) 8
    | none => false) = true := by decide
/-- R271: the waiting push and pop go on. -/
theorem test_waiters_resume : (answers (exec (.queueWaiterResume 1 3) popWaits) (fun t => ((tget t.blocks 1).map fun k =>
      ((queueOf k 3).poppers, (queueOf k 3).count)) == some ([], 0))
    && answers (exec (.queueWaiterResume 1 3) pushWaits) (fun t => ((tget t.blocks 1).map fun k =>
      ((queueOf k 3).pushers, (queueOf k 3).count, rdCell k.scr (64 + 16))) == some ([], 4, 77))) = true := by decide

/-! ### Global memory and tiles -/

/-- `with6` on mapped memory. -/
def at6 (a b : Nat) : State := mapped (with6 a b)

/-- `Reaches`, for one address. -/
def reachesAt (c : Ctx) (rd wr own : Bool) (ea n pa : Nat) : Bool :=
  ea % n == 0 && decide (ea < 2 ^ 57) && (match translate c.s c.l.pasid ea with
    | .ok l => l.pa == pa && !l.ctx && (!rd || l.r) && (!wr || l.w)
    | _ => false)
  && [PhysKind.hbm, .lpddr, .host].contains (physKind pa) && (!rd || !poisoned c.s.mem.poison pa n)
  && (!own || !c.l.det || inRange c.l.owns ea n)

theorem reaches_of (c : Ctx) (rd wr own : Bool) (ea n pa : Nat) (h : reachesAt c rd wr own ea n pa = true) :
    Reaches c rd wr own ea n pa := by
  unfold reachesAt at h
  unfold Reaches
  cases ht : translate c.s c.l.pasid ea <;> simp [ht] at h <;> simp_all
  grind

/-- The instruction is free, and every active lane's address is that of `f`, mapped to itself. -/
def reachesAll (i : Instr) (s : State) (rd wr own : Bool) (n : Nat) (f : Ctx → Nat → Nat) (q : Ctx → Bool := fun _ => true) : Bool :=
  meets i s fun c => c.lanes != [] && q c && c.lanes.all fun k => reachesAt c rd wr own (f c k) n (f c k)

theorem witness_GlobalMoves : (globalMoves.all fun p => [Ty.f32, .n64].all fun ty => [0x3FFFFFF8, 0x100].all fun a =>
    let o := pick p.1 [ops ty 4 6 0 0, ops ty 0 6 8 0]
    reachesAll (p.1 o) (at6 a 5) (!p.2.1) p.2.1 p.2.1 (fullBytes o) fun c k => globalAddr c o k) = true := by decide
/-- None of these addresses waits for the host. -/
def unasked (c : Ctx) (as : List Nat) : Bool := as.all fun a => match translate c.s c.l.pasid a with
  | .ats _ => false
  | _ => true
theorem witness_GlobalCauses : (globalMoves.all fun p =>
    let o := pick p.1 [ops .f32 4 6 0 0, ops .f32 0 6 8 0]
    meets (p.1 o) (at6 0x102 0) (fun c => c.lanes.contains 31 && globalAddr c o 31 % 4 == 2 && unasked c (c.lanes.map (globalAddr c o)))
    && meets (p.1 o) (at6 0x40000000 0) (fun c => unasked c (c.lanes.map (globalAddr c o)) && match translate c.s c.l.pasid (globalAddr c o 0) with
      | .absent _ => true
      | _ => false)
    && meets (p.1 o) (regs (mapped bench) [(6, same 0), (7, same 0x2000000)]) (fun c => decide (2 ^ 57 ≤ globalAddr c o 0))
    && meets (p.1 o) { at6 0x100 0 with tlb := [⟨1, 0, 30, 0, 0, 30⟩] } (fun c => c.g.aside.isNone && unasked c (c.lanes.map (globalAddr c o)) && match translate c.s c.l.pasid 0x100 with
      | .ok l => !l.r && !l.w
      | _ => false)) = true := by decide
theorem witness_WeightCauses : ([4, 0x20000000, 0x1FFFFFFC].all fun a => let o := ops .i64 4 6 0 0
    meets (.ldw o) (at6 a 0) fun c => c.lanes.contains 31 && (globalAddr c o 31 % 8 != 0 || decide (0x20000000 ≤ globalAddr c o 31))) = true := by decide
theorem witness_WeightLoads : ([0, 0x1FFFFFF8].all fun a => let o := ops .i64 4 6 0 0
    meets (.ldw o) (at6 a 0) fun c => c.lanes.all fun k => globalAddr c o k % 8 == 0 && decide (globalAddr c o k < 0x20000000)) = true := by decide

/-- An access of the group to mapped memory, of name 7. -/
def globAccess (op : AccOp) (a n : Nat) : State :=
  { at6 0 0 with accesses := [{ id := 7, b := 1, party := 0, op := op, addr := a, len := n, lanes := [0] }] }
/-- What performing asks for. -/
def mayGo (s : State) (q : Access → Block → Bool := fun _ _ => true) : Bool := accessReady s 7 fun a k => !a.scr && globalMay s a
  && a.elemIx == 0 && decide (a.die < 4) && !a.det && q a k
/-- No exact target is live in the ranges of an access. -/
def targetless (s : State) (a : Access) : Bool := a.ranges.all fun r => targetsAt s r.1 r.2 == []
  && (List.range r.2).all fun j => targetsAt s (r.1 + j) 1 == []
/-- No group of another core has an image. -/
def imageless (s : State) (core : Nat) : Bool := imagePieces s (some core) == []
theorem offImages_of {s : State} {core : Nat} (h : imageless s core = true) (as : List Nat) : offImages s core as := by
  simp only [imageless, beq_iff_eq] at h
  simp [offImages, h, inPieces]
/-- A second block, on core 1, whose group's image begins at address 0. -/
def neighboured (s : State) : State := { s with blocks := s.blocks ++ bench.blocks.map fun x => (2, { x.2 with core := 1 }) }
theorem witness_ImageWritesAreDiscarded : (let s := neighboured (globAccess (.write [1, 2, 3, 4]) 0x100 4)
    mayGo s fun a _ => targetless s a && a.op == .write [1, 2, 3, 4] && (byteAddrs a).head? == some 0x100 && (byteAddrs a).length == 4
      && (byteAddrs a).all fun q => inPieces (imagePieces s (some a.core)) q) = true := by decide +kernel
theorem witness_GlobalPerforms : ([AccOp.read, .write [1, 2, 3, 4]].all fun op => [0x100, 0x7FFFFFFFFC].all fun a =>
    mayGo (globAccess op a 4) fun x _ => targetless (globAccess op a 4) x && imageless (globAccess op a 4) x.core) = true := by decide
theorem witness_GlobalAtomics : (globalAtomics.all fun p =>
    let o := pick p.1 [opsI .n64 4 6 8 0 1016, ops .n64 4 6 8 0, ops .n64 4 6 8 10]
    reachesAll (p.1 o) (at6 0x100 5) true true false 8 (p.2.2.1 · o)) = true
    ∧ (let o := opsI .i32 0 6 8 0 1020
      reachesAll (.redInt o) (at6 0x100 5) true true false 4 (globalAtomicAddr · o)) = true := by decide
theorem witness_GlobalAtomicPerforms : ([AccOp.atomic 9 .i32 1 2, .redInt 0 .i32 5].all fun op =>
    mayGo (globAccess op 0x100 4) fun x _ => targetless (globAccess op 0x100 4) x && x.segs == []
      && imageless (globAccess op 0x100 4) x.core) = true := by decide
theorem witness_FloatReductions : ([Ty.f64, .f32, .bf16].all fun ty => let o := ops ty 0 6 8 0
    reachesAll (.redFloat o) (onRec (at6 0x100 0x7F800001) fun l => { l with rt := 64 }) true true false (fullBytes o)
      (globalAtomicAddr · o) fun c => (c.lanes.all fun k => !onSysatom c.s c.l.pasid (globalAtomicAddr c o k)
        && (List.range 2).all fun j => paOf c (globalAtomicAddr c o k + 2 * j) == globalAtomicAddr c o k + 2 * j)
      && decide (c.lanes.length * 2 ≤ c.l.rt)) = true := by decide
/-- A target at 0x100 on its home die, of `sum`. -/
def withTarget (s : State) (ty : Ty) (sum : Int) : State :=
  modDie s (homeDie 0x100) fun d => { d with targets := [{ addr := 0x100, ty := ty, sum := sum, nz := true, fl := {}, launch := 1 }] }
theorem witness_FloatReductionPerforms :
    (mayGo (globAccess (.redFloat .f32 0x3F800000) 0x100 4) (fun a _ => imageless (globAccess (.redFloat .f32 0x3F800000) 0x100 4) a.core && a.addr % 4 == 0 && physKind a.addr == .hbm
      && targetsAt (globAccess (.redFloat .f32 0x3F800000) 0x100 4) 0x100 4 == [])
    && mayGo (withTarget (globAccess (.redFloat .f32 0x3F800000) 0x100 4) .f32 3)
    && (match decodeF .f32 0x3F800000 with
      | .fin .. => true
      | _ => false)) = true := by decide
theorem witness_ReductionReads : ([Ty.f64, .f16].all fun ty => [0, 1024].all fun n => let o := opsI ty 4 6 0 0 n
    reachesAll (.redget o) (at6 0x100 0) true (o.imm.getLsbD 10) false (fullBytes o) (globalAtomicAddr · o) fun c =>
      (List.range 2).all fun j => paOf c (0x100 + 2 * j) == 0x100 + 2 * j) = true
    ∧ ([true, false].all fun fin => mayGo (withTarget (globAccess (.redget .f32 0 fin) 0x100 4) .f32 (2 ^ 2176)) fun a _ =>
      a.segs == [] && (dieOf (withTarget (globAccess (.redget .f32 0 fin) 0x100 4) .f32 (2 ^ 2176)) (homeDie a.addr)).targets.any fun t =>
        t.addr == a.addr && t.ty == .f32 && t.sum != 0 && t.fl == {}) = true := by decide +kernel
/-- R376, R377: the sum of 1 and the old 2, and what `redget` reads of it. -/
theorem test_reduction : answers (exec (.accessPerforms 7) { globAccess (.redFloat .f32 0x3F800000) 0x100 4 with
      mem := { base := [(0x103, 0x40)] } }) (fun t => ((dieOf t (homeDie 0x100)).targets.map Target.sum) == [3 * 2 ^ 2176]) = true
    ∧ answers (exec (.accessPerforms 7) (withTarget (globAccess (.redget .f32 0 true) 0x100 4) .f32 (3 * 2 ^ 2176))) (fun t =>
      (dieOf t (homeDie 0x100)).targets == [] && (List.range 4).map (homeCell t.mem <| 0x100 + ·) == [0, 0, 0x40, 0x40]) = true := by
  decide +kernel

/-- A descriptor of two rows of 4 bytes at offset 0, pitch 16, and a tile at `a` with row pitch `p` in v10. -/
def tiled (a p : Nat) (hi : Nat := 16 + 2 ^ 24) : State := mapped (regs (roomy bench) [(6, same a), (7, same 0), (8, same 0), (9, same hi), (10, same p)])
/-- What a tile that meets no limit fulfils. -/
def tileGood (o : ExtOps) (ld : Bool) (c : Ctx) : Bool :=
  let u := tileArgs c o
  c.lanes != [] && (c.lanes.all fun j => c.rd2 o.a.r.toNat j == c.rd2 o.a.r.toNat 0 && c.rd o.c.r.toNat j == c.rd o.c.r.toNat 0)
    && ((c.lanes ++ liveLanes c.g).all fun j => c.rd2 o.b.r.toNat j == c.rd2 o.b.r.toNat 0)
    && descCauses c.b u.d 0 u.rows u.rb == [] && tileLimits u == [] && tileOwn c u == [] && tilePoison c u == []
    && tilePages c u { r := ld, w := !ld, misa := false } == [] && decide (u.a + 255 * u.pitch + 1024 < 2 ^ 57)
    && ((List.range u.rows).all fun i => (List.range u.rb).all fun j => (match translate c.s c.l.pasid (u.row i + j) with
      | .ok l => paOf c (u.row i + j + 1) == l.pa + 1
      | _ => false))
    && !rangesFull c.b && decide ((clusterOf c.s (homeCluster (paOf c u.a))).locks.length < 64) && c.l.mmrev != 1
theorem witness_TileIssues : ([0, 1, 2].all fun sc => meets (.ldt (ops .i32 sc 6 8 10)) (tiled 0x100 4) (tileGood (ops .i32 sc 6 8 10) true)
    && meets (.stt (ops .i32 sc 6 8 10)) (tiled 0x100 4) (tileGood (ops .i32 sc 6 8 10) false)) = true := by decide
theorem witness_TileCauses : ([Instr.ldt (ops .i32 2 6 8 10), .stt (ops .i32 2 6 8 10)].all fun i =>
    let u := fun c => tileArgs c (ops .i32 2 6 8 10)
    meets i (regs (roomy bench) [(6, lanes id)]) (fun c => c.lanes.contains 0 && c.lanes.contains 1 && c.rd2 6 0 != c.rd2 6 1)
    && ([(0x102, 4, 16 + 2 ^ 24), (0x100, 6, 16 + 2 ^ 24), (0x100, 0, 16 + 2 ^ 24), (0xFFFC, 4, 16 + 2 ^ 24)].all fun p => meets i (tiled p.1 p.2.1 p.2.2) fun c =>
      unasked c (((List.range (u c).rows).map fun i => (pieces ((u c).row i) (u c).rb).map (·.1)).flatten))
    && meets i (tiled 0x102 4) (fun c => (u c).a % 4 != 0) && meets i (tiled 0x100 0) (fun c => decide (1 < (u c).rows ∧ (u c).pitch < (u c).rb))
    && meets i (tiled 0x100 6) (fun c => decide (1 < (u c).rows) && (u c).pitch % 4 != 0)
    && meets i (tiled 0x100 4 (2 ^ 32 - 1)) (fun c => decide (16384 < (u c).rows * (u c).rb))
    && meets i (tiled 0xFFFC 4) (fun c => (u c).scope != 1
      && (u c).a / 65536 != ((u c).a + ((u c).rows - 1) * (u c).pitch + (u c).rb - 1) / 65536)) = true := by decide
/-- A tile access of two rows of 32 bytes, rotated, that has its lock where its scope takes one. -/
def tileAccess (op : AccOp) (scope : Nat := 3) : State := { globAccess op 0x100 64 with
  accesses := [{ id := 7, b := 1, party := 0, op := op, tgt := 1, addr := 0x100, len := 64, segs := [(0x100, 32), (0x200, 32)], lanes := [0]
                 scope := scope, locked := scope != 1, srcRead := true, data := List.replicate 64 1 }] }
/-- A tile store that has written its rows. -/
def tileLanded : State := let s := tileAccess (.tileStore 2 32 0 32 5)
  { s with accesses := s.accesses.map fun a => { a with landed := true } }
theorem witness_TileLoadPerforms : (mayGo (tileAccess (.tileLoad 2 32 0 32 5)) fun a k => a.scope != 1 && (byteAddrs a).length == 64
    && targetless (tileAccess (.tileLoad 2 32 0 32 5)) a && a.tgt == 1 && k.sblock == 0) = true ∧ tileFits 2 32 32 5 :=
  ⟨by decide, by decide, by decide, by decide, fun _ => ⟨5, by decide, by decide, rfl⟩⟩
theorem witness_TileStorePerforms : (mayGo (tileAccess (.tileStore 2 32 0 32 5)) fun a k => a.scope != 1 && targetless (tileAccess (.tileStore 2 32 0 32 5)) a
      && imageless (tileAccess (.tileStore 2 32 0 32 5)) a.core
      && k.x.ranges == [] && pagesIn k 0 32 && pagesIn k 32 32) = true
    ∧ (let s := { tileAccess (.tileStore 2 32 0 32 5) with accesses := (tileAccess (.tileStore 2 32 0 32 5)).accesses.map (fun a => { a with srcRead := false }) }
      (s.accesses.find? fun y => y.id == 7).isSome && (xferOf s 0 7).isNone) = true
    ∧ (match tget tileLanded.blocks 1 with
      | some k => !k.ended && (k.groups.any fun g => g.2.slices.any fun y => y.live != 0) && tileLanded.mem.log == []
        && tileLanded.accesses.all fun y => y.id == 7 && y.landed
      | none => false) = true := by decide
theorem witness_BlockTilesMoveByWords : ([AccOp.tileLoad 2 32 0 32 5, .tileStore 2 32 0 32 5].all fun op => [[], (List.range 15).map fun w => (w, [])].all fun ps =>
    let s := { tileAccess op 1 with accesses := (tileAccess op 1).accesses.map fun a => { a with parts := ps } }
    mayGo s fun a _ => imageless s a.core && a.scope == 1 && a.op.tile && a.wordsLeft.length + ps.length == 16 && a.wordsLeft.all fun w => targetsAt s w.2 4 == []
      && (List.range 4).all fun j => targetsAt s (w.2 + j) 1 == []) = true := by decide
theorem witness_TileLockGrants : (let t := tileAccess (.tileStore 2 32 0 32 0)
    let s := modCluster { t with accesses := t.accesses.map fun a => { a with locked := false } } 3 fun c => { c with locks := [7] }
    s.accesses.all fun a => (clusterOf s 3).locks == [a.id] && !a.locked && globalMay s { a with locked := true }) = true := by decide
/-- Pair A and scope 5, `.sys`. -/
def sysOps (a : Nat) : ExtOps := { ops .i32 0 a 0 0 with c := { plain 0 with w := 5 } }
theorem witness_CacheHints : (meets (.prf (ops .i32 0 6 0 0)) (at6 0x100 0)
    && reachesAll (.cflush (sysOps 6)) (at6 0x100 0) false true false 1 fun c k => globalAddr c (sysOps 6) k) = true
    ∧ accessReady (globAccess .flush 0x100 128) 7 (fun a _ => !a.scr && globalMay (globAccess .flush 0x100 128) a) = true := by decide
theorem witness_TranslationProbe : ([(0x100, 0), (0, 0x2000000), (0x40000000, 0)].all fun a => meets (.xprobe (ops .i32 4 6 0 0))
    (mapped (regs (roomy bench) [(6, same a.1), (7, same a.2)])) fun c => c.lanes.all fun k => match translate c.s c.l.pasid (c.rd2 6 k) with
      | .ats _ => false
      | _ => true) = true := by decide

/-! ### Blocks, barriers and fences -/

/-- Group 1 stands beside group 0. -/
def twoGroups (s : State) : State := onBlock s fun k => { k with groups := k.groups ++ k.groups.map fun x => (1, x.2) }
/-- `GroupsInOrder`, as a Bool. -/
def groupsRise (k : Block) : Bool := decide ((k.groups.map (·.1)).Pairwise (· < ·)) && k.groups.all fun g =>
  decide (g.1 < 32) && decide (g.2.slices.length ≤ 8)
theorem groupsRise_iff (k : Block) : groupsRise k = true ↔ GroupsInOrder k := by
  simp [groupsRise, GroupsInOrder, Rises]
/-- Pair v6 holds `a`, pair v8 holds `b`; the first block is not yet placed in any queue. -/
def entries (a b : Nat) : State := with6 a b
/-- Some live group has not arrived at `fork`. -/
def missing (c : Ctx) : Bool := (liveGroups c.b).any fun g => g != c.party && c.b.forkArr.all fun e => e.1 != g

theorem witness_ForkGathers : ([entries 0x20000 0, twoGroups (entries 0x20000 0x30000)
      , onBlock (twoGroups (entries 0x20000 0x30000)) fun k => { k with forkArr := [(1, 5, 6)] }].all fun s =>
    meets (.fork (ops .i32 0 6 8 0)) s fun c => c.sq.isNone && !c.b.forked && c.lanes != [] && groupsRise c.b
      && leadGroup c.b == some c.party && (c.lanes.all fun k => c.rd2 6 k == 0x20000 && c.rd2 8 k % 4 == 0)
      && (missing c || fileReady c.g)) = true := by decide
theorem witness_ForkCauses : (meets (.fork (ops .i32 0 6 8 0)) (onBlock (entries 0 0) fun k => { k with forked := true }) (fun c => c.b.forked)
    && meets (.fork (ops .i32 0 6 8 0)) (regs bench [(6, lanes id)]) (fun c => leadGroup c.b == some c.party && c.rd2 6 0 != c.rd2 6 1)
    && meets (.fork (ops .i32 0 6 8 0)) (entries 2 0) (fun c => leadGroup c.b == some c.party && c.rd2 6 0 % 4 != 0)
    && meets (.fork (ops .i32 0 6 8 0)) (entries 4 3) (fun c => c.rd2 6 31 % 4 == 0 && c.rd2 8 31 % 4 != 0)) = true := by decide
theorem witness_JoinGathers : ([bench, seqBench, twoGroups bench].all fun s => meets (.join noOps) s fun c => groupsRise c.b
      && (liveGroups c.b).length != 0 && !c.b.ended && c.b.forkArr == [] && match c.sq with
        | some q => q.busy == []
        | none => true) = true := by decide
/-- R280: the sequencers start where `fork` says, with the lead group's registers. -/
theorem test_fork : answers (exec (.fork (ops .i32 0 6 8 0)) (entries 0x20000 0)) (fun t => ((tget t.blocks 1).map fun k =>
    (k.mseq.pc, k.mseq.running, k.cseq.running, k.mseq.regs.getD 6 0)) == some (0x20000, true, false, 0x20000)) = true := by decide

/-- A matrix barrier 5 of the block. -/
def mbarred (s : State) (x : MBar) : State := onBlock s fun k => { k with x := { k.x with mbars := vmod k.x.mbars 5 fun _ => x } }
theorem witness_MatrixBarrierArrivals : ([bench, seqBench].all fun s => [({}, 1), ({ arrived := 33, e := some 34 }, 34), ({ arrived := 1, e := some 3 }, 2)].all
      fun (p : MBar × Nat) => meets (.mbarv (opsI .i32 0 0 0 0 (5 + 16 * p.2))) (mbarred s p.1) fun c => c.lanes != [] && (c.sq.isSome || wholeGang c)
        && !mbarWaits c && mbarOf c.b 5 == p.1) = true := by decide
theorem witness_MatrixBarrierWaits : ([bench, seqBench].all fun s => [0, 15].all fun n => meets (.mbarw (opsI .i32 0 0 0 0 n)) s fun c =>
    c.lanes != [] && (c.sq.isSome || wholeGang c)) = true := by decide
theorem witness_MatrixBarrierGangs : ([Instr.mbarv (opsI .i32 0 0 0 0 21), .mbarw (opsI .i32 0 0 0 0 5)].all fun i =>
    meets i (twoGangs .none) fun c => c.lanes != [] && c.sq.isNone && !c.sl.contains 7 && (c.g.slices[7]?.map fun x => x.live != 0) == some true)
    = true := by decide
theorem witness_MatrixBarrierReleases : ([0, 1, 2 ^ 32 - 1].all fun w => match tget (mbarred (onSlices bench fun _ x => { x with wait := .mbarw 5 })
      { c := 0, waits := [(0, w)] }).blocks 1 with
    | some k => groupsRise k && (tget k.groups 0).isSome && tcount (mbarOf k 5).waits 0 == w
    | none => false) = true ∧ isAhead 0 (2 ^ 32 - 1) ∧ ¬isAhead 0 0 ∧ ¬isAhead 0 1 := ⟨by decide, by unfold isAhead; decide⟩
/-- Named barrier 9 of the block. -/
def nbarred (s : State) (x : NBar) : State := onBlock s fun k => { k with x := { k.x with nbars := vmod k.x.nbars 9 fun _ => x } }
/-- Expectation and contribution of every lane in v6. -/
def arriving (e n : Nat) : State := regs bench [(6, same (e + 65536 * n))]
theorem witness_NamedBarrierArrivals : ([Instr.bar (opsI .i32 0 6 0 0 9), .barv (opsI .i32 0 6 0 0 9)].all fun i =>
    [(64, 1, ({} : NBar)), (64, 1, { total := 32, e := some 64 }), (65535, 0, {}), (64, 1, { e := some 63 }), (31, 1, {}), (0, 1, {})].all fun p =>
      meets i (nbarred (arriving p.1 p.2.1) p.2.2) fun c => c.lanes.length == 32 && (c.lanes.all fun k => c.rd 6 k % 65536 == p.1)
        && !arrivalWaits c) = true := by decide
theorem witness_NamedBarrierLanes : ([Instr.bar (opsI .i32 0 6 0 0 9), .barv (opsI .i32 0 6 0 0 9)].all fun i =>
    meets i (regs bench [(6, lanes id)]) fun c => c.lanes.contains 3 && c.lanes.contains 4 && c.rd 6 3 % 65536 != c.rd 6 4 % 65536) = true := by decide
theorem witness_NamedBarrierWaits : ([0, 31].all fun n => meets (.barw (opsI .i32 0 0 0 0 n)) bench fun c => c.lanes != []) = true := by decide
theorem witness_NamedBarrierReleases : ([Wait.barw 9, .bar 9 3, .bar 9 4, .none].all fun w =>
    match tget (nbarred (onSlices bench fun _ x => { x with wait := w }) { c := 3, waits := [(0, 2), (63, 3)] }).blocks 1 with
    | some k => groupsRise k && (nbarOf k 9).c == 3
    | none => false) = true ∧ isAhead 3 2 ∧ ¬isAhead 3 3 ∧ isAhead 4 3 := ⟨by decide, by unfold isAhead; decide⟩
theorem witness_StepBarrierArrivals : (meets (.sbar noOps) bench (fun c => !c.l.step)
    && meets (.sbar noOps) (onRec (twoGangs .none) fun l => { l with step := true }) (fun c => c.l.step && !c.sl.contains 7
      && (c.g.slices[7]?.map fun x => x.live != 0) == some true)
    && meets (.sbar (opsI .i32 0 0 0 0 7)) (onRec bench fun l => { l with step := true }) (fun c => c.l.step && wholeGang c && !sbarWaits c)) = true := by decide
/-- Every group of the launch waits at `sbar 7`. -/
def atStep : State := onRec (onSlices (twoGroups bench) fun _ x => { x with wait := .sbar 7 }) fun l => { l with step := true }
theorem witness_StepBarrierReleases : (match tget atStep.launches 1 with
    | some x => sbarReady atStep 1 x && x.r.setNo == 0 && (sbarParties atStep 1 == [(1, 0, 7), (1, 1, 7)])
    | none => false) = true ∧ (atStep.blocks.map (·.1)).Pairwise (· < ·) := by decide

theorem witness_FenceNumbers : ([0, 1, 2, 3].all fun n => meets (.fence (opsI .i32 4 0 0 0 n)) (globAccess .read 0x100 4) fun c =>
    c.lanes != [] && decide ((openFences c.s c.g).length < 8)) = true := by decide
/-- Fences 1 to 3, of which 2 covers an access that has not performed. -/
def fenced (s : State) : State := onGroup s fun g => { g with fenceNo := 3, fences := [⟨1, 3, 4, []⟩, ⟨2, 3, 4, [7]⟩, ⟨3, 3, 4, []⟩] }
theorem witness_FenceWaits : ([0, 1, 2, 3, 4, 2 ^ 32 - 1].all fun n => meets (.fwait (ops .i32 0 6 0 0)) (fenced (onGroup (globAccess .read 0x100 4)
      fun g => { g with lines := [(6, same n)] })) fun c => c.lanes != [] && (c.lanes.all fun k => c.rd 6 k == n)
        && ((openFences c.s c.g).map Fence.no == [2])) = true
    ∧ meets (.fwait (ops .i32 0 6 0 0)) (regs bench [(6, lanes id)]) (fun c => c.rd 6 0 != c.rd 6 1) = true := by decide
theorem witness_Covered : ([.read, .flush].all fun op => (globAccess op 0x100 4).accesses.all fun a => !a.landed) = true
    ∧ Covered bench ⟨2, 1, 4, [7]⟩ 7 ∧ ¬Covered (globAccess .read 0x100 4) ⟨2, 1, 4, [7]⟩ 7 := by unfold Covered; decide
theorem witness_FenceReleases : (match tget (fenced (onSlices (globAccess .read 0x100 4) fun _ x => { x with wait := .fwait [2] })).blocks 1 with
    | some k => (tget k.groups 0).isSome
    | none => false) = true ∧ performedAt (fenced (globAccess .read 0x100 4)) 7 4 = false ∧ performedAt (fenced bench) 7 4 = true := by decide
/-- R370: `fwait` on fence 1 goes on; on fence 3 it waits for fence 2. -/
theorem test_fwait : ([(1, Wait.none), (3, .fwait [2])].all fun p => answers (exec (.fwait (ops .i32 0 6 0 0)) (fenced (onGroup
      (globAccess .read 0x100 4) fun g => { g with lines := [(6, same p.1)] }))) fun t => ((tget t.blocks 1).bind fun k =>
    (tget k.groups 0).bind fun g => g.slices[0]?.map Slice.wait) == some p.2) = true := by decide
/-- A request for `n` lines of the extended pool. -/
def asking (n : Nat) : State := { onSlices bench (fun _ x => { x with wait := .xacq }) with
  cores := [(0, { teams := Vector.replicate 4 { xq := [(1, 0, n, 255)] } })] }
theorem witness_ExtendedPoolGrants : ([1, 768, 769].all fun n => match tget (asking n).blocks 1 with
    | some k => headRequest (asking n) 0 (teamOf k 0) == some (1, 0, n, 255) && (tget k.groups 0).isSome && poolFree k 0 == 768
    | none => false) = true
    ∧ (let s := onGroup (asking 1) fun g => { g with aside := some (g.slices.map fun x => ⟨x.pc, x.act, x.stack, x.gang, x.wait⟩) }
      match tget s.blocks 1 with
      | some k => headRequest s 0 (teamOf k 0) == some (1, 0, 1, 255) && ((tget k.groups 0).bind fun g => g.aside.bind fun as =>
          as[7]?.map Aside.wait) == some .xacq
      | none => false) = true := by decide
theorem witness_SleepersWake : ([0, 5].all fun n => match tget (onSlices bench fun _ x => { x with wait := .sleep n }).blocks 1 with
    | some k => (tget k.groups 0).isSome
    | none => false) = true ∧ sref bench = 0 := by decide

/-! ### The matrix engine -/

/-- The sequencer's registers: pair v6 holds `a`, pair v8 holds `b`, v10 holds `c`. -/
def seqRegs (a b c : Nat) : State := mapped (onBlock (roomy seqBench) fun k => { k with mseq := { k.mseq with
  regs := ((((k.mseq.regs.setIfInBounds 6 (BitVec.ofNat 32 a)).setIfInBounds 7 (BitVec.ofNat 32 (a / 2 ^ 32))).setIfInBounds 8
    (BitVec.ofNat 32 b)).setIfInBounds 9 (BitVec.ofNat 32 (b / 2 ^ 32))).setIfInBounds 10 (BitVec.ofNat 32 c) } })
/-- Operands of a product of f16 or bf16 with scale records for the narrow types: `imm` adds to the type of B. -/
def prod (ty : Ty) (code d a b c imm : Nat) : ExtOps := opsI ty d a b c (code * 1024 + imm)

theorem witness_FeederFormsEnter : ([Instr.mmaReg, .mmazReg].all fun f => [prod .f16 6 7 16 32 0 0, prod .e2m1 10 7 16 32 40 512].all fun o =>
    meets (f o) seqBench fun c => match tget c.b.groups (o.imm.toNat % 32) with
      | some g => (feederLines o).all (nameable g) && !queueShort c (regOp c o) o false && (coreOf c.s c.b.core).spillQ == []
        && (blocksOn c.s c.b.core).all fun x => (unacted x.2).isEmpty
      | none => false) = true := by decide
/-- A descriptor of 16 rows of 32 bytes at `base`, pitches 32 and 512. -/
def image (base : Nat) : Nat := base + 32 * 2 ^ 32 + 512 * 2 ^ 48
theorem witness_ScratchFormsEnter : ([Instr.mmaSp, .mmazSp].all fun f => [prod .f16 6 7 6 8 0 3, prod .e2m1 10 7 6 8 10 515].all fun o =>
    meets (f o) (seqRegs (image 0) (image 0x1000) (8192 - 256)) fun c => decide (footprints c.s c.b.core < 16)
      && (coreOf c.s c.b.core).spillQ == [] && c.b.x.ranges == [] && (blocksOn c.s c.b.core).all (fun x => (unacted x.2).isEmpty) && imageCauses c.b (descOf (c.rd2 6 0)) o.ty 3 == [] && imageCauses c.b (descOf (c.rd2 8 0)) (typeB o) 3 == []
      && decide (c.rd o.c.r.toNat 0 + 64 * 3 + 64 ≤ progSize c.b) && (c.rd o.c.r.toNat 0 + 64 * 3) % 16 == 0) = true := by decide
/-- Every line that the product names holds 1.0, and the core's spill queue is full. -/
def crowded (s : State) (o : ExtOps) : State := { regs s ((feederLines o).map fun r => (r, same 0x3C003C00)) with
  cores := [(0, { spillQ := List.replicate 1024 ⟨1, 5, 7, 2, 9⟩ })] }
theorem witness_ProductsWait : (let o := prod .f16 6 7 16 32 0 0
      let s := onBlock (crowded seqBench o) fun k => { k with x := { k.x with accs := vmod k.x.accs 7 fun _ => [(2, { av := true, sp := true, a := -2176 })] } }
      meets (.mmaReg o) s fun c => queueShort c (regOp c o) o false && match tget c.b.groups 0 with
        | some g => (feederLines o).all (nameable g)
        | none => false) = true
    ∧ (let o := prod .f16 6 7 6 8 0 3
      let m : MatOp := { id := 5, instr := .mmaSp o, pc := 0, acc := 7, foot := [(0, 512)] }
      meets (.mmaSp o) (onBlock (seqRegs (image 0) (image 0x1000) 0) fun k => { k with x := { k.x with mops := List.replicate 16 m } }) fun c =>
        decide (16 ≤ footprints c.s c.b.core) && imageCauses c.b (descOf (c.rd2 6 0)) o.ty 3 == []
          && imageCauses c.b (descOf (c.rd2 8 0)) (typeB o) 3 == []) = true := by decide +kernel
/-- R486: a copy into the first operand's row is due. -/
theorem witness_CopyDue : (let o := prod .f16 6 7 6 8 0 3
    meets (.mmaSp o) (onBlock (seqRegs (image 0) (image 0x1000) 0) fun k => { k with x := { k.x with ranges := [{ lo := 0, hi := 8191, out := false, owner := 3 }] } }) fun c =>
      decide (footprints c.s c.b.core < 16) && imageCauses c.b (descOf (c.rd2 6 0)) o.ty 3 == [] && imageCauses c.b (descOf (c.rd2 8 0)) (typeB o) 3 == []
        && c.b.x.ranges.any fun r => !r.out && overlap (512 * 3) 512 r.lo (r.hi + 1 - r.lo)) = true := by decide +kernel
theorem witness_MatrixFormCauses : ([Instr.mmaReg, .mmazReg].all fun f => meets (f (prod .f16 6 7 16 32 0 1)) seqBench (fun c => (tget c.b.groups 1).isNone)
      && meets (f (prod .f16 6 7 252 32 0 0)) seqBench (fun c => match tget c.b.groups 0 with
        | some g => (feederLines (prod .f16 6 7 252 32 0 0)).all (nameable g)
        | none => false)
      && meets (f (prod .f16 6 7 252 32 0 0)) (onGroup seqBench fun g => { g with base := 255 }) fun c => match tget c.b.groups 0 with
        | some g => (feederLines (prod .f16 6 7 252 32 0 0)).any fun r => !nameable g r
        | none => false) = true
    ∧ ([Instr.mmaSp, .mmazSp].all fun f => [image 8, image 8192, image 0x7F00, 16 + 16 * 2 ^ 32, image 0x3000].all fun v =>
      meets (f (prod .f16 6 7 6 8 0 0)) (seqRegs v (image 0) 0) fun c => c.rd2 6 0 == v && progSize c.b == 8192 && ringSize c.b == 4096) = true := by decide

/-- One matrix instruction of the block. -/
def engine (s : State) (q : MatOp) : State := onBlock s fun k => { k with x := { k.x with mops := [q] } }
def opOf (i : Instr) (acc : Nat := 7) : MatOp := { id := 5, instr := i, pc := 0x10000, acc := acc }
theorem witness_FeederOperandsRead : ([Instr.mmaReg, .mmazReg].all fun f => let o := prod .e2m1 10 7 16 32 40 512
    let q := { opOf (f o) with group := some 0, regs := feederLines o, kills := [16] }
    match tget (engine seqBench q).blocks 1 with
    | some k => (k.x.mops.find? fun x => x.id == 5 && !x.read && !x.acted) == some q && (match tget k.groups 0 with
        | some g => (feederLines o).all (fun r => lineReady g 5 r && !poisonedReg g r) && g.holds == []
        | none => false)
    | none => false) = true := by decide
theorem witness_ScratchOperandsRead : ([Instr.mmaSp, .mmazSp].all fun f => let o := prod .e2m1 10 7 6 8 10 515
    let q := { opOf (f o) with foot := [(0, 512), (4096, 512), (8192 - 64, 64)] }
    match tget (engine (roomy seqBench) q).blocks 1 with
    | some k => (k.x.mops.find? fun x => x.id == 5 && !x.read && !x.acted) == some q && q.group.isNone && k.x.ranges == []
        && q.foot.all fun f => pagesIn k f.1 f.2 && !poisoned k.scrPoison f.1 f.2
    | none => false) = true := by decide
/-- `FirstOp` and `Alive`, with room in the spill queue. -/
def firstOp (s : State) (q : MatOp) (p : Block → Bool := fun _ => true) : Bool := match tget s.blocks 1 with
  | some k => k.x.mops.head? == some q && q.id == 5 && !q.acted && q.stalled.isNone && !k.ended
      && (k.groups.any fun g => g.2.slices.any fun y => y.live != 0) && (coreOf s k.core).spillQ == [] && decide (k.core < 768) && p k
  | none => false
/-- Elements of accumulator 7: unset, set, and spilled. -/
def elems (s : State) : State := onBlock s fun k => { k with x := { k.x with accs := vmod k.x.accs 7 fun _ =>
  [(1, { w := 5, a := -149, av := true }), (2, { av := true, sp := true, a := -2176 })] } }
theorem witness_ProductsAccumulate : ([Instr.mmaReg, .mmaSp, .mmazReg, .mmazSp].all fun f => let o := prod .f16 6 7 16 32 0 0
    let q := { opOf (f o) with read := true, aImg := List.replicate 512 0x3C, bImg := List.replicate 512 0x3C }
    q.instr.wellFormed && firstOp (engine (elems seqBench) q) q fun k => (List.range 256).all fun e =>
      (let x := elemOf k 7 e
       (x.av || (x.w == 0 && !x.sp)) && (!x.av || decide (-2176 ≤ x.a)))) = true := by decide +kernel
theorem witness_ContributionsArrive : (let s := { elems seqBench with cores := [(0, { spillQ := [⟨1, 5, 7, 2, 9⟩] })] }
    match tget s.blocks 1 with
    | some k => (coreOf s 0).spillQ == [⟨1, 5, 7, 2, 9⟩] && k.core == 0 && (elemOf k 7 2).sp
    | none => false) = true := by decide +kernel
theorem witness_AddressedFormsEnter : ([Instr.acld, .acst, .lutld].all fun f => [64, 65].all fun a => let o := pick f [ops .i32 7 6 0 0, ops .i32 0 6 0 0]
    meets (f o) (seqRegs a 0 0) fun c => c.rd2 6 0 == a) = true := by decide
theorem empty_view (s : State) (v : Viewer) (rs : List (Nat × Nat)) (hm : s.mem = {}) (ht : ∀ a, targetsAt s a 1 = []) :
    seenBytes s v rs = List.replicate ((rs.map fun r => span r.1 r.2).flatten).length 0 := by
  rw [seenBytes, List.eq_replicate_iff]
  simp only [List.length_map, List.mem_map, true_and]
  rintro b ⟨a, -, rfl⟩
  simp [seenCell, liveByte, ht, hm, nearCell, lastCell, rdCell]
  rfl

theorem targetless_of {s : State} (h : s.dies = Vector.replicate 4 {}) (a n : Nat) : targetsAt s a n = [] := by
  have h : ∀ d, (dieOf s d).targets = [] := by
    intro d
    by_cases hd : d < 4 <;> simp [dieOf, h, hd, Vector.getD, Array.getD]
  simp [targetsAt, h]

/-- Four pages that follow one another. -/
def fourPages (a : Nat) : List (Nat × Nat) := (List.range 4).map fun i => (a + 4096 * i, 4096)
theorem fourPages_nodup (a : Nat) : (segAddrs (fourPages a)).Nodup := by
  simp only [segAddrs, fourPages, List.Nodup, List.pairwise_flatMap, List.pairwise_map]
  refine ⟨fun r _ => ?_, ?_⟩
  · exact List.Pairwise.imp (fun h => by omega) (List.pairwise_lt_range)
  · refine List.Pairwise.imp ?_ (List.pairwise_lt_range)
    intro i j h x hx y hy
    simp only [List.mem_map, List.mem_range] at hx hy
    omega
/-- An instruction with an address in mapped memory, first in its engine. -/
def moving (i : Instr) (a : Nat) : State := engine (mapped (elems seqBench)) { opOf i with addr := a }
theorem witness_AccumulatorStores : ([ops .i32 7 6 0 0, opsI .i32 7 6 0 0 1].all fun o => (Instr.acst o).wellFormed
      && firstOp (engine (mapped seqBench) { opOf (.acst o) with addr := 0x100000 }) { opOf (.acst o) with addr := 0x100000 } fun k =>
        engRange (mapped seqBench) (recOf (mapped seqBench) k).pasid 0x100000 (imageLen k 7) false true false false == .ok (fourPages 0x100000)) = true
    ∧ (segAddrs (fourPages 0x100000)).Nodup ∧ (∀ a, targetsAt (mapped seqBench) a 1 = [])
    ∧ (∀ cs, upToDate (mapped seqBench).mem 0 cs = true) ∧ (mapped seqBench).accesses = [] ∧ accSpoiled (mapped seqBench) 0 1 7 = false
    ∧ (∀ as, offImages (mapped seqBench) 0 as) ∧ ∀ rs, targetsKnown (mapped seqBench) 0 rs = true :=
  ⟨by decide +kernel, fourPages_nodup _, fun a => targetless_of rfl _ _, fun _ => rfl, rfl, by decide, offImages_of (by decide),
    fun rs => by simp [targetsKnown, targetless_of (s := mapped seqBench) rfl]⟩
theorem zero_bytes (n : Nat) : ofBytes (List.replicate n 0#8) = 0 := by
  induction n with
  | zero => rfl
  | succ m ih => rw [List.replicate_succ, ofBytes, ih]; rfl
theorem zero_field (n e o k : Nat) : recField (List.replicate n 0#8) e o k = 0 := by
  rw [recField, List.drop_replicate, List.take_replicate, zero_bytes]
theorem zero_spills (n : Nat) : imageSpills (List.replicate n 0#8) = [] := by simp [imageSpills, zero_field, bit]
/-- Bytes of 0 are the image of an empty accumulator. -/
theorem zero_image (n : Nat) : imageBad (List.replicate n 0#8) = false := by
  rw [imageBad, List.any_eq_false]
  intro e _
  simp [zero_field, bits, bit, signed]
theorem zero_image_read (s : State) (b : Nat) (k : Block) (va : Nat) (segs : List (Nat × Nat)) (hm : s.mem = {})
    (hd : s.dies = Vector.replicate 4 {}) (h : engRead s k va 16384 = .ok segs) :
    imageBytes s b k va = .ok (List.replicate ((segs.map fun r => span r.1 r.2).flatten).length 0#8) := by
  have hb : ∀ segs, engBytes s b k segs = List.replicate ((segs.map fun r => span r.1 r.2).flatten).length 0#8 := fun segs =>
    empty_view s _ segs hm fun a => targetless_of hd a 1
  simp only [imageBytes, h, hb, zero_spills, List.length_nil, Nat.mul_zero, Nat.add_zero]
theorem witness_AccumulatorLoads : [0, 1].all (fun n => (Instr.acld (opsI .i32 7 6 0 0 n)).wellFormed
      && firstOp (moving (.acld (opsI .i32 7 6 0 0 n)) 0x100000) { opOf (.acld (opsI .i32 7 6 0 0 n)) with addr := 0x100000 } fun k =>
        engRead (mapped seqBench) k 0x100000 16384 == .ok (fourPages 0x100000)) = true
    ∧ (∀ i a, (moving i a).mem.poison = []) ∧ (∀ n, imageBad (List.replicate n 0#8) = false)
    ∧ imageBad (List.replicate 60 0 ++ [1] ++ List.replicate 16323 0) = true :=
  ⟨by decide +kernel, fun _ _ => rfl, zero_image, by decide +kernel⟩
theorem witness_AccumulatorImagesAdd : ((List.range 256).all fun e => (match tget (elems seqBench).blocks 1 with
      | some k => (let x := elemOf k 7 e
        (x.av || (x.w == 0 && !x.sp)) && (!x.av || decide (-2176 ≤ x.a)))
      | none => false)) = true
    ∧ (∀ n e, (imageElemOf (List.replicate n 0#8) e).1.w = 0) := by
  refine ⟨by decide +kernel, fun n e => ?_⟩
  rw [imageElemOf]
  simp only [zero_field]
  decide +kernel
theorem witness_AccumulatorImagesRestore : ((List.range 256).all fun e => match tget (elems seqBench).blocks 1 with
    | some k => (let x := elemOf k 7 e
      decide (-(2 : Int) ^ 383 ≤ x.w ∧ x.w < 2 ^ 383) && (if x.sp then x.a == -2176 && entryOf (elems seqBench) k.core 1 7 e == 0
        else if x.av then decide (-2148 ≤ x.a ∧ x.a ≤ 1814) else x.a == 0))
    | none => false) = true := by decide +kernel
theorem witness_CodebookBanks : ([0, 1].all fun n => (Instr.lutld (opsI .i32 0 6 0 0 n)).wellFormed
      && firstOp (moving (.lutld (opsI .i32 0 6 0 0 n)) 0x100) { opOf (.lutld (opsI .i32 0 6 0 0 n)) with addr := 0x100 } fun k =>
        decide (k.x.bank < 2)
          && engRead (mapped seqBench) k 0x100 32 == .ok [(0x100, 32)]) = true
    ∧ meets (.lutsw noOps) seqBench (fun c => c.b.x.mops == []) = true := by decide +kernel

/-- Little-endian bytes. -/
def le (n v : Nat) : List Byte := bytesOf n v
/-- R335: a record: base, type, rank, mode bits, extents, strides from dimension 1, boxes. -/
def record (base ty rank flags : Nat) (ext : List Nat) (str : List Nat) (box : List Nat) : List Byte :=
  le 8 base ++ le 1 ty ++ le 1 rank ++ le 2 flags ++ le 4 0 ++ (ext.map (le 4)).flatten ++ le 4 0 ++ (str.map (le 8)).flatten
    ++ (box.map (le 2)).flatten ++ List.replicate 14 0

/-! ### Drains and transfers -/

/-- A record of 16 by 16 f16 elements at 0x2000, rows of 32 bytes. -/
def square (flags : Nat) (rank : Nat := 2) : List Byte := record 0x2000 6 rank flags [16, 16, 1, 1, 1] [32, 0, 0, 0] [16, 16, 1, 1, 1]
/-- Bytes in memory. -/
def withBytes (s : State) (a : Nat) (bs : List Byte) : State :=
  { s with mem := { base := (bs.mapIdx fun j b => (a + j, b)).filter fun c => c.2 != 0 } }
theorem witness_DrainsEnter : let o := opsI .f16 7 6 0 0 8
    (meets (.mdrain o) (seqRegs 0x40000004 0 0) (fun c => c.rd2 6 0 % 32 != 0 && match engRead c.s c.b 0x40000004 96 with
      | .ok _ => false
      | .ats _ => false
      | _ => true)
    && meets (.mdrain o) (withBytes (seqRegs 0x104 0 0) 0x104 (square 0)) (fun c => engRead c.s c.b 0x104 96 == .ok [(0x104, 96)]
      && c.s.mem.poison == [] && engBytes c.s c.bid c.b [(0x104, 96)] == square 0
      && drainBad c.l c.bid { opOf (.mdrain o) with addr := 0x104, tsr := square 0, pc := c.pc, id := c.s.nextId } o != some .tlim)
    && meets (.mdrain o) (withBytes (seqRegs 0x100 0 0) 0x100 (square 0 1)) (fun c =>
      engRead c.s c.b 0x100 96 == .ok [(0x100, 96)] && decide (tsrAt (engBytes c.s c.bid c.b [(0x100, 96)]) 9 1 < 2))
    && meets (.mdrain o) (withBytes (seqRegs 0x100 0 0) 0x100 (square 0)) (fun c =>
      let tsr := engBytes c.s c.bid c.b [(0x100, 96)]
      let q := { opOf (.mdrain o) with addr := 0x100, tsr := tsr, pc := c.pc, id := c.s.nextId }
      engRead c.s c.b 0x100 96 == .ok [(0x100, 96)] && tsr == square 0 && c.rd 8 0 == 0 && c.rd 9 0 == 0 && drainBad c.l c.bid q o == none)) = true := by decide
theorem witness_DrainsHandOver : ([8, 64 + 8].all fun n => let o := opsI .f16 7 6 0 0 n
    let q := { opOf (.mdrain o) with addr := 0x100, tsr := square 0 }
    let s := { engine (elems seqBench) q with cores := [(0, { drain := some (1, 5) })] }
    firstOp s q fun k => (coreOf s k.core).drain == some (1, 5) && !accSpoiled s k.core 1 7 && !(tsrAt q.tsr 10 2).testBit 2 && !(recOf seqBench k).det
      && (coreOf seqBench k.core).xfers == [] && (List.range 256).all fun e => (elemOf k 7 e).fl == {}) = true := by decide +kernel

/-- `cpy` of the record at 0x100, descriptor pair v8, origin v16 to v20: direction `dir`. -/
def copyOps (dir : Nat) : ExtOps := opsI .i32 0 6 8 0 (4096 * dir + 16)
def copying (rec_ : List Byte) (a : Nat := 0x100) : State := withBytes (mapped (regs (roomy bench) [(6, same a), (7, same 0), (8, same 0)
  , (9, same 32), (16, same 0), (17, same 0), (18, same 0), (19, same 0), (20, same 0)])) 0x100 rec_
/-- What the copies of the witnesses share. -/
def copyFits (c : Ctx) : Bool := c.lanes != [] && cpyUniform c (copyOps 0) && (c.lanes.all fun k => c.rd2 6 k == 0x100)
  && ((List.range 96).all fun j => reachesAt c true false false (0x100 + j) 1 (0x100 + j)) && physPieces c 0x100 96 == [(0x100, 96)]
  && mayRead c.s (c.b.core / 192) [(0x100, 96)] && !lockedBytes c.s [(0x100, 96)] && unasked c ((pieces 0x100 96).map (·.1))
theorem witness_CopiesEnter : ([0, 1].all fun dir => (Instr.cpy (copyOps dir)).wellFormed && meets (.cpy (copyOps dir)) (copying (square 0)) fun c =>
    copyFits c && cpyCauses c (cpyXfer c (copyOps dir) (engBytes c.s c.bid c.b (physPieces c 0x100 96))) 0x100 == [] && !rangesFull c.b
      && (coreOf c.s c.b.core).xfers == [] && c.sq.isNone) = true := by decide +kernel
theorem witness_CopyCauses : (meets (.cpy (copyOps 0)) (regs (roomy bench) [(6, lanes id)]) (fun c => !cpyUniform c (copyOps 0))
    && meets (.cpy (copyOps 0)) (copying (square 0) 0x110) (fun c => cpyUniform c (copyOps 0) && (c.lanes.all fun k => c.rd2 6 k == 0x110)
      && unasked c ((pieces 0x110 96).map (·.1)) && mayRead c.s (c.b.core / 192) (physPieces c 0x110 96) && !lockedBytes c.s (physPieces c 0x110 96))
    && meets (.cpy (copyOps 0)) (copying (square 0) 0x3FFFFFE0) (fun c => cpyUniform c (copyOps 0) && (c.lanes.all fun k => c.rd2 6 k == 0x3FFFFFE0)
      && unasked c ((pieces 0x3FFFFFE0 96).map (·.1)) && (pieces 0x3FFFFFE0 96).any fun g => match translate c.s c.l.pasid g.1 with
        | .absent _ => true
        | _ => false)
    && [square 0 0, square 0 6, record 0x2001 6 2 0 [16, 16, 1, 1, 1] [32, 0, 0, 0] [16, 16, 1, 1, 1]
        , record 0x2000 6 2 16 [16, 16, 1, 1, 1] [32, 0, 0, 0] [16, 16, 1, 1, 1]].all fun t =>
      meets (.cpy (copyOps 0)) (copying t) fun c => copyFits c && engBytes c.s c.bid c.b (physPieces c 0x100 96) == t && c.rd 16 0 == 0) = true := by decide +kernel
/-- A record with an odd base. -/
def oddBase : List Byte := record 0x2001 6 2 0 [16, 16, 1, 1, 1] [32, 0, 0, 0] [16, 16, 1, 1, 1]
theorem witness_RecordsOutOfForm : RecordOutOfForm (square 0 0) 0 ∧ RecordOutOfForm (square 0 6) 0
    ∧ RecordOutOfForm (record 0x2000 6 2 16 [16, 16, 1, 1, 1] [32, 0, 0, 0] [16, 16, 1, 1, 1]) 0
    ∧ ¬RecordOutOfForm oddBase 0 ∧ RecordMisaligned oddBase
    ∧ ¬RecordOutOfForm (square 0) 0 ∧ ¬RecordMisaligned (square 0) := by
  refine ⟨?_, ?_, ?_, ?_, ?_, ?_, ?_⟩ <;> simp only [RecordOutOfForm, RecordMisaligned] <;> decide +kernel
/-- `RecordGood`, as a Bool. -/
def recordGood (t : List Byte) : Bool := tsrAt t 12 4 == 0 && tsrAt t 36 4 == 0 && tsrAt t 82 14 == 0 && decide (tsrAt t 8 1 < 16)
  && decide (tsrAt t 10 2 < 16) && decide (1 ≤ tsrRank t) && decide (tsrRank t ≤ 5)
  && (List.range 5).all (fun k => tsrExt t k != 0 && tsrBox t k != 0 && (decide (k < tsrRank t) || (tsrExt t k == 1 && tsrBox t k == 1)))
  && tsrBase t % elemBytes (tsrTy t) == 0 && (List.range (tsrRank t)).all fun k => tsrStr t k % elemBytes (tsrTy t) == 0
/-- A transfer of that record, of name 7: 16 rows of 32 bytes at offset 0; origin dimension 0 at `x`. -/
def xfer (dir : Nat) (x : Int) (flags : Nat := 0) : Xfer :=
  { id := 7, b := 1, party := 0, dir := dir, tsr := square flags, desc := (0, 32), org := [x, 0, 0, 0, 0], started := true
    sourceRead := dir == 1, vals := List.replicate 256 7 }
theorem witness_BoxElements : (recordGood (square 0) && !(xfer 0 (-1)).drain && tyWidth (tsrTy (square 0)) != 4
    && (xfer 0 (-1)).org.length == 5 && decide (15 < tsrBox (square 0) 0 ∧ 15 < tsrBox (square 0) 1 ∧ 0 < tsrBox (square 0) 2)) = true
    ∧ inExtents (xfer 0 (-1)) (fun k => if k < 2 then 15 else 0) ∧ ¬inExtents (xfer 0 (-1)) (fun _ => 0) := by
  unfold inExtents boxIndex; decide
/-- R337: element (2, 1) of the box at origin 3 stands at BASE + 5 × 2 + 32. -/
theorem test_box_element : unitGlobal (xfer 0 3) 18 = some (0x2000 + 10 + 32, 2) ∧ unitScratch (xfer 0 3) 18 = [36, 37] := by decide
/-- The transfer on its engine. -/
def onEngine (x : Xfer) : State := { mapped (roomy bench) with cores := [(0, { xfers := [x] })] }
/-- `Moving`, of name 7, with some unit that may move, and what the claims ask of those that may. -/
def movingOk (x : Xfer) (p : State → Block → Nat → Bool) : Bool := let s := onEngine x
  match tget s.blocks 1 with
  | some k => s.cores.findSome? (fun c => (c.2.xfers.find? fun y => y.id == 7).map fun y => (c.1, y)) == some (k.core, x)
      && x.started && x.stalled.isNone && (x.dir != 1 || x.sourceRead) && movable s k x != [] && (movable s k x).all (p s k)
  | none => false
theorem images_onEngine (x : Xfer) (as : List Nat) : offImages (onEngine x) 0 as := offImages_of rfl as
theorem targets_onEngine (x : Xfer) (a n : Nat) : targetsAt (onEngine x) a n = [] := targetless_of rfl _ _
theorem witness_ElementsMoveIn : ([xfer 0 0, xfer 0 (-1) 2, xfer 0 (-1) 1].all fun x => movingOk x fun s k u =>
    (unitSegs s k x u).all (fun g => physKind g.1 != .remote && !poisoned s.mem.poison g.1 g.2) && decide (unitScratch x u).Nodup
      && (unitIn x u == [] || (segAddrs (unitSegs s k x u)).length == (unitScratch x u).length)) = true := by decide +kernel
theorem witness_ElementsMoveOut : ([xfer 1 0, xfer 1 (-1) 1].all fun x => tsrAt x.tsr 10 2 / 4 % 4 == 0 && movingOk x fun s k u =>
    (unitSegs s k x u).all fun g => physKind g.1 != .remote) = true := by decide +kernel
theorem witness_CopySourcesRead : (let x := { xfer 1 0 with sourceRead := false }
    match tget (onEngine x).blocks 1 with
    | some k => xferOf (onEngine x) k.core 7 == some x && sourceMay (onEngine x) k x && recordGood x.tsr && k.scrPoison == []
    | none => false) = true := by decide +kernel
theorem witness_TransferTurns :
    ([1, 4].all fun n => (let s := { bench with cores := [(0, { xfers := (List.range n).map (fun j => { xfer 0 0 with id := j }) ++ [{ xfer 0 0 with started := false }] })] }
      ((coreOf s 0).xfers.find? fun x => !x.started).isSome && ((coreOf s 0).xfers.filter Xfer.started).length == n)) = true
    ∧ ([xfer 0 0, { xfer 0 0 with moved := List.range 256 }, { xfer 1 0 with moved := List.range 256 }].all fun x =>
      xferOf (onEngine x) 0 7 == some x && (unitCount x == 256) && match tget (onEngine x).blocks x.b with
        | some k => !k.ended && k.groups.any fun g => g.2.slices.any fun y => y.live != 0
        | none => false) = true := by decide +kernel
theorem witness_Publishes : let o := ops .i32 0 6 0 0
    (meets (.publish o) (regs bench [(6, lanes id)]) (fun c => c.rd2 6 0 != c.rd2 6 1)
    && meets (.publish o) (at6 0x100 0) (fun c => c.l.publish == [] && c.lanes.all fun k => c.rd2 6 k == 0x100)
    && meets (.publish o) (onRec (at6 0x100 0) fun l => { l with publish := [(0x80, 0x40), (0x100, 1)] }) (fun c =>
      c.l.publish.find? (fun r => decide (r.1 ≤ 0x100) && decide (0x100 < r.1 + r.2)) == some (0x100, 1) && !publishWaits c (0x100, 1)))
    = true := by decide

/-! ### Completion, settlement, fills, stopping and coming back -/

/-- A long instruction on v10 and v11, name 9, due in `n` steps. -/
def long (n : Nat) (parks : List ParkRec) : LongX := { id := 9, reg := 10, nregs := 2, rem := List.replicate 8 0, slices := 0xFF, left := n
                                                       res := [(0, [5, 6]), (31, [7, 8])], flags := 1, parks := parks, need := parks.length }
def withLong (s : State) (n : Nat) (parks : List ParkRec := []) : State := onGroup s fun g => { g with longs := [long n parks] }
/-- The hypotheses on a long instruction of group 0. -/
def longIs (s : State) (p : Block → LongX → Bool) : Bool := match tget s.blocks 1 with
  | some k => match tget k.groups 0 with
    | some g => (match g.longs.find? fun x => x.id == 9 && !x.done with
      | some x => p k x
      | none => false)
    | none => false
  | none => false
theorem witness_FastCompletions : (longIs (withLong bench 3) (fun _ x => x.left != 0)
    && longIs (withLong bench 0) (fun k x => !(coreOf bench k.core).stopped && x.left == 0 && bench.accesses == [] && x.parks == [] && x.sent == []
      && decide (x.res.map (·.1)).Nodup)
    && longIs (withLong { globAccess .read 0x100 4 with accesses := [{ b := 1, party := 0, op := .read, len := 4, long := some 9 }] } 0)
      fun _ x => x.left == 0) = true := by decide
/-- A record of one parked lane, with one place; `stage` as given. -/
def parked (lane stage : Nat) (places : List Nat := []) : ParkRec :=
  { id := 20 + lane, op := 3, sub := 0, mode := 0, ty := .f32, dreg := 10, emask := 1, kind := 0, slot := 0, team := 0, group := 0, lane := lane
    lanes := [lane], pair := false, values := [(lane, [77])], flags := 2, seq := 0, sreft := 0, places := places, ticket := none, cls := 1
    stage := stage, imgs := [List.replicate 64 0xAB], hard := true }
theorem witness_RecordsArePlaced : longIs (withLong (roomy bench) 0 [parked 4 0, parked 5 0]) (fun k x =>
    (writeRecords 0 (cycleOf (roomy bench) k) k (ringFree k + min x.need k.cap) x.parks).2 == [] && x.sent == [] && (x.parks.map fun r => r.lanes.length).sum == 2 && x.left == 0
      && !(coreOf (roomy bench) k.core).stopped) = true := by decide
/-- The block has this record in its ring. -/
def ringed (r : ParkRec) : State := onBlock (roomy bench) fun k => { k with x := { k.x with park := [r] } }
theorem witness_RecordsSettle : (match tget (ringed (parked 4 4 [0])).blocks 1 with
    | some k => (k.x.park.find? fun r => r.id == 24 && r.stage == 4) == some (parked 4 4 [0]) && (tget k.groups 0).isSome
      && !(coreOf (roomy bench) k.core).stopped && !imagesOnly k
    | none => false) = true := by decide
/-- R227: the value and the flag of a settled lane. -/
theorem test_settlement : answers (exec (.settlement 1 24) (ringed (parked 4 4 [0]))) (fun t => reg t 10 4 == 77 && reg t 10 5 == 0 && flagsOf t == 2)
    = true := by decide
/-- Cluster 0 has this record in its unit, waiting for a pass, and in a pass. -/
def clustered (r : ParkRec) (f : Cluster → Cluster) : State := modCluster (ringed r) 0 f
theorem witness_RecordStages : ((clusterRec (ringed (parked 4 0 [0])) 0).map fun x => (x.1, x.2.1, x.2.2.2.id)) = some (0, 1, 24)
    ∧ ([true, false].all fun h => let s := clustered { parked 4 1 [0] with hard := h } fun c => { c with weu := [24] }
      (clusterOf s 0).weu == [24] && (findRec s 24).isSome) = true
    ∧ ([0, 3].all fun e => let s := clustered (parked 4 2 [0]) fun c => { c with passWait := [(24, if e < 2 then 2 else 1)] }
      (clusterOf s 0).passes[e]? == some {} && (clusterOf s 0).passWait != []) = true
    ∧ (clusterOf (clustered (parked 4 3 [0]) fun c => { c with passes := [⟨true, [24]⟩] }) 0).passes[0]? = some ⟨true, [24]⟩ := by decide +kernel

/-- Group 0 stands at `a`, which is in no cached line. -/
def fetching (a : Nat) : State := mapped (onSlices bench fun _ x => { x with pc := BitVec.ofNat 64 a })
theorem witness_InstructionFills : ([(0x20000, true), (0x40000000, false)].all fun p => let s := fetching p.1
    match tget s.blocks 1 with
    | some k => !(coreOf s k.core).stopped && ((fetchMisses s 1 k).find? fun m => m.2.2 / 128 == p.1 / 128) == some (.group 1 0 0xFF, BitVec.ofNat 64 p.1, p.1)
      && (icLine (coreOf s k.core) (recOf s k).pasid p.1).isNone && !k.ended && (match tget k.groups 0 with
        | some g => g.cause.isNone
        | none => false) && (match translate s (recOf s k).pasid p.1 with
        | .ok l => p.2 && l.r && physKind l.pa == .hbm
        | .absent _ => !p.2
        | .ats _ => false)
    | none => false) = true := by decide
/-- Line v6 of group 0 stands in the context image, and the instruction that the group comes to, of the bytes given, names it. -/
def filling (bytes : List Byte) : State := let s := placed State.reset bytes (.group 1 0 0xFF)
  mapped (onGroup s fun g => { g with lines := [(6, { resident := false })] })
theorem witness_LineFills : (let s := filling (le 4 (wordsNat [(wordsOf (.movBase (dA 4 6))).headD 0 |>.toNat]))
    match tget s.blocks 1 with
    | some k => match tget k.groups 0 with
      | some g => !(coreOf s k.core).stopped && (tget g.lines 6).map Line.resident == some false && k.placed && lineWanted s 1 0 6 k g
        && (vaRead s (recOf s k).pasid (imageVa (recOf s k) k.sblock 0 + 128 * 6) 128).isSome && decide (teamRows s k.core (teamOf k 0) < 1024)
      | none => false
    | none => false) = true := by decide +kernel

theorem witness_StopsWaitForLongs : (bench.blocks.all (fun k => k.2.h.halt != .halting)
    && (onBlock windowed fun k => { k with h := { k.h with halt := .halting } }).blocks.all fun k =>
      k.2.groups.any fun g => g.2.longs.any fun x => !x.done) = true := by decide
/-- The launch's slice is 1 µs, of which the block has had `n` units. -/
def sliced (n : Nat) : State := onRec (onBlock bench fun k => { k with h := { k.h with sliceUsed := n } }) fun l => { l with slice := 1 }
theorem witness_TimeSlices : ([12999, 13000].all fun n => match tget (sliced n).launches 1, tget (sliced n).blocks 1 with
    | some x, some k => !x.r.step && !debugHeld (sliced n) 1 && k.placed && !k.ended && !k.complete && k.h.halt == .running && !x.tslHeld
      && x.r.slice == 1 && k.h.sliceUsed == n
    | _, _ => false) = true := by decide
/-- The block was pre-empted; another holds `n` teams of its core. -/
def preempted (n : Nat) : State := let s := onBlock bench fun k => { k with h := { k.h with halt := .preempted } }
  { s with blocks := s.blocks ++ bench.blocks.map fun x => (2, { x.2 with teams := List.range n, slot := 1 }) }
/-- `Rises`, as a Bool. -/
def rises {α : Type} (t : Tab α) : Bool := decide ((t.map (·.1)).Pairwise (· < ·))
theorem witness_Preemption : (match tget bench.blocks 1 with
      | some k => k.h.halt == .running && k.placed && !k.ended && !k.complete && mayPreempt bench k && !debugHeld bench k.launch
      | none => false) = true
    ∧ (match tget atStep.blocks 1 with
      | some k => k.h.halt == .running && k.placed && mayPreempt atStep k && stepMode atStep k && (placedOf atStep k.launch).length == 1
      | none => false) = true
    ∧ ([([], true), ([opOf .jn], false)].all fun p => let s := onBlock bench fun k => { k with
          h := { k.h with halt := .stopped, why := some .preempt }, x := { k.x with mops := p.1 } }
      match tget s.blocks 1 with
      | some k => !stepMode s k && atRest s 1 k == p.2
      | none => false) = true
    ∧ (match tget (onBlock bench fun k => { k with h := { k.h with halt := .stopped, why := some .preempt } }).blocks 1 with
      | some k => k.h.halt == .stopped && k.h.handler.isNone && k.h.why == some .preempt && !k.h.held && (tget bench.launches k.launch).isSome
        && rises k.groups && rises k.pages && k.groups.all fun g => rises g.2.lines
      | none => false) = true
    ∧ (match tget (preempted 3).blocks 1 with
      | some k => k.h.halt == .preempted && !k.h.held && !stepMode (preempted 3) k && !debugHeld (preempted 3) k.launch && atRest (preempted 3) 1 k
      | none => false) = true := by decide
/-- Line v6 was written since its fill, or not. -/
def lined (d : Bool) : State := mapped (regs bench [(6, { same 9 with dirty := d })])
theorem witness_LinesAreWrittenBack : ([true, false].all fun d => match tget (lined d).blocks 1 with
    | some k => match tget k.groups 0 with
      | some g => ((tget g.lines 6).map fun x => (x.resident, x.dirty)) == some (true, d) && (List.range 128).all fun j =>
          devicePa (lined d) (recOf (lined d) k).pasid (imageVa (recOf (lined d) k) k.sblock 0 + 128 * 6 + j) == some (768 + j)
      | none => false
    | none => false) = true := by decide +kernel
/-- R172: the words of a line that leaves its row stand in the image. -/
theorem test_line_leaves : (List.range 2).map (fun j => homeCell (evictLine (lined true) 1 0 6).mem (768 + 4 * j)) = [9, 9]
    ∧ (evictLine (lined false) 1 0 6).mem = {} := by decide +kernel
/-- A launch of one block that waits for its core. -/
def waitingLaunch : State := { State.reset with
  launches := [(1, { r := { pasid := 1, entry := 0x20000, nl := 33 } })], front := { State.reset.front with order := [1] } }
theorem witness_Placement : nextLaunch bench = none ∧ chooseCore waitingLaunch 0xF 1 = some 0 ∧ chooseCore waitingLaunch 8 1 = some 576 := by
  decide +kernel
theorem witness_NewBlocks : (match tget waitingLaunch.launches 1 with
    | some x => nextLaunch waitingLaunch == some 1 && !heldBack waitingLaunch 1 && !waitingLaunch.front.pairDown && !x.r.step && !x.r.node
      && x.r.inits == [] && x.swapped == [] && chooseCore waitingLaunch x.r.dies (teamsOf x.r) == some 0 && waitingLaunch.blocks == []
    | none => false) = true := by decide +kernel
/-- R19: a block of 33 lanes has two groups, the second with one live lane. -/
theorem test_new_block : answers (exec .blockPlacement waitingLaunch) (fun t => ((tget t.blocks 1).map fun k => k.groups.map fun g =>
    g.2.slices.map Slice.live) == some [List.replicate 8 15, 1 :: List.replicate 7 0]) = true := by decide +kernel
theorem witness_HangsEnd : ([13000, 13001].all fun n => let s := onRec (onBlock bench fun k => { k with h := { k.h with placedFor := n } }) (fun l => { l with lb := 1 })
    (tget s.launches 1).isSome && !s.front.pairDown && s.blocks.all fun b => b.2.launch == 1 && b.2.h.placedFor == n) = true := by decide

/-! ### Registers, translation and page requests -/

/-- The front end serves its registers. -/
def ready (s : State) : State := onFront s fun r => { r with ready := true }
/-- Bytes in memory at several addresses, which rise. -/
def withMem (s : State) (l : List (Nat × List Byte)) : State :=
  { s with mem := { base := (l.map fun p => (p.2.mapIdx fun j b => (p.1 + j, b)).filter fun c => c.2 != 0).flatten } }

theorem witness_RegistersHoldWhatIsWritten : (ready bench).front.r.ready = true ∧ (ready bench).front.vcw.length = 18 ∧ plainRegs.length = 32 := by decide
theorem witness_RegistersThatAct : (ready bench).front.r.ready = true ∧ actionRegs.length = 22
    ∧ (0xFFFFFFFD00000003 : BitVec 64).toNat / 2 ^ 32 % 4 = 1 ∧ (0xE00000003 : BitVec 64).toNat / 2 ^ 32 % 4 = 2
    ∧ (0x4000000000005000 : BitVec 64).toNat / 2 ^ 62 = 1 ∧ (0x8000000000005000 : BitVec 64).toNat / 2 ^ 62 = 2
    ∧ (ready bench).front.r.qBusy = false ∧ (onFront bench fun r => { r with ready := true, qBusy := true }).front.r.qBusy = true := by decide
/-- The host's window stands on the device's registers. -/
def onRegs : State := onFront (ready bench) fun r => { r with bar2 := 0x2000 }
theorem witness_HostRegisterReads : ([(0x8, 8, true), (0x8, 4, false), (0x2, 4, false)].all fun p =>
    onRegs.front.r.bar2.toNat * 2 ^ 30 + p.1 == 0x80000000000 + p.1 && physKind (0x80000000000 + p.1) == .regs && accessOk p.1 p.2.1 == p.2.2
      && onRegs.front.r.ready) = true := by decide
theorem witness_RejectedAccesses : (ready bench).front.r.ready = true ∧ bench.front.r.ready = false ∧ bench.front.r.fwrecov = false
    ∧ accessOk 0x2 4 = false ∧ accessOk 0x0 2 = false ∧ accessOk 0x4 8 = false ∧ accessOk 0x8 8 = true ∧ (12 : Nat) % 8 ≠ 0 := by decide
theorem witness_StatusClears : (ready bench).front.r.ready = true ∧ 3 < 4 := by decide
/-- Bits [56:12] page, [11:4] pages less one: a good request, and one with a reserved bit. -/
theorem witness_Invalidations : (ready bench).front.r.ready = true ∧ (ready bench).front.r.invBusy = false
    ∧ (0x01FFFFFFFFFFFFF0 : BitVec 64).toNat / 2 ^ 57 = 0 ∧ (0x01FFFFFFFFFFFFF0 : BitVec 64).toNat % 8 = 0 ∧ (1 : BitVec 64).toNat % 8 ≠ 0 := by decide
/-- An invalidation is in progress, and waits for access 7. -/
def invalidating (s : State) : State := onFront s fun r => { r with ready := true, invBusy := true, invWait := [7] }
theorem witness_InvalidationsComplete : (invalidating bench).front.r.invBusy = true ∧ (∀ i ∈ (invalidating bench).front.r.invWait, ∀ a ∈ bench.accesses, a.id ≠ i)
    ∧ ∃ i ∈ (invalidating bench).front.r.invWait, ∃ a ∈ (globAccess .read 0 4).accesses, a.id = i := by decide

/-- A page request ring with a free place. -/
def ring (s : State) : State := onFront s fun r => { r with ready := true, prqEn := true, prqPa := 2 }
/-- A transfer and a matrix instruction that touch 0x40000000, which is not mapped, or is mapped without rights. -/
def farXfer : Xfer := { xfer 0 0 with tsr := record 0x40000000 6 2 0 [16, 16, 1, 1, 1] [32, 0, 0, 0] [16, 16, 1, 1, 1] }
def farOp : MatOp := { opOf (.lutld (ops .i32 0 6 0 0)) with addr := 0x40000000 }
def faulting (tlb : List TlbEntry) : State := { engine (ring (onEngine farXfer)) farOp with tlb := tlb }
theorem witness_EngineFaultsPost : (let s := faulting []
    match tget s.blocks 1 with
    | some k => s.front.r.prqEn && s.front.r.prqHead + 1 != s.front.r.prqTail && !k.ended && (atsLeaf s (recOf s k).pasid 0x40000000).isNone
      && translate s (recOf s k).pasid 0x40000000 == .absent none && (List.range 16).all (fun j => !inResidentImage s (2 * 32768 + j))
      && xferOf s 0 7 == some farXfer && xferHit s farXfer == .absent 0x40000000
      && (k.x.mops.find? fun o => o.id == 5) == some farOp && matHit s 1 k farOp == .absent 0x40000000
    | none => false) = true := by decide +kernel
theorem witness_EngineFaultsRaise : (let s := faulting [⟨1, 0x40000000, 30, 0, 0x40000000, 30⟩]
    match tget s.blocks 1 with
    | some k => !k.ended && xferOf s 0 7 == some farXfer && xferHit s farXfer == .denied 0x40000000 none
      && (k.x.mops.find? fun o => o.id == 5) == some farOp && matHit s 1 k farOp == .denied 0x40000000 none
      && (match tget k.groups 0 with
        | some g => g.cause.isNone
        | none => false)
    | none => false) = true := by decide +kernel
/-- A posted request of tag 3. -/
def asked (who : PageWaiter) (host : Bool := false) : PageReq :=
  { tag := 3, va := 0x40000000, pasid := 1, write := false, who := who, host := host, posted := true }
def requested (q : PageReq) : State := let s := ring (engine (onEngine { farXfer with stalled := some 3 }) { farOp with stalled := some 3 })
  { s with front := { s.front with reqs := [q] } }
theorem witness_PageResponses : ([PageWaiter.xfer 0 7, .mat 1 5].all fun w => let s := requested (asked w)
      (s.front.reqs.find? fun q => q.tag == 3 && !q.host && q.posted) == some (asked w) && (xferOf s 0 7).isSome && match tget s.blocks 1 with
        | some k => !k.ended && (k.x.mops.find? fun o => o.id == 5).isSome && (match tget k.groups 0 with
          | some g => g.cause.isNone
          | none => false)
        | none => false) = true
    ∧ (ring bench).front.r.ready = true ∧ (ring bench).front.reqs = [] := by decide +kernel
/-- Tables of PASID 1 at 0x30000 whose first 1 GiB is an ATS leaf. -/
def hosted : State := withMem (onFront bench fun r => { r with ready := true, pasidEn := true, pasidPa := 0x30 })
  [(0x30008, le 8 0x31001), (0x31000, le 8 0x32001), (0x32000, le 8 0x33001), (0x33000, le 8 0x800000000000008D)]
/-- An answered host page without a translation: its note stands in the cache. -/
def hostProbed : State := { hosted with ats := [⟨1, 5, 1, 0, 0, 0⟩] }
theorem witness_HostPageProbe : (match translate hostProbed 1 0x5000 with
    | .ats _ => (probeNote hostProbed 1 0x5000).isSome
    | _ => false) = true := by decide +kernel
theorem witness_HostTranslations : atsLeaf hosted 1 0x5000 = some 0x5000 ∧ atsFind hosted 1 0x5000 = none ∧ priPending hosted 1 5 = false
    ∧ hostAsked hosted 1 5 = false
    ∧ hostAsked { engine hosted { opOf (.lutld (ops .i32 0 6 0 0)) with addr := 0x5000 } with
        launches := hosted.launches } 1 5 = true
    ∧ (priOutstanding (requested (asked (.ats 1 5) true))).find? (fun q => q.tag == 3) = some (asked (.ats 1 5) true) := by decide +kernel
theorem witness_RequestRing : ((ring bench).front.reqs.all fun q => q.posted) = true
    ∧ (let s := requested { asked (.mat 1 5) with posted := false }
      s.front.r.ready && s.front.r.prqEn && s.front.reqs.filter (fun q => !q.posted) == [{ asked (.mat 1 5) with posted := false }]
        && s.front.r.prqHead + 1 != BitVec.ofNat 11 9 && (List.range 16).all fun j => !inResidentImage s (2 * 32768 + j)) = true := by decide +kernel

/-! ### Command queues -/

/-- R459: a control block. -/
def qcbOf (key flags ring cap head tail bound slice seq : Nat) : List Byte :=
  le 4 key ++ le 4 flags ++ le 8 ring ++ le 4 cap ++ le 4 head ++ le 8 tail ++ le 4 bound ++ le 4 slice ++ le 4 seq ++ List.replicate 20 0
/-- A descriptor at 0x5000. -/
def descriptor (more : List (Nat × List Byte)) : State := withMem (ready bench) ((0x5000, qcbOf 4096 0 0x20000 16 0 0 1 100 0) :: more)
/-- Control blocks of eight other keys in the places that the key 4096 would take. -/
def crowd : List (Nat × List Byte) := (List.range 8).map fun i => (64 * (10125 + i), le 4 (4097 + i) ++ le 4 (2 ^ 31))
theorem witness_QueuesAreCreated : (0x4000000000005000 : BitVec 64).toNat / 2 ^ 62 = 1 ∧ descBad (ready bench) 0x5000 = true
    ∧ (let s := descriptor []
      s.front.r.ready && !descBad s 0x5000 && physNat s 0x5000 4 == 4096 && lookupQueue s 4096 (probes 4096) == none
        && ((probes 4096).find? fun x => !qcbValid s x) == some 10125) = true
    ∧ (let s := descriptor [(64 * 10125, le 4 4096 ++ le 4 (2 ^ 31))]
      !descBad s 0x5000 && (lookupQueue s 4096 (probes 4096)).isSome) = true
    ∧ (let s := descriptor crowd
      !descBad s 0x5000 && (lookupQueue s 4096 (probes 4096)).isNone && ((probes 4096).find? fun x => !qcbValid s x).isNone) = true := by decide +kernel
theorem witness_QueuesAreDestroyed : (0x8000000000005000 : BitVec 64).toNat / 2 ^ 62 = 2 ∧ lookupQueue (descriptor []) 4096 (probes 4096) = none
    ∧ lookupQueue (descriptor [(64 * 10125, le 4 4096 ++ le 4 (2 ^ 31))]) 4096 (probes 4096) = some 10125
    ∧ descBad (descriptor [(64 * 10125, le 4 4096 ++ le 4 (2 ^ 31))]) 0x5000 = false ∧ descBad (descriptor []) 0x5000 = false
    ∧ descBad (ready bench) 0x5000 = true ∧ (descriptor []).front.r.ready = true := by decide +kernel
/-- Queue 0 of PASID 1: ring of 16 at 0x20000, sequence number 5, head 0, shadow tail word `tail`. -/
def queue0 (tail : Nat) (more : List (Nat × List Byte)) : State := let s := mapped (ready bench)
  withMem { s with front := { s.front with qcbBase := 0x10000, queues := [(0, {})] } } ((0x10000, qcbOf 4096 (2 ^ 31) 0x20000 16 0 tail 1000 100 5) :: more)
/-- Whether a tail word is ahead and within the ring, as the claim says it. -/
def wordOk (s : State) (v : Nat) : Bool := let d := (v / 2 ^ 32 % 2 ^ 24 + 2 ^ 24 - qcb s 0 40 4 % 2 ^ 24) % 2 ^ 24
  decide (0 < d ∧ d < 2 ^ 23 ∧ (v % 2 ^ 32 + 2 ^ 32 - qcb s 0 20 4) % 2 ^ 32 ≤ qcb s 0 16 4)
theorem witness_Doorbells : (let s := queue0 (6 * 2 ^ 32 + 1) []
    s.front.r.ready && !s.front.pairDown && qcbValid s 0 && wordOk s (6 * 2 ^ 32 + 16) && !wordOk s (6 * 2 ^ 32 + 17) && !wordOk s (5 * 2 ^ 32 + 1)
      && wordOk s ((5 + 2 ^ 23 - 1) * 2 ^ 32) && !wordOk s ((5 + 2 ^ 23) * 2 ^ 32) && s.front.queues == [(0, {})]
      && qcb s 0 24 8 == 6 * 2 ^ 32 + 1) = true := by decide +kernel

/-- A command: kind, flags, completion address 0x6000, fields from offset 16 on. -/
def cmd (kind : Nat) (fields : List (Nat × Nat)) : List Byte :=
  ((le 1 kind ++ le 7 0 ++ le 8 0x6000 ++ (fields.map fun (f : Nat × Nat) => le f.1 f.2).flatten) ++ List.replicate 64 0).take 64
/-- Queue 0 with one command at its head. -/
def commanded (c : List Byte) (more : List (Nat × List Byte) := []) : State := let s := queue0 0 ((0x20000, c) :: more)
  { s with front := { s.front with queues := [(0, { tail := 1 })] } }
/-- The command at the head. -/
def headIs (s : State) (kind : Nat) (p : Cmd → Bool := fun _ => true) : Bool := match commandOf s 0 kind with
  | some c => p c
  | none => false
theorem witness_MalformedCommands : ([cmd 0 [], cmd 9 []].all fun b => match headCommand (commanded b) 0 with
    | some c => c.bad
    | none => false) = true := by decide +kernel
/-- R459, R461, R463, R470: bytes of a control block at 0x10000, a LAUNCH at 0x20000, the entry of PASID 1, a launch record at 0x40000
(object 0x41000, 32 lanes, 1 block, die mask, areas at 0x40000000 and 0x48000000, limit 10) and a native code object with one entry (code
at 64, B = 256, 16 park records). -/
def launchBytes (dies : Nat) : List (Nat × Nat) :=
  [(0x10001, 16), (0x10007, 128), (0x1000A, 2), (0x10010, 16), (0x10020, 232), (0x10021, 3), (0x10024, 100), (0x10028, 5)]
  ++ [(0x20000, 1), (0x20009, 96), (0x20012, 4), (0x30008, 1)]
  ++ [(0x40001, 16), (0x40002, 4), (0x4000C, 32), (0x40010, 1), (0x40014, dies), (0x40023, 64), (0x4002B, 72), (0x40040, 10)]
  ++ [(0x41000, 69), (0x41001, 83), (0x41002, 83), (0x41003, 49), (0x41004, 1), (0x41007, 2), (0x41008, 192), (0x41010, 1), (0x41014, 128)]
  ++ [(0x41088, 64), (0x41091, 1), (0x41098, 16)]
/-- A LAUNCH at the head of queue 0, whose areas lie in a context page and whose object is loaded. -/
def launching (dies : Nat) : State :=
  { mapped State.reset with
    mem := { base := ((launchBytes dies).map fun c => (c.1, BitVec.ofNat 8 c.2)).filter fun c => c.2 != 0 }
    tlb := [⟨1, 0, 30, 0xC, 0, 30⟩, ⟨1, 0x40000000, 30, 0x1C, 0x40000000, 30⟩]
    front := { State.reset.front with
      r := { State.reset.front.r with ready := true, pasidEn := true, pasidPa := 0x30 }
      qcbBase := 0x10000, queues := [(0, { tail := 1 })], loaded := [(1, 0x41000, List.replicate 32 0, [])] } }
/-- The state in which a LAUNCH at the head is checked. -/
def takenUp (s : State) : State := noteAbsent { s with front := { s.front with
  queues := tmod s.front.queues 0 fun r => { r with urg := false, readAt := none } } } 1 0x40000 128 (1024 * s.pkg.toNat)
/-- What the static checks of the launch answer. -/
def checked (s : State) : Except Nat (LaunchRec × List Byte) := staticChecks (takenUp s) 0 1 0x40000
/-- Whether the launch is startable, counted from the time `at_`. -/
def starts (s : State) (r : LaunchRec) (at_ : Nat) : Bool := startable (takenUp s) r r.blocks at_
theorem witness_Launches : (headIs (launching 0xF) 1 (fun c => c.pasid == 1 && c.f 16 8 == 0x40000) && (launching 0xF).front.r.fwState != 4
      && nextQueue (launching 0xF) == some 0 && (match checked (launching 0xF) with
        | .ok (r, _) => !r.node && starts (launching 0xF) r 0
        | .error _ => false)
      && headIs (launching 0) 1 && nextQueue (launching 0) == some 0 && (match checked (launching 0) with
        | .ok _ => false
        | .error e => e == 0x0107)) = true := by decide +kernel
theorem witness_LaunchesRefused : (let s := { launching 0xF with clusters := Vector.replicate 8 { offline := true } }
    headIs s 1 && nextQueue s == some 0 && match checked s with
      | .ok (r, _) => !r.node && !starts s r 0
      | .error _ => false) = true := by decide +kernel
theorem witness_AdmittedLaunchesFit : (match checked (launching 0xF) with
    | .ok _ => true
    | .error _ => false) = true := by decide +kernel
/-- Launch 1 is a node of PASID 1 with `n` records, which began to gather at time 0. -/
def node (s : State) (n : Nat) : State := { onFront s fun r => { r with pasidEn := true } with
  tlb := [⟨1, 0, 30, 0xC, 0, 30⟩, ⟨1, 0x40000000, 30, 0x1C, 0x40000000, 30⟩]
  launches := [(1, { r := { pasid := 1, node := true, gather := 1, bound := 1000, ctxArea := 0x40000000, backing := 0x48000000 }
                     records := (List.range n).map fun j => (j, 0, 0) })] }
theorem witness_Records : (headIs (commanded (cmd 2 [(4, 1), (4, 0), (8, 0x7000), (4, 64)])) 2 (fun c => c.f 16 4 == 1
      && !debugHeld (commanded (cmd 2 [(4, 1)])) 1 && ((tget (commanded []).launches 1).map fun x => x.r.node) == some false)
    && headIs (node (commanded (cmd 2 [(4, 1), (4, 0), (8, 0x7000), (4, 64)])) 30) 2 (fun c => c.f 16 4 == 1 && c.pasid == 1 && c.f 32 4 == 64
      && (match tget (node bench 30).launches 1 with
        | some x => x.r.node && !x.closed && decide (x.records.length < 31)
        | none => false))) = true := by decide +kernel
theorem witness_Batches : ([(13000, true), (12999, false)].all fun p => let s := { node (ready bench) 3 with time := p.1 }
      (match tget s.launches 1 with
      | some x => x.r.node && x.records != [] && x.ending.isNone && x.r.gather == 1 && decide (x.oldest + 13000 ≤ s.time) == p.2 && startable s x.r 1 s.time && !s.front.pairDown
        && areasOk s x.r x.blockRecs.length 1
      | none => false)) = true
    ∧ ([0, 1].all fun f => let s := node (commanded (cmd 7 [(4, 1), (1, f)])) 33
      headIs s 7 fun c => c.f 16 4 == 1 && c.f 20 1 == f && c.pasid == 1 && ((tget s.launches 1).map fun x =>
        startable (finishCommand s 0 c 0 0) x.r 1 s.time && areasOk (finishCommand s 0 c 0 0) x.r x.blockRecs.length 1) == some true) = true := by decide +kernel
theorem witness_Signals : ([(7, false), (2048, false), (0, true), (8, true), (2047, true)].all fun p =>
      headIs (commanded (cmd 3 [(8, 0x7000), (8, 9), (2, p.1)])) 3 fun c => c.f 32 2 == p.1 && decide (p.1 = 0 ∨ (8 ≤ p.1 ∧ p.1 ≤ 2047)) == p.2) = true
    ∧ (let x : Command := { kind := 3, compl := 0x6000, bytes := cmd 3 [(8, 0x7000), (8, 9), (2, 8)] }
      let s := { queue0 0 [] with blocks := [], front := { (queue0 0 []).front with queues := [(0, { cmds := [x] })] } }
      (runOf s 0).cmds == [x] && !s.front.pairDown && x.bytes.length == 64 && targetsAt s 0x7000 8 == [] && targetsAt s 0x6000 16 == []
        && ((List.range 8).all fun j => targetsAt s (0x7000 + j) 1 == []) && (List.range 8).all (fun j => devicePa s 1 (x.f 16 8 + j) == some (0x7000 + j))
        && ((List.range 8).all fun j => !inResidentImage s (0x7000 + j))
        && (List.range 16).all fun j => devicePa s 1 (x.compl + j) == some (0x6000 + j) && !inResidentImage s (0x6000 + j)
          && targetsAt s (0x6000 + j) 1 == []) = true := by decide +kernel
theorem witness_Waits : headIs (commanded (cmd 4 [(8, 0x7000), (8, 9)])) 4 = true
    ∧ ([(9, true), (8, false)].all fun p => let x : Command := { kind := 4, compl := 0x6000, bytes := cmd 4 [(8, 0x7000), (8, 9)] }
      let s := queue0 0 [(0x7000, le 8 p.1)]
      let s := { s with front := { s.front with queues := [(0, { cmds := [x] })] } }
      keptOf s 0 4 == some x && vaNat s (qcb s 0 0 4 / 4096) (x.f 16 8) 8 == some p.1
        && decide (x.f 24 8 ≤ p.1) == p.2) = true := by decide +kernel
/-- A kept command of queue 0. -/
def keeping (kind : Nat) (fields : List (Nat × Nat)) (next : Nat) : State := let s := queue0 0 [(0x7000, le 8 0x0102030405060708)]
  { s with front := { s.front with queues := [(0, { cmds := [{ kind := kind, compl := 0x6000, bytes := cmd kind fields }] })] }
           launches := [(1, { next := next })] }
theorem witness_WeightCommands : (([(0x1FFFFFF8, 8, 15), (0x1FFFFFFF, 2, 0), (0, 8, 16)].all fun p =>
      let s := commanded (cmd 5 [(8, 0x7000), (8, p.1), (8, p.2.1), (1, p.2.2)])
      headIs s 5 (fun c => c.f 24 8 == p.1 && c.f 32 8 == p.2.1 && c.f 40 1 == p.2.2) && (keptOf s 0 5).isNone)) = true
    ∧ ([0, 1].all fun n => let s := keeping 5 [(8, 0x7000), (8, 0), (8, 8), (1, 15)] n
      match keptOf s 0 5 with
      | some x => diesBusy s (x.f 40 1) == (n == 1) && (vaRead s (qcb s 0 0 4 / 4096) (x.f 16 8) (x.f 32 8)).isSome
      | none => false) = true := by decide +kernel
/-- The package's length and header are free values (logs 15 and 16): the claim's last two cases are those of any header. -/
theorem witness_SlotCommands : ([23, 24, 63, 64].all fun n => let s := commanded (cmd 6 [(8, 0x7000), (1, n)])
      headIs s 6 (fun c => c.f 24 1 == n) && (keptOf s 0 6).isNone) = true
    ∧ ([0, 1].all fun n => let s := keeping 6 [(8, 0x7000), (1, 24)] n
      (keptOf s 0 6).isSome && diesBusy s 15 == (n == 1)) = true := by decide +kernel
/-- Launch 1 is held at its step barrier, or not. -/
def replica (s : State) (h : Bool) : State := { s with launches := s.launches.map fun x => (x.1, { x.2 with replicaHeld := h }) }
theorem witness_ReplicaCommands : ([(0, true), (3, true), (1, true), (2, true), (1, false), (2, false)].all fun p =>
    let s := replica (commanded (cmd 8 [(4, 1), (1, p.1)])) p.2
    headIs s 8 fun c => c.f 16 4 == 1 && c.f 20 1 == p.1 && match tget s.launches 1 with
      | some x => x.replicaHeld == p.2 && x.ending.isNone
      | none => false) = true := by decide +kernel
theorem witness_HostEnds : ((tget bench.launches 1).map fun x => x.ending) = some none ∧ (bench.blocks.map (·.1)).Pairwise (· < ·) := by decide

/-! ### The host, firmware, the debugger and power -/

theorem witness_HostAccesses : (let s := ready bench
      s.front.r.ready && physKind (s.front.r.bar2.toNat * 2 ^ 30 + 0x100) == .hbm && heldLines s 0x100 8 == []
        && (List.range 8).all fun j => !inResidentImage s (0x100 + j)) = true
    ∧ (∀ a n, targetsAt (ready bench) a n = [])
    ∧ heldLines (modDie (ready bench) (homeDie 0x100) fun d => { d with held := [2] }) 0x100 8 = [2] := by
  exact ⟨by decide, targetless_of rfl, by decide⟩
theorem witness_HostReads : bar2Read (ready bench) 0x100 4 = [0, 0, 0, 0]
    ∧ bar2Read (onFront (ready bench) fun r => { r with bar2 := 512 }) 0 2 = [0xFF, 0xFF] ∧ bar2Read bench 0x100 1 = [0xFF] := by decide +kernel
theorem witness_HostAccessesNowhere : physKind ((onFront (ready bench) fun r => { r with bar2 := 512 }).front.r.bar2.toNat * 2 ^ 30 + 0) = .nothing
    ∧ (ready bench).front.r.ready = true := by decide
theorem witness_RemoteAccesses : physKind 0x100 = .hbm ∧ physKind 0x10000000000 = .lpddr ∧ (∀ a n, targetsAt bench a n = [])
    ∧ (∀ j < 8, inResidentImage bench (0x100 + j) = false) ∧ tyInt .i8 = true ∧ 8 ≤ tyWidth .i8 :=
  ⟨by decide, by decide, targetless_of rfl, by decide, rfl, by decide⟩
theorem witness_Collisions : 2 ∈ (dieOf (modDie bench 1 fun d => { d with held := [2] }) 1).held ∧ 2 ∉ (dieOf bench 1).held := by decide
theorem witness_FirmwareUpdates : ([0, 1, 2, 4].all fun (n : Nat) => let s := onFront State.reset fun r => { r with ready := true, fwState := BitVec.ofNat 3 n }
    s.front.r.ready && s.front.r.fwState.toNat == n && s.launches == [] && !s.front.pairDown) = true ∧ bench.launches ≠ []
    ∧ { bench with front := { bench.front with pairDown := true } }.front.pairDown = true := by decide
theorem witness_PairRestarts : { bench with front := { bench.front with pairDown := true } }.front.pairDown = true := by decide
theorem witness_Attestation : (ready bench).front.r.ready = true ∧ (let s := onFront State.reset fun r => { r with attBusy := true }
    s.front.r.attBusy = true ∧ s.front.pairDown = false ∧ (∀ p, inResidentImage s p = false) ∧ ∀ a n, targetsAt s a n = []) :=
  ⟨by decide, by decide, by decide, fun _ => rfl, targetless_of rfl⟩
theorem witness_BringUp : State.reset.front.r.ready = false ∧ State.reset.front.r.fail = false ∧ State.reset.front.r.fwrecov = false
    ∧ (onFront State.reset fun r => { r with stage := 7 }).front.r.stage = 7 ∧ (ready bench).front.r.ready = true := by decide

/-- The launch is attached; the debugger is in state `st` with launch `l`. -/
def debugged (st l : Nat) (h : BlockH) : State := let s := onRec (onBlock (ready bench) fun k => { k with h := h }) (fun l => { l with debug := true })
  { s with front := { s.front with l := { s.front.l with dbgState := BitVec.ofNat 3 st, dbgLaunch := BitVec.ofNat 32 l } } }
theorem witness_DebuggerHalts : (0x4000000000000001 : BitVec 64).toNat / 2 ^ 52 % 2 ^ 10 = 0 ∧ (0x4000000000000001 : BitVec 64).toNat / 2 ^ 62 = 1
    ∧ ([0, 2].all fun l => let s := debugged 0 l {}
      s.front.r.ready && !s.front.l.dbgBusy && s.front.l.dbgLaunch.toNat == l && ((tget s.launches 1).map fun x => x.r.debug) == some true
        && s.blocks.all fun b => b.2.h.halt == .running && b.2.placed && !b.2.ended && !b.2.complete) = true
    ∧ ((tget bench.launches 1).map fun x => x.r.debug) = some false := by decide
theorem witness_DebuggerHolds : ([1, 4].all fun st => (let s := debugged st 1 { halt := .stopped }
      (placedOf s 1).length == 1 && (placedOf s 1).all fun x => atRest s x.1 x.2)
    && (let s := debugged st 1 { halt := .halting }
      (placedOf s 1).any fun x => !x.2.h.held && !atRest s x.1 x.2)) = true := by decide
/-- A block that the debugger holds. -/
def heldH : BlockH := { halt := .stopped, why := some .dbg, held := true }
theorem witness_DebuggerReleases : ([0x8000000000000001, 0xC000000000000001].all fun (v : BitVec 64) => v.toNat / 2 ^ 52 % 2 ^ 10 == 0 && v.toNat % 2 ^ 32 == 1
      && (v.toNat / 2 ^ 62 == 2 || v.toNat / 2 ^ 62 == 3)) = true
    ∧ ([2, 0].all fun st => let s := debugged st 1 heldH
      s.front.r.ready && !s.front.l.dbgBusy && ((tget s.launches 1).map fun x => x.r.debug) == some true
        && ((placedOf s 1).find? fun x => x.2.sblock == 0).isSome && (placedOf s 1).all fun x => x.2.h == heldH) = true
    ∧ (debugged 3 1 {}).front.l.dbgState = 3 := by decide
theorem witness_RetentionBegins : (clusterOf bench 0).retained = false ∧ ((blocksIn bench 0).all fun x => x.2.h.halt == .running) = true
    ∧ (blocksIn bench 0).length = 1
    ∧ (let s := debugged 0 0 { halt := .stopped }
      (blocksIn s 0).all fun x => !haltable x.2 && atRest s x.1 x.2) = true := by decide
theorem witness_RetentionEnds : (clusterOf (modCluster bench 7 fun c => { c with retained := true }) 7).retained = true
    ∧ (let s := modDie (modCluster bench 7 fun c => { c with retained := true }) 3 fun d => { d with opStep := .relock 1500 false }
      (clusterOf s 7).retained = true ∧ (dieOf s (671 / 192)).opStep = .relock 1500 false) ∧ (dieOf bench 3).opStep = .idle := by decide

/-- 600 mV is the floor of every frequency of die 3. -/
def floors (f : Die → Die) : State := modDie (ready bench) 3 fun d => f { d with vfloor := List.replicate 13 600, volt := 700 }
theorem witness_OperatingPoints : (let k := dieOf (floors id) 3
    denialOf k 2000 600 == 0 && denialOf k 1850 599 == 1 && denialOf k 2001 700 == 2 && denialOf k 800 449 == 2
      && denialOf (dieOf (floors fun d => { d with opStep := .relockDue }) 3) 1800 700 == 3 && (floors id).front.r.ready) = true := by decide
theorem witness_Relocks : ([OpStep.relockDue, .relock 5 true, .ramp 5 false].all fun o => [4, 5].all fun t =>
    let s := { floors fun d => { d with opStep := o } with time := 13 * t }
    (dieOf s 3).opStep == o && sref s == t) = true := by decide
theorem witness_IslandControl : (ready bench).front.r.ready = true ∧ (bench.cores.map (·.1)).Pairwise (· < ·)
    ∧ (tget bench.cores 0).isSome = true ∧ (teamAt bench 0 3).island = .full
    ∧ (teamAt { bench with cores := [(0, { teams := Vector.replicate 4 { island := .nt } })] } 0 3).island = .nt := by decide
/-- Team 0 of core 0 at time `t` ns, with what it sampled and the hint of its group. -/
def sampled (t : Nat) (h : Hint) : State := { onGroup bench (fun g => { g with hint := h }) with
  time := 13 * t, cores := [(0, { teams := Vector.replicate 4 { ctr := { sample := [10, 5, 5, 0, 0] } } })] }
theorem witness_SampleBoundaries : sref (sampled 9999 .none) / 10000 ≤ (sampled 9999 .none).sampled
    ∧ (sampled 10000 .none).sampled < sref (sampled 10000 .none) / 10000
    ∧ (let s := sampled 10000 .memory
      (dieOf s 0).opStep == .idle && (dieOf s 0).islEn && (teamAt s 0 0).island == .full
        && entryWanted s 0 0 (dieOf s 0).islDet (sampleShares (teamAt s 0 0)) && !(teamHints s 0 0).contains .compute) = true := by decide
theorem witness_IslandRamps : ([Island.entering 5 700, .exiting 5 450].all fun i => [4, 5].all fun t =>
    let s := { bench with time := 13 * t, cores := [(0, { teams := Vector.replicate 4 { island := i } })] }
    (teamAt s 0 3).island == i && sref s == t) = true := by decide
theorem witness_Droops : (tget bench.cores 0).isSome = true ∧ (teamAt bench 0 0).sigs.length ≤ 32
    ∧ ([11, 12].all fun n => (clusterOf (modCluster bench 7 fun c => { c with duty := n, window := 0 }) 7).duty == n) = true ∧ sref bench / 1000 = 0
    ∧ ([(99, 0), (100, 0), (1000, 950)].all fun p => let s := { modCluster bench 7 fun c => { c with limited := true, window := 0, crossed := p.2 } with time := 13 * p.1 }
      let k := clusterOf s 7
      k.limited && (decide (k.window < sref s / 1000 ∨ k.crossed + 100 ≤ sref s) == decide (p.1 ≠ 99))) = true := by decide
theorem witness_FabricCycles : (bench.sampled < ({ bench with time := 13 * 10000 }.time + 10) / 13 / 10000)
    ∧ (clusterOf (modCluster bench 7 fun c => { c with limited := true }) 7).limited = true := by decide

/-! ### Cycles, rounds, views, pages and blocks that come back -/

theorem witness_CoreCycles : (coreOf { bench with cores := [(0, { stopped := true })] } 0).stopped = true
    ∧ (let k := coreOf { bench with cores := [(0, { begun := true, loaded := true })] } 0
      !k.stopped && k.begun && k.loaded && !k.fresh) = true ∧ (dieOf bench 0).freq.toNat ≠ 0 ∧ (bench.blocks.map (·.1)).Pairwise (· < ·) := by decide
theorem witness_ResultsComeNearer : (let s := onGroup bench fun g => { g with busy := [(4, 3)], longs := [{ id := 9, reg := 10, nregs := 1, left := 2 }] }
    !(coreOf s 0).stopped && match tget s.blocks 1 with
      | some k => k.core == 0 && k.placed && decide (teamOf k 0 < 4) && (match tget k.groups 0 with
        | some g => decide ((g.busy.map (·.1)).Pairwise (· < ·))
        | none => false)
      | none => false) = true := by decide
/-- A candidate of group `g` that has waited `w` opportunities. -/
def cand (g w : Nat) (sl : List Nat) (i : Instr) : Cand := { who := .group 1 g 0xFF, b := 1, g := g, sl := sl, instr := some i, waited := w, lanes := 4 * sl.length }
theorem witness_IssueOrder : (pickFirst .p0 false [cand 0 3 [0] (.nop none), cand 1 64 [1] (.nop none)]).map Cand.g = some 1
    ∧ ((pickFirst .p0 true [cand 0 3 [0, 1] (.nop none), cand 1 15 [2] (.nop none)]).map Cand.g) = some 1 := by decide
theorem witness_DualIssue : ((pickFree bench .p0 false [cand 0 3 [0] (.nop none), cand 1 2 [1] (.nop none), cand 2 1 [2] (.nop none)]).map Cand.g = [0, 1])
    ∧ ((pickRunning bench [cand 2 3 [0] (.nop none), cand 1 2 [1] (.nop none)]).map Cand.g = [1, 2]) := by decide
theorem witness_WeightRefresh : (let start := (dieOf bench 0).swref.toNat + 1000 * 63
    decide (start ≤ 64499 ∧ (64499 - start) % 64000 < 1500) && !decide (start ≤ 64500 ∧ (64500 - start) % 64000 < 1500)) = true
    ∧ sref { bench with time := 13 * 63000 } = 63000 := by decide
/-- An atomic access that arrived at time 0 waits in the round of die 3, at time `t` ns. -/
def inRound (t : Nat) : State := let s := modDie (globAccess (.atomic 0 .i32 1 0) 0x100 4) 3 fun d => { d with round := [7] }
  { s with time := 13 * t, accesses := s.accesses.map fun a => { a with det := true, queued := true } }
theorem witness_SyncRounds : (dieOf (inRound 256) 3).round = [7] ∧ sref (inRound 256) / 256 = 1
    ∧ ((roundQueue (inRound 256) 3).all fun a => a.id == 7 && mayPerform (inRound 256) a && roundServed a) = true
    ∧ ((inRound 256).accesses.map Access.id).Nodup ∧ (roundQueue (inRound 256) 3).length = 1 ∧ roundQueue (inRound 255) 3 = []
    ∧ ((inRound 255).accesses.all fun a => decide (sref (inRound 255) / 256 ≤ a.arrive / 256)) = true := by decide
/-- A write of die 0 that die 1 has not applied. -/
def logged : State := { bench with mem := { log := [{ id := 7, die := 0, clock := [1, 0, 0, 0], cells := [(0x100, 9)], applied := [0] }]
                                            clocks := [[1, 0, 0, 0], [1, 0, 0, 0], [0, 0, 0, 0], [0, 0, 0, 0]] } }
theorem witness_WritesReachViews : mayApply logged.mem 1 7 = true ∧ logged.mem.log.length = 1 ∧ 1 ∉ ((logged.mem.log.map CWrite.applied).headD []) := by decide
/-- Page 1 of the block, pinned and not resident. -/
def paging (w : Bool) : State := mapped (onBlock (roomy bench) fun k => { k with pages := [(1, { pinned := true, written := w })] })
theorem witness_PageRefills : ([true, false].all fun w => match tget (paging w).blocks 1 with
    | some k => pageWanted (paging w) 1 1 k && k.placed && decide (4096 < progSize k + ringSize k) && decide (framesUsed (paging w) k.core < 128)
      && (tget k.pages 1).map (fun x => (x.resident, x.written)) == some (false, w)
      && (vaNat (paging w) (recOf (paging w) k).pasid (backingVa (recOf (paging w) k) k.sblock + 4096) 8).isSome
      && (vaNat (paging w) (recOf (paging w) k).pasid (backingVa (recOf (paging w) k) k.sblock + 8184) 8).isSome
    | none => false) = true := by decide
/-- The block stopped for a fetch at `a`. -/
def fetchStopped (tlb : List TlbEntry) : State := { onBlock (onGroup (onFront bench fun r => { r with pasidEn := true }) fun g => { g with cause := some { code := 0x0D, addr := 0x40000 } })
  (fun k => { k with h := { k.h with halt := .stopped, why := some .fetch, primary := some 0 } }) with tlb := tlb }
theorem witness_FetchSwapOuts : ([([], 0), ([⟨1, 0, 30, 0xC, 0, 30⟩], 1), ([⟨1, 0, 30, 0, 0, 30⟩], 2)].all fun (p : List TlbEntry × Nat) => let s := fetchStopped p.1
    match tget s.blocks 1 with
    | some k => ((haltCause k).map fun r => (r.code, r.addr)) == some (0x0D, 0x40000) && k.h.halt == .stopped && k.placed && !k.h.held
      && ((tget s.launches 1).map fun x => x.ending) == some none && (match translate s (recOf s k).pasid 0x40000 with
        | .absent _ => p.2 == 0
        | .ok l => p.2 == (if fetchable l then 1 else 2)
        | .ats _ => false)
      && atRest s 1 k && !atRest s 1 { k with x := { k.x with mops := [opOf .jn] } }
      && !stepMode s k && stepMode (onRec s fun l => { l with step := true }) k
    | none => false) = true := by decide
theorem witness_BlocksResume : ([3, 4].all fun n => match tget (preempted n).blocks 1 with
    | some k => k.h.halt == .preempted && !k.h.held && !k.h.tslPend && (recOf (preempted n) k).step == false
      && k.teams.length == 1 && (freeTeams (preempted n) k.core).length == 4 - n && !(clusterOf (preempted n) 0).retained
    | none => false) = true ∧ (clusterOf (modCluster (preempted 0) 0 fun c => { c with retained := true }) 0).retained = true := by decide

/-! ### Steps, encodings and frames -/

/-- The machine with `add v4, v6` placed. -/
def fetched : State := placed State.reset (le 4 0x84824E14) (.group 1 0 0xFF)
theorem witness_StepRunsDecoded : fetched.issueQ = [.group 1 0 0xFF] ∧ (match tget fetched.blocks 1 with
    | some k => (parties 1 k).find? (fun y => y.1 == .group 1 0 0xFF) == some (.group 1 0 0xFF, 0x10000)
      && (match icLine (coreOf fetched k.core) (recOf fetched k).pasid 0x10000 with
        | some x => !x.poison && x.bytes.length == 128 && ((decodeBytes (x.bytes.drop 0)).toOption.map (·.1))
          == some (.addBase ⟨some ⟨3, true⟩, 4, 9, true⟩)
        | none => false)
    | none => false) = true := by decide +kernel
theorem witness_StepHandlesTheRest : ((match fetchFor fetched (.group 1 0 0xFF) with
      | .instr i => i == .addBase ⟨some ⟨3, true⟩, 4, 9, true⟩
      | _ => false)
    && fetchFor fetched (.group 2 0 0xFF) == .stale && (tget fetched.blocks 2).isNone
    && fetchFor (placed State.reset [0, 0, 0, 0] (.group 1 0 0xFF)) (.group 1 0 0xFF) == .undefined [0]
    && fetchFor { fetched with cores := fetched.cores.map fun c => (c.1, { c.2 with icache := c.2.icache.map fun l => { l with poison := true } }) }
      (.group 1 0 0xFF) == .poison) = true := by decide +kernel
theorem witness_PoisonedFetch : (match ctxOf { fetched with focus := some (.group 1 0 0xFF), issueQ := [] } (.nop none) with
    | some c => gangFree c && !c.b.ended && c.sq.isNone && c.g.cause.isNone && decide (c.party < 32)
      && (parties c.bid c.b).find? (fun y => y.1 == .group 1 0 0xFF) == some (.group 1 0 0xFF, 0x10000)
    | none => false) = true := by decide +kernel
/-- The sites of soft errors: a register, a granule of the scratchpad and one of memory. -/
theorem witness_SoftErrors : ([Config.ErrorSite.register 1 0 4, .scratchpad 1 3, .memory 3 8].all fun e =>
    (siteOf (regs (roomy bench) [(4, same 1)]) e).isSome) = true ∧ siteOf bench (.scratchpad 2 0) = none := by decide
theorem witness_StepRunsEvents : { bench with agenda := [.fabricCycle] }.issueQ = [] ∧ bench.issueQ = [] ∧ bench.agenda = [] := by decide
theorem witness_EncodedWordsDecode : (Instr.addBase ⟨some ⟨3, true⟩, 4, 9, true⟩).wellFormed = true
    ∧ encode (.addBase ⟨some ⟨3, true⟩, 4, 9, true⟩) = some 0x84824E14 := by decide
theorem witness_EncodedBytesDecode : encodeBytes (.kill 40) = some [0x94, 0x00, 0x14, 0x00] ∧ (Instr.kill 40).wellFormed = true := by decide
theorem witness_DecodedWordsEncode : (decodeBits 0x84824E14).toOption = some (.addBase ⟨some ⟨3, true⟩, 4, 9, true⟩) := by decide
theorem witness_UnmappedOpcodes : ([0, 0x29, 0x7F, 4, 0x1E].all fun n => bits (4 * n) 0 2 == 0 && bits (4 * n) 2 7 == n)
    = true ∧ bits (4 * 5 + 2) 0 2 = 2 ∧ bits (4 * 16 + 1) 2 7 = 16 ∧ bits (4 * 5 + 1024) 9 1 = 0 := by decide
theorem witness_OperandForms : (within (.add (opsI .i16 4 6 0 0 0x3FFF)) (with6 0x12345678 0) fun c => decide (c.rd 6 0 < 2 ^ 32)) = true
    ∧ ty64 .n64 = true ∧ tyWidth .f32 = 32 ∧ tyWidth .e2m1 = 4 ∧ (noOps.lit = none) := by decide
theorem witness_RegisterFrames : (registerBase.all fun p => meets (p (dA 4 6)) bench fun c => answers (exec c.instr bench)) = true
    ∧ (registerExt.all fun p => allTys.any fun ty => [ops ty 4 6 8 10, ops ty 4 6 8 0, ops ty 4 6 0 0, ops ty 4 0 0 0, ops ty 4 6 0 10, opsI ty 4 6 8 10 1, opsI ty 4 6 0 0 4, opsI ty 4 6 0 0 5, opsI ty 4 6 8 0 4
      , { ops ty 4 6 8 0 with lit := some 5 }, { ops ty 4 6 8 10 with lit := some 5 }].any fun o =>
        meets (p o) bench fun c => answers (exec c.instr bench)) = true := by decide +kernel
theorem witness_LongFrames : (registerLong.all fun p => allTys.any fun ty => [ops ty 4 6 8 10, ops ty 4 6 8 0, ops ty 4 6 0 0].any fun o =>
    meets (p o) (roomy bench) fun c => answers (exec c.instr (roomy bench))) = true := by decide +kernel
theorem witness_ControlFrames : controlForms .jn ∧ meets .jn bench (fun c => answers (exec c.instr bench)) = true := ⟨trivial, by decide⟩
theorem witness_MemoryStaysCanonical : MemoryCanonical logged ∧ answers (step { logged with agenda := [.fabricCycle] }) = true :=
  ⟨by unfold MemoryCanonical; decide, by decide⟩
theorem witness_TablesKeepRising : answers (step { bench with agenda := [.fabricCycle] }) = true := by decide

/-! ### Backing regions and portable objects -/

/-- Sequencer, codebook, barrier and queue state of every kind. -/
def richParts (k : Block) : Block := { k with
  mseq := { k.mseq with pc := 0x20004, running := true, drm := 3, regs := k.mseq.regs.set 5 7 }
  x := { k.x with
    bank := 1, lutA := k.x.lutA.set 1 [1, 2], mbars := k.x.mbars.set 3 { arrived := 1, e := some 0, c := 9, waits := [(4, 2)] }
    nbars := k.x.nbars.set 31 { total := 64, e := some 2 }
    queues := k.x.queues.set 15 { init := true, base := 256, cap := 8, head := 3, count := 2, allow := [(1, 4)]
                                  poppers := [⟨1, 0xF0, 32, 20, 0, true, 2 ^ 64, [20]⟩] } } }
/-- R286, R413: what is written to the backing region is what is read back. -/
theorem test_parts_return : (match tget bench.blocks 1 with
    | some k => withParts k (partsWords (richParts k)) == richParts k
    | none => false) = true := by decide +kernel
/-- A record of 20 bytes. -/
def rec20 (i : Instr) : List Byte := le 20 ((encode i).getD 0)
/-- R66, R472: a record in a form that portable code has not, or with LK not 0, is none; v4 + v6 to v4 takes its base form; records stand
one after the other in the native form. -/
theorem test_portable_records : portable (rec20 (.nop none)) = some (.nop none)
    ∧ portable (rec20 (.addBase (dA 4 6))) = none
    ∧ portable (rec20 (.add (ops .i32 4 4 6 0))) = some (.add (ops .i32 4 4 6 0))
    ∧ portable (rec20 (.mul { ops .i32 4 4 6 0 with lk := 2 })) = none
    ∧ shorten (.add (ops .i32 4 4 6 0)) = .addBase (dA 4 6) ∧ shorten (.add (ops .i32 4 6 6 0)) = .add (ops .i32 4 6 6 0)
    ∧ layoutFrom 0x100 [(64, some (.nop none)), (84, some (.add (ops .i32 4 6 6 0))), (104, none)] = [(64, 0x100), (84, 0x104), (104, 0x110)] := by
  decide +kernel

end Sys2Proof.Tests
end

/-! ### The state after reset (O60) -/

section
namespace Sys2Proof.Machine

open Sys2Proof

theorem reset_tablesRise : TablesRise State.reset := ⟨List.Pairwise.nil, List.Pairwise.nil⟩

/-- R449, R473: what the registers hold at power-good, as the register map gives it. -/
theorem reset_values : Claims.ResetValues :=
  ⟨by decide, by decide, rfl, rfl, rfl, rfl, rfl, rfl, rfl, by decide, by decide, fun _ _ => ⟨rfl, rfl⟩⟩

/-- Settles O60: reset is a closed state, so each register is evaluated; its tables are empty. -/
theorem resetIsAsTheManualSays : Obligations.ResetIsAsTheManualSays :=
  ⟨⟨reset_canonical, reset_tablesRise⟩, reset_values⟩

end Sys2Proof.Machine
end

/-! ### A corrected soft error can clear poison (O3) -/

section
namespace Sys2Proof.Machine

open Sys2Proof

/-- The machine at power-good, with poison in granule 0 of memory, which is where the next entry of the error log goes. -/
def poisonedLogState : State := { State.reset with mem := { State.reset.mem with poison := [0] } }

/-- R417: a corrected soft error in granule 1 of HBM. -/
def correctedError : Config.SoftError := ⟨.memory 5 1, true, 0⟩

theorem siteOf_correctedError : siteOf poisonedLogState correctedError.site = some (5, 0, 32) := by decide

/-- R418, R421: the log entry of the corrected error covers the poisoned granule, and so clears its poison. -/
theorem strike_correctedError_poison :
    (strike poisonedLogState correctedError).mem.poison = [] ∧ poisonedLogState.mem.poison = [0] := by decide

/-- The claim that a corrected error leaves all poison as it was fails where the error's own log entry overwrites a poisoned
granule. -/
theorem not_softErrors : ¬ Claims.SoftErrors := by
  intro h
  obtain ⟨-, -, -, hkept⟩ := (h poisonedLogState correctedError 5 0 32 siteOf_correctedError).1 rfl
  obtain ⟨hafter, hbefore⟩ := strike_correctedError_poison
  rw [hafter, hbefore] at hkept
  cases hkept

/-- Refutes O3: a corrected soft error is logged, and the entry is a write to memory that covers a whole granule; where that
granule was poisoned (granule 0, with the log at address 0), the strike clears poison, which the claim says it does not. -/
theorem not_stepRunsEverythingElse : ¬ Obligations.StepRunsEverythingElse := by
  rintro ⟨-, -, -, hsoft, -⟩
  exact not_softErrors hsoft

end Sys2Proof.Machine
end

/-! ### An instruction that raises kills nothing (O58) -/

section
namespace Sys2Proof.Machine

open Sys2Proof

/-- `rdlane` from v4, which it kills, by the lane indices in v6. -/
def killingRdlane : Instr := .rdlane { noOps with d := 8, a := { plain 4 with last := true }, b := plain 6 }

/-- A group whose lower four slices wait in a `qpop`, and whose upper four hold a different lane index in every lane of v6. -/
def poppingGroup : Group :=
  { quota := 16
    slices := (List.range 8).map fun k =>
      { pc := BitVec.ofNat 64 placedVa, act := 0xF, live := 0xF
        gang := if k < 4 then 0 else 4, wait := if k < 4 then .queue 0 else .none }
    lines := [(6, { vals := (List.range 32).map (BitVec.ofNat 32) })] }

/-- A queue with a blocked pop of that group, whose destination is v4. -/
def poppingQueue : Queue :=
  { init := true, poppers := [{ party := 0, slices := 0x0F, lanes := 0xFFFF, dst := 4, handle := 0, since := 0 }] }

/-- A block with that group and that queue. -/
def poppingBlock : Block :=
  { placedBlock false with
    groups := [(0, poppingGroup)], x := { queues := (Vector.replicate 16 {}).set 0 poppingQueue } }

/-- The machine with that block, whose upper slices issue. -/
def poppingState : State :=
  { State.reset with
    launches := [(1, placedLaunch)], blocks := [(1, poppingBlock)], focus := some (.group 1 0 0xF0) }

/-- The destinations that the blocked pops of queue 0 of a block have lost. -/
def lostDestinations (k : Block) : List (List Nat) := k.x.queues[0].poppers.map Waiter.dead

/-- R404: the lane indices differ, so `killingRdlane` raises NUNI, and the blocked pop keeps its destination; had the instruction
killed v4, the pop would have lost it. -/
theorem killingRdlane_raises : ∃ c t, Free killingRdlane poppingState c ∧ exec killingRdlane poppingState = .next t ∧ c.sq = none
    ∧ (tget t.blocks c.bid).map lostDestinations = some [[]]
    ∧ lostDestinations (killWaiters c.b c.party c.use.kills) = [[4]] := by
  have hc : ctxOf poppingState killingRdlane
      = some ((ctxOf poppingState killingRdlane).get (by decide)) := by simp
  exact ⟨_, _, ⟨hc, by decide, by decide⟩, rfl, by decide, by decide, by decide +kernel⟩

/-- The claim that an instruction's kills always reach the blocked pops of its group fails where the instruction raises. -/
theorem not_registerFrames : ¬ Claims.RegisterFrames := by
  rintro ⟨-, hext⟩
  obtain ⟨c, t, hfree, hnext, hsq, hafter, hkilled⟩ := killingRdlane_raises
  obtain ⟨-, hothers, -⟩ := hext Instr.rdlane (by simp [registerExt]) _ poppingState t c hfree hnext
  obtain ⟨-, -, -, -, -, -, -, -, -, -, k, hk, -, -, -, hx, -⟩ := hothers
  have hsame : lostDestinations k = lostDestinations (killWaiters c.b c.party c.use.kills) := by
    unfold lostDestinations; rw [hx hsq]
  rw [hk, Option.map_some, hsame, hkilled] at hafter
  exact absurd hafter (by decide)

/-- Refutes O58: `rdlane` with its last use of v4 raises NUNI and so kills nothing, while the claim asks that the blocked pop of
the same group has lost v4 as its destination. -/
theorem not_frames : ¬ Obligations.Frames := fun h => not_registerFrames h.1

end Sys2Proof.Machine
end

/-! ### The error log (R421) -/

section
namespace Sys2Proof.Machine

open Sys2Proof

theorem toBytes_eq_bytesOf (n : Nat) : ∀ x, toBytes n x = bytesOf n x := by
  induction n with
  | zero => intro x; rfl
  | succ n ih =>
    intro x
    simp only [toBytes, ih, bytesOf, List.range_succ_eq_map, List.map_cons, List.map_map]
    congr 1
    · simp
    · refine List.map_congr_left fun j _ => ?_
      simp only [Function.comp_apply, Nat.succ_eq_add_one, Nat.mul_add, Nat.pow_add, Nat.div_div_eq_div_mul]
      rw [Nat.mul_comm]

@[simp] theorem length_toBytes (n x : Nat) : (toBytes n x).length = n := by simp [toBytes_eq_bytesOf, bytesOf]

/-- R421: an entry of the log, or a dropped one, changes memory, the registers of the log and the interrupts that are due, and
leaves the base of the log where it was. -/
theorem logErr_eq (s : State) (type unit loc addr detail : Nat) : ∃ m l x,
    logErr s type unit loc addr detail = { s with mem := m, front := { s.front with l := l, msix := x } }
      ∧ l.errBase = s.front.l.errBase := by
  unfold logErr
  dsimp only
  split
  · exact ⟨_, _, _, rfl, rfl⟩
  · split
    · exact ⟨_, _, _, rfl, rfl⟩
    · exact ⟨_, _, _, rfl, rfl⟩

section
variable (s : State) (type unit loc addr detail : Nat)

@[simp] theorem logErr_errBase : (logErr s type unit loc addr detail).front.l.errBase = s.front.l.errBase := by
  obtain ⟨m, l, x, h, hb⟩ := logErr_eq s type unit loc addr detail; rw [h, ← hb]
@[simp] theorem logErr_frontR : (logErr s type unit loc addr detail).front.r = s.front.r := by
  obtain ⟨m, l, x, h, -⟩ := logErr_eq s type unit loc addr detail; rw [h]
@[simp] theorem logErr_vcw : (logErr s type unit loc addr detail).front.vcw = s.front.vcw := by
  obtain ⟨m, l, x, h, -⟩ := logErr_eq s type unit loc addr detail; rw [h]
@[simp] theorem logErr_blocks : (logErr s type unit loc addr detail).blocks = s.blocks := by
  obtain ⟨m, l, x, h, -⟩ := logErr_eq s type unit loc addr detail; rw [h]
@[simp] theorem logErr_cores : (logErr s type unit loc addr detail).cores = s.cores := by
  obtain ⟨m, l, x, h, -⟩ := logErr_eq s type unit loc addr detail; rw [h]
@[simp] theorem logErr_dies : (logErr s type unit loc addr detail).dies = s.dies := by
  obtain ⟨m, l, x, h, -⟩ := logErr_eq s type unit loc addr detail; rw [h]
@[simp] theorem logErr_clusters : (logErr s type unit loc addr detail).clusters = s.clusters := by
  obtain ⟨m, l, x, h, -⟩ := logErr_eq s type unit loc addr detail; rw [h]
@[simp] theorem logErr_accesses : (logErr s type unit loc addr detail).accesses = s.accesses := by
  obtain ⟨m, l, x, h, -⟩ := logErr_eq s type unit loc addr detail; rw [h]
@[simp] theorem logErr_agenda : (logErr s type unit loc addr detail).agenda = s.agenda := by
  obtain ⟨m, l, x, h, -⟩ := logErr_eq s type unit loc addr detail; rw [h]

/-- R421: the log lies in the 4,096 entries from its base; memory outside them stays as it is. -/
theorem homeCell_logErr_outside (p : Nat)
    (hp : p < s.front.l.errBase.toNat ∨ s.front.l.errBase.toNat + 32 * 4096 ≤ p) :
    homeCell (logErr s type unit loc addr detail).mem p = homeCell s.mem p := by
  have hhead := s.front.l.errHead.isLt
  unfold logErr
  dsimp only
  split
  · rfl
  · split <;>
    · simp only [raiseMsix, homeCell_physWrite, List.length_append, length_toBytes]
      rw [if_neg (by omega)]

end

/-- Bytes that were written are read back. -/
theorem physRead_physWrite (s : State) (pa n : Nat) (bs : List Byte) (hn : n = bs.length) :
    physRead (physWrite s pa bs) pa n = bs := by
  subst hn
  refine List.ext_getElem (by simp [physRead, homeBytes]) fun k h1 h2 => ?_
  simp [physRead, homeBytes, homeCell_physWrite, h2]

/-- R421, R491: logging appends an entry, or counts it as dropped. -/
theorem logErr_logs (s : State) (type unit loc addr detail : Nat) :
    Logs s (logErr s type unit loc addr detail) type unit loc addr detail := by
  unfold Logs logErr
  simp only [← toBytes_eq_bytesOf]
  split
  · rfl
  · split <;> exact ⟨rfl, physRead_physWrite s _ 32 _ (by simp)⟩

theorem logMmio_logs (s : State) (off : Nat) : Logs s (logMmio s off) 6 10 (1024 * s.pkg.toNat) off 0 := logErr_logs ..

end Sys2Proof.Machine
end

/-! ### Memory-mapped registers (O48) -/

section
namespace Sys2Proof.Machine

open Sys2Proof

theorem bit_toNat {w : Nat} (v : BitVec w) (k : Nat) : bit v.toNat k = v.getLsbD k := by
  rw [bit, BitVec.getLsbD, Nat.testBit_eq_decide_div_mod_eq]; rfl

/-- R13: an access of the width of the register it names, and aligned to it, is permitted. -/
theorem accessOk_of_regWidth {o n : Nat} (hw : regWidth o = some n) (hn : n = 4 ∨ n = 8) (ha : o % n = 0) :
    accessOk o n = true := by
  simp only [accessOk, hw, ha, beq_self_eq_true, Bool.true_or, Bool.and_true, Bool.or_eq_true, beq_iff_eq]
  exact hn

/-- R11: a write of the right width reaches the register. -/
theorem exec_mmioWrite {s : State} {o n : Nat} (v : BitVec 64) (hr : s.front.r.ready = true) (hok : accessOk o n = true)
    (hw : regWidth o = some n) :
    exec (.mmioWrite o (8 * n) v) s = .next (writeReg s o (BitVec.ofNat 64 (v.toNat % 2 ^ (8 * n)))) := by
  have h8 : 8 * n / 8 = n := by omega
  simp [exec, execMmioWrite, hr, h8, hok, hw]

theorem exec_mmioWrite64 {s : State} {o : Nat} (v : BitVec 64) (hr : s.front.r.ready = true) (ha : o % 8 = 0)
    (hw : regWidth o = some 8) : exec (.mmioWrite o 64 v) s = .next (writeReg s o v) := by
  have h := exec_mmioWrite v hr (accessOk_of_regWidth hw (.inr rfl) ha) hw
  simpa [Nat.mod_eq_of_lt v.isLt] using h

/-! #### Registers that act -/

theorem actionRegs_served : ∀ p ∈ actionRegs, accessOk p.1 p.2.1 = true ∧ regWidth p.1 = some p.2.1 := by decide

section
variable (s : State) (u : BitVec 64) {d : Nat} (hd : d < 4)
include hd

/-! R11: what a write to a register of die `d` does. -/

theorem writeReg_island : writeReg s (0x180000 + 0x1000 * d) u = dueEvents s [.islandControlWrite d (u.setWidth 32)] := by
  have hreg : (0x180000 + 0x1000 * d) % 0x1000 = 0 := by omega
  have hdie : (0x180000 + 0x1000 * d) / 0x1000 % 8 = d := by omega
  rw [writeReg, if_neg (by omega), if_neg (by omega), if_neg (by omega), if_pos (by omega), hreg, hdie]; rfl

theorem writeReg_opRequest : writeReg s (0x180004 + 0x1000 * d) u = dueEvents s [.operatingPointRequest d (u.setWidth 32)] := by
  have hreg : (0x180004 + 0x1000 * d) % 0x1000 = 4 := by omega
  have hdie : (0x180004 + 0x1000 * d) / 0x1000 % 8 = d := by omega
  rw [writeReg, if_neg (by omega), if_neg (by omega), if_neg (by omega), if_pos (by omega), hreg, hdie]; rfl

theorem writeReg_deniedClear : writeReg s (0x180008 + 0x1000 * d) u =
    if bit u.toNat 30 then dueEvents s [.deniedClear d] else s := by
  have hreg : (0x180008 + 0x1000 * d) % 0x1000 = 8 := by omega
  have hdie : (0x180008 + 0x1000 * d) / 0x1000 % 8 = d := by omega
  rw [writeReg, if_neg (by omega), if_neg (by omega), if_neg (by omega), if_pos (by omega), hreg, hdie]; rfl

theorem writeReg_collClear : writeReg s (0x800000 + 0x1000 * d) u =
    if bit u.toNat 63 then dueEvents s [.seCollClear d] else s := by
  have hreg : (0x800000 + 0x1000 * d) % 0x1000 = 0 := by omega
  have hdie : (0x800000 + 0x1000 * d) / 0x1000 % 16 = d := by omega
  rw [writeReg, if_neg (by omega), if_neg (by omega), if_neg (by omega), if_neg (by omega), if_pos (by omega), hreg, hdie]
  simp only [true_and]

end

/-- An event that a bit of the written word makes due. -/
theorem dueEvents_bit (s : State) (u : BitVec 64) (k : Nat) (e : Event) : (if bit u.toNat k then dueEvents s [e] else s)
    = { s with agenda := s.agenda ++ if u.getLsbD k then [e] else [] } := by
  rw [bit_toNat]
  split
  · rfl
  · rw [List.append_nil]

/-- R449 to R460: a write to a register that starts an action makes its events due. -/
theorem writeReg_action (s : State) (u : BitVec 64) :
    ∀ p ∈ actionRegs, writeReg s p.1 u = { s with agenda := s.agenda ++ p.2.2 u } := by
  intro p hp
  simp only [actionRegs, List.flatten_cons, List.flatten_nil, List.mem_append, List.mem_cons, List.mem_map, List.mem_range,
    List.not_mem_nil, or_false] at hp
  rcases hp with rfl | rfl | rfl | rfl | rfl | rfl | ⟨d, hd, rfl⟩ | ⟨d, hd, rfl⟩ | ⟨d, hd, rfl⟩ | ⟨d, hd, rfl⟩
  case _ =>
    change dueEvents s (fwctlEvents u.toNat) = _
    rw [fwctlEvents, bit_toNat, bit_toNat]
    change _ = { s with agenda := s.agenda ++ (_ ++ (_ ++ [])) }
    rw [List.append_nil]; rfl
  case _ => rfl
  case _ =>
    change dueEvents s [if bit u.toNat 3 then .invalidateAll u else .invalidateRange u] = _
    rw [bit_toNat]; rfl
  case _ => rfl
  case _ => rfl
  case _ => exact dueEvents_bit s u 31 .errLogOvfClear
  case _ => exact writeReg_island s u hd
  case _ => exact writeReg_opRequest s u hd
  case _ => exact (writeReg_deniedClear s u hd).trans (dueEvents_bit ..)
  case _ => exact (writeReg_collClear s u hd).trans (dueEvents_bit ..)

/-- R453: what a write to FE_PRQRESP does. -/
theorem writeReg_prqResp (s : State) (v : BitVec 64) : writeReg s 0x060 v =
    if bits v.toNat 32 2 = 1 then dueEvents s [.pagePresentResponse (v.toNat % 2 ^ 32)]
    else if bits v.toNat 32 2 = 2 then dueEvents s [.pageNotPresentResponse (v.toNat % 2 ^ 32)]
    else logMmio s 0x60 := rfl

/-- R452: what a write to FE_QREQ does. -/
theorem writeReg_queueReq (s : State) (v : BitVec 64) : writeReg s 0x040 v =
    if s.front.r.qBusy then logMmio s 0x40
    else if v.toNat / 2 ^ 62 = 1 ∨ v.toNat / 2 ^ 62 = 2 then modFront s fun r => { r with qBusy := true, qReq := some v }
    else s := rfl

/-- R460: what a write to a doorbell does. -/
theorem writeReg_doorbell (s : State) (v : BitVec 64) {k : Nat} (hk : k < 16384) :
    writeReg s (0x20000 + 8 * k) v = dueEvents s [.doorbellWrite k v] := by
  have hslot : (0x20000 + 8 * k - 0x20000) / 8 = k := by omega
  rw [writeReg, if_neg (by omega), if_pos (by omega), hslot]

theorem registersThatAct : Claims.RegistersThatAct := by
  intro s v hr
  refine ⟨fun p hp => ?_, fun k hk => ?_, fun hv => ?_, fun hv => ?_, fun hv => ?_⟩
  · obtain ⟨hok, hw⟩ := actionRegs_served p hp
    rw [exec_mmioWrite v hr hok hw, writeReg_action s _ p hp]
  · have hw : regWidth (0x20000 + 8 * k) = some 8 := by
      rw [regWidth, if_neg (by omega), if_pos (by omega), if_pos (by omega)]
    rw [exec_mmioWrite64 v hr (by omega) hw, writeReg_doorbell s v hk]; rfl
  · have h1 : bits v.toNat 32 2 = 1 := hv
    rw [exec_mmioWrite64 v hr rfl rfl, writeReg_prqResp, if_pos h1]; rfl
  · have h2 : bits v.toNat 32 2 = 2 := hv
    rw [exec_mmioWrite64 v hr rfl rfl, writeReg_prqResp, if_neg (by omega), if_pos h2]; rfl
  · rw [exec_mmioWrite64 v hr rfl rfl, writeReg_queueReq]
    refine ⟨_, rfl, ?_⟩
    by_cases hb : s.front.r.qBusy = true
    · rw [if_pos hb]
      exact ⟨by simp [logMmio, hb], by simp [hb], fun _ => ⟨logMmio_logs s _, by simp [logMmio]⟩⟩
    · rw [if_neg hb, if_pos hv]
      exact ⟨rfl, fun _ => rfl, fun h => absurd h hb⟩

/-! #### Rejected accesses -/

/-- R13, R447: a read of BAR0 through BAR2 is a read of the register. -/
theorem exec_hostRead_regs {s : State} {x : HostAccess} {off : Nat} (hr : s.front.r.ready = true) (hop : x.op = .read)
    (hpa : s.front.r.bar2.toNat * 2 ^ 30 + x.off = 0x80000000000 + off) (hk : physKind (0x80000000000 + off) = .regs) :
    exec (.hostBar2Access x) s = execMmioRead off x.len s := by
  change execHostBar2Access x s = _
  unfold execHostBar2Access
  simp only [hpa, hk, hop, hr, Nat.add_sub_cancel_left]
  rfl

/-- R13: a read of another width or alignment is logged, and any other changes nothing. -/
theorem execMmioRead_ready {s : State} (hr : s.front.r.ready = true) (off n : Nat) :
    (accessOk off n = true → execMmioRead off n s = .next s)
    ∧ (accessOk off n = false → ∃ t, execMmioRead off n s = .next t ∧ Logs s t 6 10 (1024 * s.pkg.toNat) off 0) :=
  ⟨fun hok => by simp [execMmioRead, hok], fun hbad => ⟨logMmio s off, by simp [execMmioRead, hr, hbad], logMmio_logs s off⟩⟩

theorem rejectedAccesses : Claims.RejectedAccesses := by
  intro s off width v
  refine ⟨fun hr hbad => ?_, fun n hbad => ?_, fun hr hf => ?_, fun n hr hok h0 h14 => ?_,
    fun n hr => execMmioRead_ready hr off n, fun x hr hop hpa hk => ?_⟩
  · have hlog : exec (.mmioWrite off width v) s = .next (logMmio s off) := by
      rcases hbad with hbad | hbad <;> simp [exec, execMmioWrite, hr, hbad]
    exact ⟨_, hlog, logMmio_logs s off, by simp [logMmio]⟩
  · simp [mmioRead, hbad]
  · simp [exec, execMmioWrite, hr, hf]
  · simp [mmioRead, hok, hr, h0, h14]
  · rw [exec_hostRead_regs hr hop hpa hk]
    exact execMmioRead_ready hr off x.len

/-! #### Registers that clear -/

/-- A change of one die leaves the other dies, the front end and memory as they are. -/
theorem modDie_alone (s : State) {d : Nat} (hd : d < 4) (f : Die → Die) :
    dieOf (modDie s d f) d = f (dieOf s d) ∧ (∀ j, j ≠ d → dieOf (modDie s d f) j = dieOf s j)
      ∧ (modDie s d f).front = s.front ∧ (modDie s d f).mem = s.mem :=
  ⟨by simp [dieOf_modDie, hd], fun j hj => by simp [dieOf_modDie, hj], rfl, rfl⟩

theorem served_ready {s t : State} (hr : s.front.r.ready = true) : served s t = .next t := by simp [served, hr]

theorem statusClears : Claims.StatusClears := fun _ _ hr hd =>
  ⟨⟨_, served_ready hr, modDie_alone _ hd _⟩, ⟨_, served_ready hr, modDie_alone _ hd _⟩, _, served_ready hr, rfl, rfl, rfl, rfl⟩

/-! #### Registers that hold what is written -/

/-- R11: the registers that hold what is written: six of the front end and the log, the soft threshold of each cluster, and the
weights of each virtual channel. -/
theorem mem_plainRegs {p : Nat × Nat × Nat} : p ∈ plainRegs ↔
    p = (0x008, 8, 2 ^ 52 - 1) ∨ p = (0x020, 8, (2 ^ 22 - 1) * 2 ^ 30) ∨ p = (0x028, 8, (2 ^ 40 - 1) * 2 ^ 12 + 1)
    ∨ p = (0x030, 4, 2 ^ 20 - 1) ∨ p = (0x050, 8, (2 ^ 37 - 1) * 2 ^ 15 + 1) ∨ p = (0x90000C, 4, 2 ^ 12 - 1)
    ∨ (∃ j < 8, p = (0x100000 + 0x1000 * j, 4, 2 ^ 24 - 1)) ∨ ∃ k < 18, p = (0xA00000 + 0x100 * k, 4, 2 ^ 32 - 1) := by
  simp only [plainRegs, List.mem_append, List.mem_cons, List.mem_map, List.mem_range, List.not_mem_nil, or_false, or_assoc,
    eq_comm (a := p)]

theorem plainRegs_served : ∀ p ∈ plainRegs, accessOk p.1 p.2.1 = true ∧ regWidth p.1 = some p.2.1 ∧ p.2.2 < 2 ^ (8 * p.2.1) := by
  decide

theorem regWidth_threshold {j : Nat} (hj : j < 8) : regWidth (0x100000 + 0x1000 * j) = some 4 :=
  have hmem : (0x100000 + 0x1000 * j, 4, 2 ^ 24 - 1) ∈ plainRegs := mem_plainRegs.2 <|
    .inr <| .inr <| .inr <| .inr <| .inr <| .inr <| .inl ⟨j, hj, rfl⟩
  (plainRegs_served _ hmem).2.1

theorem regWidth_channel {k : Nat} (hk : k < 18) : regWidth (0xA00000 + 0x100 * k) = some 4 :=
  have hmem : (0xA00000 + 0x100 * k, 4, 2 ^ 32 - 1) ∈ plainRegs := mem_plainRegs.2 <|
    .inr <| .inr <| .inr <| .inr <| .inr <| .inr <| .inr ⟨k, hk, rfl⟩
  (plainRegs_served _ hmem).2.1

theorem regValue_threshold (s : State) {j : Nat} (hj : j < 8) :
    regValue s (0x100000 + 0x1000 * j) = (clusterOf s j).curth.toNat := by
  have hreg : (0x100000 + 0x1000 * j) % 0x1000 = 0 := by omega
  have hcluster : (0x100000 + 0x1000 * j) / 0x1000 % 16 = j := by omega
  unfold regValue
  rw [regWidth_threshold hj, Option.isNone_some, if_neg Bool.false_ne_true, if_neg (by omega), if_neg (by omega),
    if_pos (by omega), hreg, hcluster]; rfl

theorem regValue_channel (s : State) {k : Nat} (hk : k < 18) :
    regValue s (0xA00000 + 0x100 * k) = (s.front.vcw.getD k 0).toNat := by
  have hchannel : (0xA00000 + 0x100 * k - 0xA00000) / 0x100 = k := by omega
  unfold regValue
  rw [regWidth_channel hk, Option.isNone_some, if_neg Bool.false_ne_true, if_neg (by omega), if_neg (by omega), if_neg (by omega),
    if_neg (by omega), if_neg (by omega), if_neg (by omega), if_neg (by omega), hchannel]

theorem regValue_threshold_congr {s t : State} (h : t.clusters = s.clusters) {j : Nat} (hj : j < 8) :
    regValue t (0x100000 + 0x1000 * j) = regValue s (0x100000 + 0x1000 * j) := by
  rw [regValue_threshold t hj, regValue_threshold s hj, clusterOf, clusterOf, h]

theorem regValue_channel_congr {s t : State} (h : t.front.vcw = s.front.vcw) {k : Nat} (hk : k < 18) :
    regValue t (0xA00000 + 0x100 * k) = regValue s (0xA00000 + 0x100 * k) := by
  rw [regValue_channel t hk, regValue_channel s hk, h]

/-- What holds of each of these registers holds of all. -/
theorem forall_plainRegs {Q : Nat → Prop} (h8 : Q 0x008) (h20 : Q 0x020) (h28 : Q 0x028) (h30 : Q 0x030) (h50 : Q 0x050)
    (hlog : Q 0x90000C) (hcl : ∀ j < 8, Q (0x100000 + 0x1000 * j)) (hvc : ∀ k < 18, Q (0xA00000 + 0x100 * k)) :
    ∀ q ∈ plainRegs, Q q.1 := by
  intro q hq
  rcases mem_plainRegs.1 hq with rfl | rfl | rfl | rfl | rfl | rfl | ⟨j, hj, rfl⟩ | ⟨k, hk, rfl⟩
  case _ => exact h8
  case _ => exact h20
  case _ => exact h28
  case _ => exact h30
  case _ => exact h50
  case _ => exact hlog
  case _ => exact hcl j hj
  case _ => exact hvc k hk

/-- The bits of a field of `a` bits at bit `b`. -/
theorem and_field (n a b : Nat) : n &&& (2 ^ a - 1) * 2 ^ b = 2 ^ b * bits n b a := by
  refine Nat.eq_of_testBit_eq fun k => ?_
  rw [bits, Nat.testBit_and, Nat.testBit_mul_two_pow, Nat.testBit_two_pow_sub_one, Nat.testBit_two_pow_mul,
    Nat.testBit_mod_two_pow, Nat.testBit_div_two_pow]
  by_cases hk : b ≤ k
  · simp [hk, Bool.and_comm]
  · simp [hk]

/-- The bits of a field and of an enable bit below it. -/
theorem and_field_enable (n a : Nat) {b : Nat} (hb : 0 < b) :
    n &&& (2 ^ a - 1) * 2 ^ b + 1 = b01 (bit n 0) + 2 ^ b * bits n b a := by
  have h1 : 1 < 2 ^ b := Nat.one_lt_two_pow (by omega)
  have hlow : b01 (bit n 0) = n % 2 := by
    simp only [b01, bit, Nat.pow_zero, Nat.div_one, beq_iff_eq]; split <;> omega
  rw [Nat.mul_comm, Nat.two_pow_add_eq_or_of_lt h1, Nat.and_or_distrib_left, Nat.mul_comm, and_field, Nat.and_one_is_mod, hlow,
    Nat.add_comm, Nat.two_pow_add_eq_or_of_lt (by omega)]

/-- R11: register `o` holds `n` in `t`, and the other registers that hold what is written are as they were. -/
def HoldsAlone (s t : State) (o n : Nat) : Prop :=
  t.front.r.ready = s.front.r.ready ∧ regValue t o = n ∧ ∀ q ∈ plainRegs, q.1 ≠ o → regValue t q.1 = regValue s q.1

theorem ringSwitch_front (s : State) : (ringSwitch s).front = s.front := by unfold ringSwitch; split <;> rfl

theorem ringSwitch_clusters (s : State) : (ringSwitch s).clusters = s.clusters := by unfold ringSwitch; split <;> rfl

/-- R453: what a switch of the request ring makes due is read by no register. -/
theorem regValue_ringSwitch (s : State) (q : Nat) : regValue (ringSwitch s) q = regValue s q := by
  unfold ringSwitch; split <;> rfl

/-- Of a register of the front end or of the log: only that register has changed. -/
theorem holdsAlone_front {s t : State} {o n : Nat} (hr : t.front.r.ready = s.front.r.ready) (hc : t.clusters = s.clusters)
    (hv : t.front.vcw = s.front.vcw) (hn : regValue t o = n)
    (h8 : 0x008 ≠ o → regValue t 0x008 = regValue s 0x008) (h20 : 0x020 ≠ o → regValue t 0x020 = regValue s 0x020)
    (h28 : 0x028 ≠ o → regValue t 0x028 = regValue s 0x028) (h30 : 0x030 ≠ o → regValue t 0x030 = regValue s 0x030)
    (h50 : 0x050 ≠ o → regValue t 0x050 = regValue s 0x050)
    (hlog : 0x90000C ≠ o → regValue t 0x90000C = regValue s 0x90000C) : HoldsAlone s t o n :=
  ⟨hr, hn, forall_plainRegs (Q := fun q => q ≠ o → regValue t q = regValue s q) h8 h20 h28 h30 h50 hlog
    (fun _ hj _ => regValue_threshold_congr hc hj) (fun _ hk _ => regValue_channel_congr hv hk)⟩

/-- R450 to R453, R421: the registers of the front end and the log. -/
theorem holdsAlone_stage (s : State) (u : BitVec 64) : HoldsAlone s (writeReg s 0x008 u) 0x008 (u.toNat &&& 2 ^ 52 - 1) := by
  rw [Nat.and_two_pow_sub_one_eq_mod]
  exact holdsAlone_front rfl rfl rfl (BitVec.toNat_setWidth ..) (fun h => absurd rfl h) (fun _ => rfl) (fun _ => rfl)
    (fun _ => rfl) (fun _ => rfl) (fun _ => rfl)

theorem holdsAlone_window (s : State) (u : BitVec 64) :
    HoldsAlone s (writeReg s 0x020 u) 0x020 (u.toNat &&& (2 ^ 22 - 1) * 2 ^ 30) := by
  rw [and_field, bits, ← Nat.mod_mod]
  exact holdsAlone_front rfl rfl rfl rfl (fun _ => rfl) (fun h => absurd rfl h) (fun _ => rfl) (fun _ => rfl) (fun _ => rfl)
    (fun _ => rfl)

theorem holdsAlone_tables (s : State) (u : BitVec 64) :
    HoldsAlone s (writeReg s 0x028 u) 0x028 (u.toNat &&& (2 ^ 40 - 1) * 2 ^ 12 + 1) := by
  rw [and_field_enable _ _ (by omega), bits, ← Nat.mod_mod]
  exact holdsAlone_front rfl rfl rfl rfl (fun _ => rfl) (fun _ => rfl) (fun h => absurd rfl h) (fun _ => rfl) (fun _ => rfl)
    (fun _ => rfl)

theorem holdsAlone_pasid (s : State) (u : BitVec 64) : HoldsAlone s (writeReg s 0x030 u) 0x030 (u.toNat &&& 2 ^ 20 - 1) := by
  rw [Nat.and_two_pow_sub_one_eq_mod]
  exact holdsAlone_front rfl rfl rfl (BitVec.toNat_setWidth ..) (fun _ => rfl) (fun _ => rfl) (fun _ => rfl)
    (fun h => absurd rfl h) (fun _ => rfl) (fun _ => rfl)

theorem holdsAlone_ring (s : State) (u : BitVec 64) :
    HoldsAlone s (writeReg s 0x050 u) 0x050 (u.toNat &&& (2 ^ 37 - 1) * 2 ^ 15 + 1) := by
  rw [and_field_enable _ _ (by omega), bits, ← Nat.mod_mod]
  exact holdsAlone_front (congrArg (·.r.ready) (ringSwitch_front _)) (ringSwitch_clusters _)
    (congrArg (·.vcw) (ringSwitch_front _)) (regValue_ringSwitch ..) (fun _ => regValue_ringSwitch ..)
    (fun _ => regValue_ringSwitch ..) (fun _ => regValue_ringSwitch ..) (fun _ => regValue_ringSwitch ..)
    (fun h => absurd rfl h) (fun _ => regValue_ringSwitch ..)

theorem holdsAlone_logTail (s : State) (u : BitVec 64) :
    HoldsAlone s (writeReg s 0x90000C u) 0x90000C (u.toNat &&& 2 ^ 12 - 1) := by
  rw [Nat.and_two_pow_sub_one_eq_mod]
  exact holdsAlone_front rfl rfl rfl (BitVec.toNat_setWidth ..) (fun _ => rfl) (fun _ => rfl) (fun _ => rfl) (fun _ => rfl)
    (fun _ => rfl) (fun h => absurd rfl h)

/-- R433: what a write to the threshold of a cluster does. -/
theorem writeReg_threshold (s : State) (u : BitVec 64) {j : Nat} (hj : j < 8) :
    writeReg s (0x100000 + 0x1000 * j) u = modCluster s j fun k => { k with curth := u.setWidth 24 } := by
  have hreg : (0x100000 + 0x1000 * j) % 0x1000 = 0 := by omega
  have hcluster : (0x100000 + 0x1000 * j) / 0x1000 % 16 = j := by omega
  rw [writeReg, if_neg (by omega), if_neg (by omega), if_pos (by omega), if_pos hreg, hcluster]

/-- R11: what a write to the weights of a virtual channel does. -/
theorem writeReg_channel (s : State) (u : BitVec 64) {k : Nat} (hk : k < 18) : writeReg s (0xA00000 + 0x100 * k) u
    = { s with front := { s.front with vcw := s.front.vcw.set k (u.setWidth 32) } } := by
  have hchannel : (0xA00000 + 0x100 * k - 0xA00000) / 0x100 = k := by omega
  rw [writeReg, if_neg (by omega), if_neg (by omega), if_neg (by omega), if_neg (by omega), if_neg (by omega), if_neg (by omega),
    if_neg (by omega), if_pos (by omega), hchannel]

theorem holdsAlone_threshold (s : State) (u : BitVec 64) {j : Nat} (hj : j < 8) :
    HoldsAlone s (writeReg s (0x100000 + 0x1000 * j) u) (0x100000 + 0x1000 * j) (u.toNat &&& 2 ^ 24 - 1) := by
  rw [writeReg_threshold s u hj]
  refine ⟨rfl, ?_, forall_plainRegs (Q := fun q => q ≠ _ → regValue _ q = regValue s q) (fun _ => rfl) (fun _ => rfl)
    (fun _ => rfl) (fun _ => rfl) (fun _ => rfl) (fun _ => rfl) (fun i hi hne => ?_)
    (fun _ hk _ => regValue_channel_congr (by rfl) hk)⟩
  · rw [regValue_threshold _ hj, clusterOf_modCluster, if_pos ⟨rfl, hj⟩, Nat.and_two_pow_sub_one_eq_mod]
    exact BitVec.toNat_setWidth ..
  · rw [regValue_threshold _ hi, regValue_threshold s hi, clusterOf_modCluster, if_neg (by omega)]

theorem holdsAlone_channel {s : State} (u : BitVec 64) (hlen : s.front.vcw.length = 18) {k : Nat} (hk : k < 18) :
    HoldsAlone s (writeReg s (0xA00000 + 0x100 * k) u) (0xA00000 + 0x100 * k) (u.toNat &&& 2 ^ 32 - 1) := by
  rw [writeReg_channel s u hk]
  refine ⟨rfl, ?_, forall_plainRegs (Q := fun q => q ≠ _ → regValue _ q = regValue s q) (fun _ => rfl) (fun _ => rfl)
    (fun _ => rfl) (fun _ => rfl) (fun _ => rfl) (fun _ => rfl) (fun _ hj _ => regValue_threshold_congr (by rfl) hj)
    (fun i hi hne => ?_)⟩
  · rw [regValue_channel _ hk, Nat.and_two_pow_sub_one_eq_mod]
    simp [List.getD_eq_getElem?_getD, hlen, hk]
  · have hki : k ≠ i := fun e => hne (by rw [e])
    rw [regValue_channel _ hi, regValue_channel s hi]
    simp [List.getD_eq_getElem?_getD, List.getElem?_set_ne hki]

theorem writeReg_plain {s : State} (u : BitVec 64) (hlen : s.front.vcw.length = 18) :
    ∀ p ∈ plainRegs, HoldsAlone s (writeReg s p.1 u) p.1 (u.toNat &&& p.2.2) := by
  intro p hp
  rcases mem_plainRegs.1 hp with rfl | rfl | rfl | rfl | rfl | rfl | ⟨j, hj, rfl⟩ | ⟨k, hk, rfl⟩
  case _ => exact holdsAlone_stage s u
  case _ => exact holdsAlone_window s u
  case _ => exact holdsAlone_tables s u
  case _ => exact holdsAlone_pasid s u
  case _ => exact holdsAlone_ring s u
  case _ => exact holdsAlone_logTail s u
  case _ => exact holdsAlone_threshold s u hj
  case _ => exact holdsAlone_channel u hlen hk

theorem mmioRead_plain {s : State} (hr : s.front.r.ready = true) {p : Nat × Nat × Nat} (hp : p ∈ plainRegs) :
    mmioRead s p.1 p.2.1 = regValue s p.1 % 2 ^ (8 * p.2.1) := by
  simp [mmioRead, hr, (plainRegs_served p hp).1]

/-- The bits of a mask that a narrower write carries. -/
theorem and_mask_mod (v : Nat) {m n : Nat} (hm : m < 2 ^ n) : (v % 2 ^ n &&& m) % 2 ^ n = v &&& m := by
  rw [Nat.and_mod_two_pow, Nat.mod_mod, ← Nat.and_mod_two_pow, Nat.mod_eq_of_lt (Nat.lt_of_le_of_lt Nat.and_le_right hm)]

theorem registersHoldWhatIsWritten : Claims.RegistersHoldWhatIsWritten := by
  intro s v hr hlen p hp
  obtain ⟨hok, hw, hmask⟩ := plainRegs_served p hp
  obtain ⟨hready, hheld, hothers⟩ := writeReg_plain (BitVec.ofNat 64 (v.toNat % 2 ^ (8 * p.2.1))) hlen p hp
  have hu : (BitVec.ofNat 64 (v.toNat % 2 ^ (8 * p.2.1))).toNat = v.toNat % 2 ^ (8 * p.2.1) :=
    BitVec.toNat_ofNat .. ▸ Nat.mod_eq_of_lt (Nat.lt_of_le_of_lt (Nat.mod_le ..) v.isLt)
  rw [hr] at hready
  refine ⟨_, exec_mmioWrite v hr hok hw, ?_, fun q hq hne => ?_⟩
  · rw [mmioRead_plain hready hp, hheld, hu, and_mask_mod _ hmask]
  · rw [mmioRead_plain hready hq, mmioRead_plain hr hq, hothers q hq hne]

/-- Settles O48. A write of a register's own width is one change of the state for each kind of register, and every read goes
through the value that the register map names; the rest is logged. -/
theorem memoryMappedRegisters : Obligations.MemoryMappedRegisters :=
  ⟨registersHoldWhatIsWritten, registersThatAct, rejectedAccesses, statusClears⟩

end Sys2Proof.Machine
end

/-! ### What an instruction's own meaning can come to (O22) -/

section
namespace Sys2Proof.Machine

open Sys2Proof

/-- R404, R491: what is done beside raising a list of causes: nothing, or logging what the accesses of the lanes met. -/
def Res.OnlyNotes (c : Ctx) : Res → Prop
  | .causes _ post => post = id ∨ ∃ eas, post = noteLanes c eas
  | _ => True

section
variable {c : Ctx}

theorem Res.OnlyNotes.causes (cs : List LaneCause) : (Res.causes cs).OnlyNotes c := .inl rfl

theorem Res.OnlyNotes.noted (cs : List LaneCause) (eas : List Nat) : (Res.causes cs (noteLanes c eas)).OnlyNotes c :=
  .inr ⟨eas, rfl⟩

theorem Res.OnlyNotes.either {p : Prop} [Decidable p] {a b : Res} (ha : a.OnlyNotes c) (hb : b.OnlyNotes c) :
    (if p then a else b).OnlyNotes c := by split <;> assumption

open Res.OnlyNotes (causes noted either)

theorem braBody_onlyNotes (gd : Option Guard) (target : DWord) : (braBody gd target c).OnlyNotes c := by
  unfold braBody
  dsimp only
  split
  · exact either trivial (either (causes _) trivial)
  · exact either (causes _) (either trivial trivial)

theorem jumpBody_onlyNotes (addr : Nat → Nat) (link : Option Nat) : (jumpBody addr link c).OnlyNotes c :=
  either (causes _) trivial

theorem exitBody_onlyNotes (gd : Option Guard) : (exitBody gd c).OnlyNotes c := either trivial trivial

theorem tretBody_onlyNotes : (tretBody c).OnlyNotes c := either (causes _) (either (causes _) (either trivial trivial))

theorem brkptBody_onlyNotes : (brkptBody c).OnlyNotes c := either trivial (either trivial trivial)

theorem mfsBody_onlyNotes (o : ExtOps) : (mfsBody o c).OnlyNotes c := either trivial trivial

theorem mtsBody_onlyNotes (o : ExtOps) : (mtsBody o c).OnlyNotes c := either trivial (either (causes _) (either trivial trivial))

theorem xrelBody_onlyNotes (o : ExtOps) : (xrelBody o c).OnlyNotes c :=
  either (causes _) (either trivial (either (causes _) trivial))

theorem resolvedLanes_onlyNotes (f : Fn) (ty : Ty) (d : Dest) (tickets : Bool) (xs : List LaneRes) :
    (resolvedLanes c f ty d tickets xs).OnlyNotes c := either trivial trivial

theorem resolvedBody_onlyNotes (o : ExtOps) : (resolvedBody o c).OnlyNotes c := resolvedLanes_onlyNotes ..

theorem dotBody_onlyNotes (n : Nat) (o : ExtOps) : (dotBody n o c).OnlyNotes c := resolvedLanes_onlyNotes ..

theorem groupBody_onlyNotes (sq : Bool) (o : ExtOps) : (groupBody sq o c).OnlyNotes c := either trivial (either trivial trivial)

theorem extremeBody_onlyNotes (big : Bool) (o : ExtOps) : (extremeBody big o c).OnlyNotes c := either trivial trivial

theorem fprogBody_onlyNotes (o : ExtOps) : (fprogBody o c).OnlyNotes c := by
  unfold fprogBody
  dsimp only
  split
  · exact causes _
  · exact either (causes _) (resolvedLanes_onlyNotes ..)

theorem parkwBody_onlyNotes (o : ExtOps) : (parkwBody o c).OnlyNotes c := either trivial trivial

theorem scrBody_onlyNotes (n : Nat) (ea : Nat → Nat) (op : Nat → AccOp) (load sg : Bool) (dst : Option (Nat × Nat)) :
    (scrBody c n ea op load sg dst).OnlyNotes c := either (causes _) trivial

theorem pinBody_onlyNotes (o : ExtOps) (pin : Bool) : (pinBody c o pin).OnlyNotes c :=
  either trivial (either (causes _) (either (causes _) trivial))

theorem queueBody_onlyNotes {uni misuse : Bool} {r : Unit → Res} (hr : (r ()).OnlyNotes c) :
    (queueBody c uni misuse r).OnlyNotes c := either trivial (either (causes _) (either (causes _) hr))

theorem qpushBody_onlyNotes (o : ExtOps) : (qpushBody o c).OnlyNotes c := by
  unfold qpushBody
  refine queueBody_onlyNotes ?_
  refine either trivial ?_
  dsimp only
  split <;> trivial

theorem qpopBody_onlyNotes (o : ExtOps) : (qpopBody o c).OnlyNotes c := by
  unfold qpopBody
  refine queueBody_onlyNotes ?_
  refine either trivial ?_
  dsimp only
  split <;> trivial

theorem qtryBody_onlyNotes (o : ExtOps) : (qtryBody o c).OnlyNotes c := by
  unfold qtryBody
  refine queueBody_onlyNotes ?_
  refine either trivial (either trivial ?_)
  split <;> trivial

theorem joinBody_onlyNotes (o : ExtOps) : (joinBody o c).OnlyNotes c := by
  unfold joinBody
  split
  · exact either trivial trivial
  · trivial

theorem mmaRegBody_onlyNotes (z : Bool) (o : ExtOps) : (mmaRegBody z o c).OnlyNotes c := by
  unfold mmaRegBody
  dsimp only
  split
  · exact causes _
  · exact either (causes _) (either trivial trivial)

theorem mmaSpBody_onlyNotes (z : Bool) (o : ExtOps) : (mmaSpBody z o c).OnlyNotes c := either (causes _) (either trivial trivial)

theorem addrBody_onlyNotes (align acc : Nat) (o : ExtOps) : (addrBody align acc o c).OnlyNotes c := either (causes _) trivial

theorem lutswBody_onlyNotes (o : ExtOps) : (lutswBody o c).OnlyNotes c := either trivial trivial

theorem mbarvBody_onlyNotes (o : ExtOps) : (mbarvBody o c).OnlyNotes c := by
  refine either trivial (either (causes _) (either trivial ?_))
  split
  · exact causes _
  · trivial

theorem gloIssue_onlyNotes (eas : List Nat) (cs : List LaneCause) (dst : Option (Nat × Nat)) (flags : Nat) (as : List Access) :
    (gloIssue c eas cs dst flags as).OnlyNotes c := either trivial (either (noted _ _) trivial)

theorem gloBody_onlyNotes (nd : Need) (n : Nat) (ea : Nat → Nat) (op : Nat → AccOp) (dst : Option (Nat × Nat)) (scope : Nat)
    (acq rel merge : Bool) : (gloBody c nd n ea op dst scope acq rel merge).OnlyNotes c := gloIssue_onlyNotes ..

theorem atomBody_onlyNotes (o : ExtOps) (code : Nat) (ea opnd new : Nat → Nat) : (atomBody c o code ea opnd new).OnlyNotes c :=
  gloIssue_onlyNotes ..

theorem tileBody_onlyNotes (load : Bool) (o : ExtOps) : (tileBody load o c).OnlyNotes c :=
  either trivial (either (causes _) (either trivial (either (noted _ _) (either trivial trivial))))

theorem cpyBody_onlyNotes (o : ExtOps) : (cpyBody o c).OnlyNotes c :=
  either trivial (either (causes _) (either trivial (either (noted _ _) (either (causes _) (either trivial trivial)))))

theorem publishBody_onlyNotes (o : ExtOps) : (publishBody o c).OnlyNotes c := by
  refine either trivial (either (causes _) ?_)
  split
  · exact causes _
  · exact either trivial trivial

theorem xprobeBody_onlyNotes (o : ExtOps) : (xprobeBody o c).OnlyNotes c := either trivial trivial

theorem fenceBody_onlyNotes (o : ExtOps) : (fenceBody o c).OnlyNotes c := either trivial (either trivial trivial)

theorem barBody_onlyNotes (o : ExtOps) (wait : Bool) : (barBody c o wait).OnlyNotes c := by
  refine either trivial (either (causes _) (either trivial ?_))
  split
  · exact causes _
  · trivial

theorem sbarBody_onlyNotes (o : ExtOps) : (sbarBody o c).OnlyNotes c :=
  either (causes _) (either (causes _) (either trivial trivial))

end

open Res.OnlyNotes (causes either) in
/-- R8: every instruction of the opcode table is issued by its own meaning, which does nothing beside raising causes but log. -/
theorem exec_issues (i : Instr) (s : State) (h : (opInfo i).isSome = true) :
    ∃ body, exec i s = issue i body s ∧ ∀ c, (body c).OnlyNotes c := by
  cases i
  all_goals try exact absurd h Bool.false_ne_true
  all_goals dsimp only [exec]
  case bra | braLiteral => exact ⟨_, rfl, fun _ => braBody_onlyNotes ..⟩
  case brx | call | calli | ret => exact ⟨_, rfl, fun _ => jumpBody_onlyNotes ..⟩
  case exit => exact ⟨_, rfl, fun _ => exitBody_onlyNotes ..⟩
  case tret => exact ⟨_, rfl, fun _ => tretBody_onlyNotes ..⟩
  case brkpt => exact ⟨_, rfl, fun _ => brkptBody_onlyNotes ..⟩
  case mfs => exact ⟨_, rfl, fun _ => mfsBody_onlyNotes ..⟩
  case mts => exact ⟨_, rfl, fun _ => mtsBody_onlyNotes ..⟩
  case xrel => exact ⟨_, rfl, fun _ => xrelBody_onlyNotes ..⟩
  case fdiv | frcp | fsqrt | frsqrt | fexp | fexp2 | fexpm1 | flog | flog2 | flog1p | fsin | fcos | ftan | fsinpi | fcospi |
      fatan | fhypot | fpow | fdivD | frcpD | fsqrtD | frsqrtD | fexpD | fexp2D | fexpm1D | flogD | flog2D | flog1pD | fsinD |
      fcosD | ftanD | fsinpiD | fcospiD | fatanD => exact ⟨_, rfl, fun _ => resolvedBody_onlyNotes ..⟩
  case fdot2 | fdot4 => exact ⟨_, rfl, fun _ => dotBody_onlyNotes ..⟩
  case gsum | gsumsq | gsumD | gsumsqD => exact ⟨_, rfl, fun _ => groupBody_onlyNotes ..⟩
  case gmax | gmin => exact ⟨_, rfl, fun _ => extremeBody_onlyNotes ..⟩
  case fprog => exact ⟨_, rfl, fun _ => fprogBody_onlyNotes ..⟩
  case parkw => exact ⟨_, rfl, fun _ => parkwBody_onlyNotes ..⟩
  case lds | sts | ldsg | stss | atomsOp | atomsXchg | atomsCas => exact ⟨_, rfl, fun _ => scrBody_onlyNotes ..⟩
  case sppin | spfree => exact ⟨_, rfl, fun _ => pinBody_onlyNotes ..⟩
  case qpush => exact ⟨_, rfl, fun _ => qpushBody_onlyNotes ..⟩
  case qpop => exact ⟨_, rfl, fun _ => qpopBody_onlyNotes ..⟩
  case qtry => exact ⟨_, rfl, fun _ => qtryBody_onlyNotes ..⟩
  case join => exact ⟨_, rfl, fun _ => joinBody_onlyNotes ..⟩
  case mmaReg | mmazReg => exact ⟨_, rfl, fun _ => mmaRegBody_onlyNotes ..⟩
  case mmaSp | mmazSp => exact ⟨_, rfl, fun _ => mmaSpBody_onlyNotes ..⟩
  case acld | acst | lutld => exact ⟨_, rfl, fun _ => addrBody_onlyNotes ..⟩
  case lutsw => exact ⟨_, rfl, fun _ => lutswBody_onlyNotes ..⟩
  case mbarv => exact ⟨_, rfl, fun _ => mbarvBody_onlyNotes ..⟩
  case ld | st | ldacq | strel => exact ⟨_, rfl, fun _ => gloBody_onlyNotes ..⟩
  case atomOp | atomXchg | atomCas => exact ⟨_, rfl, fun _ => atomBody_onlyNotes ..⟩
  case ldt | stt => exact ⟨_, rfl, fun _ => tileBody_onlyNotes ..⟩
  case cpy => exact ⟨_, rfl, fun _ => cpyBody_onlyNotes ..⟩
  case publish => exact ⟨_, rfl, fun _ => publishBody_onlyNotes ..⟩
  case cflush | redInt | redFloat | redget => exact ⟨_, rfl, fun _ => gloIssue_onlyNotes ..⟩
  case xprobe => exact ⟨_, rfl, fun _ => xprobeBody_onlyNotes ..⟩
  case fence => exact ⟨_, rfl, fun _ => fenceBody_onlyNotes ..⟩
  case bar | barv => exact ⟨_, rfl, fun _ => barBody_onlyNotes ..⟩
  case sbar => exact ⟨_, rfl, fun _ => sbarBody_onlyNotes ..⟩
  case sleep | phint | fcvtMx | barw => exact ⟨_, rfl, fun _ => either trivial trivial⟩
  case trap => exact ⟨_, rfl, fun _ => either trivial (causes _)⟩
  case xacq => exact ⟨_, rfl, fun _ => either (causes _) (either trivial trivial)⟩
  case rdlane | wrlane => exact ⟨_, rfl, fun _ => either trivial (causes _)⟩
  case qinit | qallow => exact ⟨_, rfl, fun _ => queueBody_onlyNotes trivial⟩
  case fork => exact ⟨_, rfl, fun _ => either (causes _) (either (causes _) (either (causes _) (either (causes _) trivial)))⟩
  case mbarw => exact ⟨_, rfl, fun _ => either trivial (either (causes _) trivial)⟩
  case ldw => exact ⟨_, rfl, fun _ => either (causes _) trivial⟩
  case fwait => exact ⟨_, rfl, fun _ => either trivial (either (causes _) (either trivial trivial))⟩
  case mdrain =>
    refine ⟨_, rfl, fun c => ?_⟩
    dsimp only
    split
    · exact either (causes _) trivial
    · trivial
    · exact either (causes _) trivial
  all_goals exact ⟨_, rfl, fun _ => True.intro⟩

end Sys2Proof.Machine
end

/-! ### The record of a list of causes (O22) -/

section
namespace Sys2Proof.Machine

open Sys2Proof

/-! #### Priorities -/

theorem noLower_iff (x y : Cause) : noLower x y ↔ causeRank x ≤ causeRank y := by
  have h : ∀ z : Cause, causeRank z = (causeTable.map (·.1)).idxOf z + 1 := by intro z; cases z <;> rfl
  rw [noLower, h, h]; omega

theorem codeOf_eq (x : Cause) : codeOf x = causeCode x := by cases x <;> rfl

theorem causeRank_inj : Function.Injective causeRank := by
  refine Function.LeftInverse.injective (g := fun n => (causeTable.map (·.1)).getD (n - 1) .fetch) fun x => ?_
  cases x <;> rfl

theorem causeCode_ecc {x : Cause} : causeCode x = causeCode .ecc ↔ x = .ecc := by cases x <;> decide

/-! #### The highest cause of a list -/

/-- Induction over a list from its front, by the last element. -/
theorem list_concat_induction {α : Type} {P : List α → Prop} (nil : P []) (concat : ∀ l a, P l → P (l ++ [a])) (l : List α) :
    P l := by
  rw [← l.reverse_reverse]
  induction l.reverse with
  | nil => exact nil
  | cons a m ih => rw [List.reverse_cons]; exact concat _ _ ih

theorem topCause_concat (ws : List LaneCause) (z : LaneCause) :
    topCause (ws ++ [z]) = match topCause ws with
      | none => some (z.2.1, z.2.2)
      | some (b, a) => if causeRank z.2.1 < causeRank b then some (z.2.1, z.2.2) else some (b, a) := by
  rw [topCause, List.foldl_append]; rfl

theorem topCause_eq_none {ws : List LaneCause} : topCause ws = none ↔ ws = [] := by
  induction ws using list_concat_induction with
  | nil => simp [topCause]
  | concat ws z _ =>
    rw [topCause_concat]
    cases topCause ws with
    | none => simp
    | some b => simp only; split <;> simp

/-- R404: the highest cause is the first of the list that no other of it precedes in priority. -/
theorem topCause_eq_some {ws : List LaneCause} {x : Cause} {a : Nat} (h : topCause ws = some (x, a)) :
    ∃ l₁ k l₂, ws = l₁ ++ (k, x, a) :: l₂ ∧ (∀ y ∈ l₁, causeRank x < causeRank y.2.1)
      ∧ ∀ y ∈ l₂, causeRank x ≤ causeRank y.2.1 := by
  induction ws using list_concat_induction generalizing x a with
  | nil => cases h
  | concat ws z ih =>
    rw [topCause_concat] at h
    cases ht : topCause ws with
    | none =>
      rw [ht] at h
      cases h
      rw [topCause_eq_none.1 ht]
      exact ⟨[], z.1, [], rfl, by simp, by simp⟩
    | some b =>
      obtain ⟨l₁, k, l₂, rfl, h₁, h₂⟩ := ih ht
      rw [ht] at h
      simp only at h
      split at h
      · next hlt =>
        cases h
        refine ⟨l₁ ++ (k, b.1, b.2) :: l₂, z.1, [], rfl, fun y hy => ?_, by simp⟩
        rcases List.mem_append.1 hy with hy | hy
        · exact Nat.lt_trans hlt (h₁ y hy)
        · rcases List.mem_cons.1 hy with rfl | hy
          · exact hlt
          · exact Nat.lt_of_lt_of_le hlt (h₂ y hy)
      · next hge =>
        cases h
        refine ⟨l₁, k, l₂ ++ [z], by simp, h₁, fun y hy => ?_⟩
        rcases List.mem_append.1 hy with hy | hy
        · exact h₂ y hy
        · rw [List.mem_singleton.1 hy]; exact Nat.le_of_not_lt hge

theorem topCause_mem {ws : List LaneCause} {x : Cause} {a : Nat} (h : topCause ws = some (x, a)) : ∃ k, (k, x, a) ∈ ws := by
  obtain ⟨l₁, k, l₂, rfl, -, -⟩ := topCause_eq_some h
  exact ⟨k, by simp⟩

theorem topCause_le {ws : List LaneCause} {x : Cause} {a : Nat} (h : topCause ws = some (x, a)) {y : LaneCause} (hy : y ∈ ws) :
    causeRank x ≤ causeRank y.2.1 := by
  obtain ⟨l₁, k, l₂, rfl, h₁, h₂⟩ := topCause_eq_some h
  rcases List.mem_append.1 hy with hy | hy
  · exact Nat.le_of_lt (h₁ y hy)
  · rcases List.mem_cons.1 hy with rfl | hy
    · exact Nat.le_refl _
    · exact h₂ y hy

/-! #### The causes of a lane -/

/-- R404: a lane's highest cause is that of the causes it meets. -/
theorem worstOf_eq (cs : List LaneCause) (k : Nat) : worstOf cs k = topCause (cs.filter fun y => y.1 = k) := by
  simp only [worstOf, topCause, List.foldl_filter, decide_eq_true_eq]

theorem laneCause_of_worstOf {cs : List LaneCause} {k a : Nat} {x : Cause} (h : worstOf cs k = some (x, a)) :
    laneCause cs k x ∧ (k, x, a) ∈ cs := by
  rw [worstOf_eq] at h
  obtain ⟨j, hj⟩ := topCause_mem h
  obtain ⟨hmem, hjk⟩ := List.mem_filter.1 hj
  have hjk : j = k := by simpa using hjk
  subst hjk
  exact ⟨⟨⟨a, hmem⟩, fun y hy hk => (noLower_iff ..).2 (topCause_le h (List.mem_filter.2 ⟨hy, by simpa using hk⟩))⟩, hmem⟩

theorem worstOf_of_mem {cs : List LaneCause} {y : LaneCause} (h : y ∈ cs) : ∃ x, worstOf cs y.1 = some x := by
  refine Option.ne_none_iff_exists'.1 fun hn => ?_
  rw [worstOf_eq, topCause_eq_none] at hn
  exact List.not_mem_nil (hn ▸ List.mem_filter.2 ⟨h, by simp⟩)

theorem laneCause_unique {cs : List LaneCause} {k : Nat} {x y : Cause} (hx : laneCause cs k x) (hy : laneCause cs k y) :
    x = y := by
  obtain ⟨⟨a, ha⟩, hx⟩ := hx
  obtain ⟨⟨b, hb⟩, hy⟩ := hy
  have h₁ := (noLower_iff ..).1 (hx _ hb rfl)
  have h₂ := (noLower_iff ..).1 (hy _ ha rfl)
  exact causeRank_inj (Nat.le_antisymm h₁ h₂)

theorem worstOf_of_laneCause {cs : List LaneCause} {k : Nat} {x : Cause} (h : laneCause cs k x) :
    ∃ a, worstOf cs k = some (x, a) := by
  obtain ⟨a, ha⟩ := h.1
  obtain ⟨⟨y, b⟩, hy⟩ := worstOf_of_mem ha
  exact ⟨b, laneCause_unique h (laneCause_of_worstOf hy).1 ▸ hy⟩

/-- R404: the highest cause of each lane, in the order of the lanes. -/
def laneCauses (cs : List LaneCause) : List LaneCause :=
  (List.range 32).filterMap fun k => (worstOf cs k).map fun x => (k, x.1, x.2)

theorem mem_laneCauses {cs : List LaneCause} {y : LaneCause} : y ∈ laneCauses cs ↔ y.1 < 32 ∧ worstOf cs y.1 = some y.2 := by
  obtain ⟨j, x, a⟩ := y
  simp only [laneCauses, List.mem_filterMap, List.mem_range, Option.map_eq_some_iff, Prod.mk.injEq, Prod.exists]
  constructor
  · rintro ⟨k, hk, x', a', hw, rfl, rfl, rfl⟩; exact ⟨hk, hw⟩
  · rintro ⟨hk, hw⟩; exact ⟨j, hk, x, a, hw, rfl, rfl, rfl⟩

theorem laneCauses_sorted (cs : List LaneCause) : (laneCauses cs).Pairwise fun y z => y.1 < z.1 := by
  refine List.Pairwise.filterMap _ (R := (· < ·)) ?_ List.pairwise_lt_range
  intro j k hjk y hy z hz
  obtain ⟨-, -, rfl⟩ := Option.map_eq_some_iff.1 hy
  obtain ⟨-, -, rfl⟩ := Option.map_eq_some_iff.1 hz
  exact hjk

section
variable {cs : List LaneCause} (hl : ∀ y ∈ cs, y.1 < 32)
include hl

/-- The lane causes of 32 lanes are those of the list. -/
theorem laneCause_iff_mem {k : Nat} {x : Cause} : laneCause cs k x ↔ ∃ a, (k, x, a) ∈ laneCauses cs := by
  constructor
  · intro h
    obtain ⟨a, ha⟩ := worstOf_of_laneCause h
    exact ⟨a, mem_laneCauses.2 ⟨hl _ (laneCause_of_worstOf ha).2, ha⟩⟩
  · rintro ⟨a, ha⟩
    exact (laneCause_of_worstOf (mem_laneCauses.1 ha).2).1

/-- R404: the cause that is recorded is the highest of the list, with the address of the lowest lane that raised it. -/
theorem topCause_laneCauses {x : Cause} (hx : highestOf cs x) : ∃ a k, topCause (laneCauses cs) = some (x, a)
    ∧ laneCause cs k x ∧ (∀ j, laneCause cs j x → k ≤ j) ∧ (k, x, a) ∈ cs := by
  obtain ⟨⟨y, hy, rfl⟩, hhigh⟩ := hx
  obtain ⟨w, hw⟩ := worstOf_of_mem hy
  have hwmem : (y.1, w) ∈ laneCauses cs := mem_laneCauses.2 ⟨hl y hy, hw⟩
  obtain ⟨⟨x', a⟩, ht⟩ : ∃ x, topCause (laneCauses cs) = some x :=
    Option.ne_none_iff_exists'.1 fun hn => List.not_mem_nil (topCause_eq_none.1 hn ▸ hwmem)
  obtain ⟨l₁, k, l₂, hsplit, hbefore, -⟩ := topCause_eq_some ht
  have hk : (k, x', a) ∈ laneCauses cs := by rw [hsplit]; simp
  obtain ⟨hlane, hmem⟩ := laneCause_of_worstOf (mem_laneCauses.1 hk).2
  have hxy : x' = y.2.1 := by
    have h₁ := topCause_le ht hwmem
    have h₂ := (noLower_iff ..).1 ((laneCause_of_worstOf hw).1.2 y hy rfl)
    have h₃ := (noLower_iff ..).1 (hhigh _ hmem)
    exact causeRank_inj (Nat.le_antisymm (Nat.le_trans h₁ h₂) h₃)
  subst hxy
  refine ⟨a, k, ht, hlane, fun j hj => ?_, hmem⟩
  obtain ⟨b, hb⟩ := (laneCause_iff_mem hl).1 hj
  have hs := laneCauses_sorted cs
  rw [hsplit] at hb hs
  rcases List.mem_append.1 hb with hb | hb
  · exact absurd (hbefore _ hb) (Nat.lt_irrefl _)
  · rcases List.mem_cons.1 hb with hb | hb
    · cases hb; exact Nat.le_refl _
    · exact Nat.le_of_lt ((List.pairwise_cons.1 (List.pairwise_append.1 hs).2.1).1 _ hb)

end

/-! #### Masks -/

theorem testBit_maskOf (ks : List Nat) (k : Nat) : (maskOf ks).testBit k = decide (k ∈ ks) := by
  induction ks with
  | nil => simp [maskOf]
  | cons j js ih =>
    simp [maskOf, Nat.testBit_or, ih, Nat.testBit_two_pow, List.mem_cons, eq_comm (a := j)]

theorem testBit_laneMask (ws : List LaneCause) (k : Nat) : (laneMask ws).testBit k = true ↔ ∃ y ∈ ws, y.1 = k := by
  simp [laneMask, testBit_maskOf, List.mem_eraseDups]

end Sys2Proof.Machine
end

/-! ### What raising leaves as it was (O22) -/

section
namespace Sys2Proof.Machine

open Sys2Proof

/-! #### States in which nothing has been written -/

/-- What an instruction can write in a block is as it was: the bytes of its space and the registers of its groups and
sequencers. -/
structure BlockKept (k k' : Block) : Prop where
  scr : k'.scr = k.scr
  lines : ∀ g, (tget k'.groups g).map Group.lines = (tget k.groups g).map Group.lines
  mseq : k'.mseq.regs = k.mseq.regs
  cseq : k'.cseq.regs = k.cseq.regs

theorem BlockKept.refl (k : Block) : BlockKept k k := ⟨rfl, fun _ => rfl, rfl, rfl⟩

theorem BlockKept.trans {k k' k'' : Block} (h : BlockKept k k') (h' : BlockKept k' k'') : BlockKept k k'' :=
  ⟨h'.scr.trans h.scr, fun g => (h'.lines g).trans (h.lines g), h'.mseq.trans h.mseq, h'.cseq.trans h.cseq⟩

/-- R8, R404: no register, no byte of a block's space and no byte of memory outside the error log has changed, and no access has
been issued. -/
structure WritesNothing (s t : State) : Prop where
  blocks : ∀ b k, tget s.blocks b = some k → ∃ k', tget t.blocks b = some k' ∧ BlockKept k k'
  accesses : t.accesses = s.accesses
  errBase : t.front.l.errBase = s.front.l.errBase
  bytes : ∀ p, p < s.front.l.errBase.toNat ∨ s.front.l.errBase.toNat + 32 * 4096 ≤ p → homeCell t.mem p = homeCell s.mem p

/-- A state with the same blocks, accesses, front end and memory. -/
theorem WritesNothing.of_eq {s t : State} (hb : t.blocks = s.blocks) (ha : t.accesses = s.accesses) (hf : t.front = s.front)
    (hm : t.mem = s.mem) : WritesNothing s t :=
  ⟨fun b k hk => ⟨k, hb ▸ hk, .refl k⟩, ha, by rw [hf], fun p _ => by rw [hm]⟩

theorem WritesNothing.refl (s : State) : WritesNothing s s := .of_eq rfl rfl rfl rfl

theorem WritesNothing.trans {s t u : State} (h : WritesNothing s t) (h' : WritesNothing t u) : WritesNothing s u where
  blocks b k hk := by
    obtain ⟨k', hk', hkept⟩ := h.blocks b k hk
    obtain ⟨k'', hk'', hkept'⟩ := h'.blocks b k' hk'
    exact ⟨k'', hk'', hkept.trans hkept'⟩
  accesses := h'.accesses.trans h.accesses
  errBase := h'.errBase.trans h.errBase
  bytes p hp := (h'.bytes p (by rw [h.errBase]; exact hp)).trans (h.bytes p hp)

/-- A change of one block that keeps its space and registers writes nothing. -/
theorem writesNothing_modBlock (s : State) (b : Nat) {f : Block → Block} (hf : ∀ k, BlockKept k (f k)) :
    WritesNothing s (modBlock s b f) := by
  refine ⟨fun j k hk => ?_, rfl, rfl, fun _ _ => rfl⟩
  rw [tget_modBlock]
  by_cases e : j = b
  · subst e; exact ⟨f k, by simp [hk], hf k⟩
  · exact ⟨k, by simp [e, hk], .refl k⟩

/-- A change of one group that keeps its lines keeps its block. -/
theorem blockKept_group (k : Block) (gi : Nat) {f : Group → Group} (hf : ∀ g, (f g).lines = g.lines) :
    BlockKept k { k with groups := tmod k.groups gi f } := by
  refine ⟨rfl, fun g => ?_, rfl, rfl⟩
  simp only [tget_tmod]
  by_cases e : g = gi
  · subst e; cases tget k.groups g <;> simp [hf]
  · simp [e]

theorem writesNothing_logErr (s : State) (type unit loc addr detail : Nat) :
    WritesNothing s (logErr s type unit loc addr detail) :=
  ⟨fun b k hk => ⟨k, by simpa using hk, .refl k⟩, by simp, by simp, fun p hp => homeCell_logErr_outside s _ _ _ _ _ p hp⟩

theorem writesNothing_applyAll {α : Type} {f : State → α → State} (hf : ∀ s x, WritesNothing s (f s x)) (l : List α) :
    ∀ s, WritesNothing s (applyAll s l f) := by
  induction l with
  | nil => exact .refl
  | cons x l ih => exact fun s => (hf s x).trans (ih _)

/-! #### Notes of accesses -/

theorem writesNothing_noteWalk (s : State) (pasid va loc : Nat) : WritesNothing s (noteWalk s pasid va loc) := by
  unfold noteWalk
  split
  · exact .refl s
  · split
    · exact .of_eq rfl rfl rfl rfl
    · exact writesNothing_logErr ..
    · exact .refl s

theorem writesNothing_forgetAts (s : State) (pasid va : Nat) : WritesNothing s (forgetAts s pasid va) := by
  unfold forgetAts
  split
  · exact .refl s
  · exact .of_eq rfl rfl rfl rfl

/-- R491: what logs the accesses of lanes writes nothing else. -/
theorem writesNothing_noteLanes (c : Ctx) (eas : List Nat) (s : State) : WritesNothing s (noteLanes c eas s) := by
  refine writesNothing_applyAll (fun s ea => ?_) eas s
  split
  · exact .refl s
  · have h := (writesNothing_noteWalk s c.l.pasid ea (location s c.b.core)).trans (writesNothing_forgetAts _ c.l.pasid ea)
    dsimp only
    split
    · split
      · exact h.trans (writesNothing_logErr ..)
      · exact h
    · exact h

/-! #### Recording a cause -/

/-- R115, R431: the charge of an issue reaches a cluster and a core only. -/
theorem drawn_eq (c : Ctx) (s : State) : ∃ cl co, drawn c s = { s with clusters := cl, cores := co } := by
  unfold drawn; dsimp only; split <;> exact ⟨_, _, rfl⟩

theorem drawn_scyc (c : Ctx) (s : State) (n : Nat) : (coreOf (drawn c s) n).scyc = (coreOf s n).scyc := by
  unfold drawn
  dsimp only
  split
  · rw [noteIssue, coreOf_modCore]
    split
    · next h => subst h; rfl
    · rfl
  · rfl

theorem asyncNow_congr {s t : State} (h : ∀ n, (coreOf t n).scyc = (coreOf s n).scyc) (k : Block) :
    asyncNow t k = asyncNow s k := by simp [asyncNow, h]

/-- R160: the first issue of a group with a bad control area takes back only that mark. -/
theorem firstIssue_eq (c : Ctx) : ∃ bs, firstIssue c = { c.s with blocks := bs } := by
  unfold firstIssue; split <;> exact ⟨_, rfl⟩

theorem writesNothing_firstIssue (c : Ctx) : WritesNothing c.s (firstIssue c) := by
  unfold firstIssue
  split
  · exact writesNothing_modBlock _ _ fun k => blockKept_group k _ fun _ => rfl
  · exact .refl _

/-- R396, R397: what recording a cause changes in a block; `second` says whether it halts already. -/
def recordIn (party : Nat) (r : CauseRec) (second : Bool) (k : Block) : Block :=
  if party = mseqParty then { k with mseq := { k.mseq with cause := some r } }
  else if party = cseqParty then { k with cseq := { k.cseq with cause := some r } }
  else { k with groups := tmod k.groups party fun g =>
    if g.cause.isSome then { g with twice := true } else { g with cause := some { r with second := r.second || second } } }

theorem recordIn_kept (party : Nat) (r : CauseRec) (second : Bool) (k : Block) : BlockKept k (recordIn party r second k) := by
  unfold recordIn
  split
  · exact ⟨rfl, fun _ => rfl, rfl, rfl⟩
  · split
    · exact ⟨rfl, fun _ => rfl, rfl, rfl⟩
    · exact blockKept_group k party fun g => by split <;> rfl

/-- R396: recording a cause in a block that has not ended changes that block, and makes its halt due unless it halts already. -/
theorem recordCause_eq {s : State} {b : Nat} {k : Block} (hk : tget s.blocks b = some k) (he : k.ended = false) (party : Nat)
    (r : CauseRec) : recordCause s b party r =
      let s1 := modBlock s b (recordIn party r !(k.h.halt != .halting || asyncNow s k))
      if k.h.halt != .halting || asyncNow s k then dueEvents s1 [.blockHalt b] else s1 := by
  unfold recordCause
  rw [hk]
  simp only [he]
  rfl

/-- R229: with no such block, or one that has ended, there is nothing to record. -/
theorem recordCause_idle {s : State} {b : Nat} (h : ∀ k, tget s.blocks b = some k → k.ended = true) (party : Nat) (r : CauseRec) :
    recordCause s b party r = s := by
  unfold recordCause
  split
  · rfl
  · next k hk => simp [h k hk]

theorem recordCause_cases (s : State) (b party : Nat) (r : CauseRec) : recordCause s b party r = s
    ∨ ∃ second es, recordCause s b party r = dueEvents (modBlock s b (recordIn party r second)) es := by
  by_cases h : ∃ k, tget s.blocks b = some k ∧ k.ended = false
  · obtain ⟨k, hk, he⟩ := h
    rw [recordCause_eq hk he]
    dsimp only
    split
    · exact .inr ⟨_, [.blockHalt b], rfl⟩
    · exact .inr ⟨_, [], by simp [dueEvents]; rfl⟩
  · exact .inl (recordCause_idle (fun k hk => by simpa using fun he => h ⟨k, hk, he⟩) party r)

theorem writesNothing_recordCause (s : State) (b party : Nat) (r : CauseRec) : WritesNothing s (recordCause s b party r) := by
  rcases recordCause_cases s b party r with h | ⟨second, es, h⟩ <;> rw [h]
  · exact .refl s
  · exact (writesNothing_modBlock s b (recordIn_kept party r second)).trans (.of_eq rfl rfl rfl rfl)

theorem recordCause_mem (s : State) (b party : Nat) (r : CauseRec) : (recordCause s b party r).mem = s.mem := by
  rcases recordCause_cases s b party r with h | ⟨second, es, h⟩
  · rw [h]
  · rw [h]; rfl

/-- R400, R418: recording a cause other than ECC logs nothing; ECC is logged first, and its record carries the entry's number. -/
theorem recordLogged_eq (s : State) (b party unit loc : Nat) (r : CauseRec) : ∃ s' n,
    recordLogged s b party unit loc r = recordCause s' b party { r with errSeq := n } ∧ WritesNothing s s'
      ∧ s'.blocks = s.blocks ∧ s'.cores = s.cores ∧ (r.code ≠ causeCode .ecc → s'.mem = s.mem) := by
  unfold recordLogged
  split
  · next h =>
    have hlog := writesNothing_logErr { s with tick := s.tick + 1 } 2 unit loc r.addr (Config.pick s.tick % 2 ^ 32)
    have htick : WritesNothing s { s with tick := s.tick + 1 } := .of_eq rfl rfl rfl rfl
    exact ⟨_, _, rfl, htick.trans hlog, by simp [logUe], by simp [logUe], fun hn => absurd h hn⟩
  · exact ⟨s, r.errSeq, rfl, .refl s, rfl, rfl, fun _ => rfl⟩

/-- R405: whether a cause of an issue comes while its block halts already. -/
def Ctx.second (c : Ctx) : Bool := c.b.h.halt == .halting && !asyncNow c.s c.b

/-- R404: raising records the causes in a state in which the instruction has left its charge and nothing else. -/
theorem raise_eq (c : Ctx) (cs : List LaneCause) : ∃ s' n,
    raise c cs = recordCause s' c.bid c.party
        { causeRec c cs c.second with errSeq := n }
      ∧ WritesNothing c.s s' ∧ s'.blocks = (firstIssue c).blocks ∧ (∀ k, asyncNow s' k = asyncNow c.s k)
      ∧ ((causeRec c cs c.second).code ≠ causeCode .ecc → s'.mem = c.s.mem) := by
  obtain ⟨s', n, heq, hw, hb, hc, hm⟩ := recordLogged_eq (drawn c (firstIssue c)) c.bid c.party (eccUnit c)
    (location c.s c.b.core) (causeRec c cs c.second)
  obtain ⟨cl, co, hd⟩ := drawn_eq c (firstIssue c)
  obtain ⟨bs, hf⟩ := firstIssue_eq c
  have hdraw : WritesNothing (firstIssue c) (drawn c (firstIssue c)) := by rw [hd]; exact .of_eq rfl rfl rfl rfl
  refine ⟨s', n, heq, (writesNothing_firstIssue c).trans (hdraw.trans hw), hb.trans (drawn_blocks ..), fun k => ?_, fun h => ?_⟩
  · refine asyncNow_congr (fun n => ?_) k
    rw [coreOf, hc]
    exact (drawn_scyc c (firstIssue c) n).trans (by rw [hf]; rfl)
  · rw [hm h, hd, hf]

/-- R400: raising causes that are not recorded as ECC changes no byte of memory. -/
theorem raise_mem {c : Ctx} {cs : List LaneCause}
    (h : (causeRec c cs c.second).code ≠ causeCode .ecc) : (raise c cs).mem = c.s.mem := by
  obtain ⟨s', n, heq, -, -, -, hm⟩ := raise_eq c cs
  rw [heq, recordCause_mem, hm h]

theorem writesNothing_raise (c : Ctx) (cs : List LaneCause) : WritesNothing c.s (raise c cs) := by
  obtain ⟨s', n, heq, hw, -⟩ := raise_eq c cs
  rw [heq]
  exact hw.trans (writesNothing_recordCause ..)

/-! #### The registers of the issuer -/

theorem rdReg_congr {g g' : Group} (h : g'.lines = g.lines) (r k : Nat) : rdReg g' r k = rdReg g r k := by simp [rdReg, h]

/-- R8: where nothing has been written, the issuer's registers hold what it read. -/
theorem regAfter_of_writesNothing {s t : State} {i : Instr} {c : Ctx} (h : ctxOf s i = some c) (hw : WritesNothing s t)
    (r k : Nat) : regAfter t c r k = c.rd r k := by
  obtain ⟨-, -, hb, hgroup, hseq, -⟩ := ctxOf_spec h
  obtain ⟨k', hk', hkept⟩ := hw.blocks _ _ hb
  unfold regAfter Ctx.rd
  cases hq : c.sq with
  | none =>
    have hl := hkept.lines c.party
    rw [(hgroup hq).1] at hl
    obtain ⟨g', hg', hlines⟩ := Option.map_eq_some_iff.1 hl
    simp [groupAfter, hk', hg', rdReg_congr hlines]
  | some q =>
    obtain ⟨-, rfl, -⟩ := hseq q hq
    simp only [seqAfter, hk', Option.map_some, Option.getD_some]
    split
    · rw [hkept.mseq]
    · rw [hkept.cseq]

end Sys2Proof.Machine
end

/-! ### Raising causes (O22) -/

section
namespace Sys2Proof.Machine

open Sys2Proof

/-! #### What a record says -/

section
variable (c : Ctx) {cs : List LaneCause} (second : Bool) {x : Cause} {a : Nat}

section
variable (ht : topCause (laneCauses cs) = some (x, a))
include ht

theorem causeRec_code : (causeRec c cs second).code = causeCode x := by
  change causeCode ((topCause (laneCauses cs)).getD (.ill, 0)).1 = _
  rw [ht]; rfl

theorem causeRec_addr : (causeRec c cs second).addr = a := by
  change ((topCause (laneCauses cs)).getD (.ill, 0)).2 = _
  rw [ht]; rfl

theorem causeRec_pc : (causeRec c cs second).pc = if x = .sysc then c.pc + 4 else c.pc := by
  change (if ((topCause (laneCauses cs)).getD (.ill, 0)).1 == .sysc then c.pc + 4 else c.pc) = _
  rw [ht]; simp

theorem causeRec_pmask (hq : c.sq = none) :
    (causeRec c cs second).pmask = laneMask ((laneCauses cs).filter fun y => y.2.1 == x) := by
  change (if c.sq.isSome then 0
    else laneMask ((laneCauses cs).filter fun y => y.2.1 == ((topCause (laneCauses cs)).getD (.ill, 0)).1)) = _
  rw [ht, hq]; rfl

theorem causeRec_lmask (hq : c.sq = none) :
    (causeRec c cs second).lmask = laneMask ((laneCauses cs).filter fun y => y.2.1 != x) := by
  change (if c.sq.isSome then 0
    else laneMask ((laneCauses cs).filter fun y => y.2.1 != ((topCause (laneCauses cs)).getD (.ill, 0)).1)) = _
  rw [ht, hq]; rfl

theorem causeRec_lower (hq : c.sq = none) : (causeRec c cs second).lower =
    ((topCause ((laneCauses cs).filter fun y => y.2.1 != x)).map fun y => causeCode y.1).getD 0 := by
  change (if c.sq.isSome then 0 else ((topCause ((laneCauses cs).filter fun y =>
    y.2.1 != ((topCause (laneCauses cs)).getD (.ill, 0)).1)).map fun y => causeCode y.1).getD 0) = _
  rw [ht, hq]; rfl

end

section
variable (hl : ∀ y ∈ cs, y.1 < 32)
include hl

/-- R400: the lanes of the primary mask are those whose highest cause is the one recorded. -/
theorem testBit_primaryMask (k : Nat) :
    (laneMask ((laneCauses cs).filter fun y => y.2.1 == x)).testBit k = true ↔ laneCause cs k x := by
  rw [testBit_laneMask, laneCause_iff_mem hl]
  constructor
  · rintro ⟨⟨j, y, b⟩, hy, rfl⟩
    obtain ⟨hmem, hyx⟩ := List.mem_filter.1 hy
    exact ⟨b, by simpa [show y = x by simpa using hyx] using hmem⟩
  · rintro ⟨b, hb⟩
    exact ⟨_, List.mem_filter.2 ⟨hb, by simp⟩, rfl⟩

/-- R400: the lanes of the other mask are those whose highest cause is another. -/
theorem testBit_lowerMask (k : Nat) :
    (laneMask ((laneCauses cs).filter fun y => y.2.1 != x)).testBit k = true ↔ ∃ y, y ≠ x ∧ laneCause cs k y := by
  simp only [testBit_laneMask, laneCause_iff_mem hl]
  constructor
  · rintro ⟨⟨j, y, b⟩, hy, rfl⟩
    obtain ⟨hmem, hyx⟩ := List.mem_filter.1 hy
    exact ⟨y, by simpa using hyx, b, hmem⟩
  · rintro ⟨y, hyx, b, hb⟩
    exact ⟨_, List.mem_filter.2 ⟨hb, by simpa using hyx⟩, rfl⟩

/-- R400: the lower cause is the highest of those that are not recorded. -/
theorem topCause_lower {y : Cause} (hy : ∃ k, laneCause cs k y) (hyx : y ≠ x)
    (hhigh : ∀ j z, laneCause cs j z → z ≠ x → noLower y z) :
    ∃ b, topCause ((laneCauses cs).filter fun z => z.2.1 != x) = some (y, b) := by
  obtain ⟨k, hk⟩ := hy
  obtain ⟨b, hb⟩ := (laneCause_iff_mem hl).1 hk
  have hlow : (k, y, b) ∈ (laneCauses cs).filter fun z => z.2.1 != x := List.mem_filter.2 ⟨hb, by simpa using hyx⟩
  obtain ⟨⟨z, b'⟩, ht⟩ : ∃ z, topCause ((laneCauses cs).filter fun z => z.2.1 != x) = some z :=
    Option.ne_none_iff_exists'.1 fun hn => List.not_mem_nil (topCause_eq_none.1 hn ▸ hlow)
  obtain ⟨j, hj⟩ := topCause_mem ht
  obtain ⟨hmem, hzx⟩ := List.mem_filter.1 hj
  have h₁ := topCause_le ht hlow
  have h₂ := (noLower_iff ..).1 (hhigh j z ((laneCause_iff_mem hl).2 ⟨b', hmem⟩) (by simpa using hzx))
  obtain rfl : z = y := causeRank_inj (Nat.le_antisymm h₁ h₂)
  exact ⟨b', ht⟩

end

theorem exists_highestOf (h : cs ≠ []) : ∃ x, highestOf cs x := by
  obtain ⟨⟨x, a⟩, ht⟩ : ∃ x, topCause cs = some x := Option.ne_none_iff_exists'.1 fun hn => h (topCause_eq_none.1 hn)
  obtain ⟨k, hk⟩ := topCause_mem ht
  exact ⟨x, ⟨_, hk, rfl⟩, fun y hy => (noLower_iff ..).2 (topCause_le ht hy)⟩

/-- A list without ECC as its highest cause is not recorded as ECC. -/
theorem causeRec_code_ne_ecc (hl : ∀ y ∈ cs, y.1 < 32) (h : ∀ x, highestOf cs x → x ≠ .ecc) :
    (causeRec c cs second).code ≠ causeCode .ecc := by
  by_cases hcs : cs = []
  · subst hcs; exact (by decide : causeCode .ill ≠ causeCode .ecc)
  · obtain ⟨x, hx⟩ := exists_highestOf hcs
    obtain ⟨a, k, ht, -⟩ := topCause_laneCauses hl hx
    rw [causeRec_code c _ ht]
    exact fun he => h x hx (causeCode_ecc.1 he)

end

/-! #### The block of the issuer -/

/-- R160: the issuer's block after its first issue. -/
def Ctx.issuingBlock (c : Ctx) : Block :=
  if c.g.badCtl then { c.b with groups := tmod c.b.groups c.party fun g => { g with badCtl := false } } else c.b

theorem issuingBlock_eq (c : Ctx) : ∃ gs, c.issuingBlock = { c.b with groups := gs } := by
  unfold Ctx.issuingBlock; split <;> exact ⟨_, rfl⟩

theorem tget_firstIssue {s : State} {i : Instr} {c : Ctx} (h : ctxOf s i = some c) :
    tget (firstIssue c).blocks c.bid = some c.issuingBlock := by
  obtain ⟨rfl, -, hb, -⟩ := ctxOf_spec h
  unfold firstIssue Ctx.issuingBlock
  split
  · simp [modGroup, tget_tmod, hb]
  · exact hb

theorem issuingBlock_group {c : Ctx} (h : tget c.b.groups c.party = some c.g) :
    tget c.issuingBlock.groups c.party = some { c.g with badCtl := false } := by
  unfold Ctx.issuingBlock
  split
  · simp [tget_tmod, h]
  · next hbad => rw [h, ← (by simpa using hbad : c.g.badCtl = false)]

/-- The context of a sequencer has no group, and the program counter of the sequencer. -/
theorem ctxOf_seq {s : State} {i : Instr} {c : Ctx} {q : Seq} (h : ctxOf s i = some c) (hq : c.sq = some q) :
    c.g = {} ∧ c.pc = q.pc := by
  unfold ctxOf at h
  split at h
  · cases h
  · split at h
    · cases h
    · split at h
      · cases h
      · simp only at h
        split at h
        · cases h
        · split at h <;> cases h
          cases hq
  · split at h <;> cases h
    cases hq; exact ⟨rfl, rfl⟩
  · split at h <;> cases h
    cases hq; exact ⟨rfl, rfl⟩

/-- R396: the block of an issuer that raises causes, and the halt that is due unless the block halts already. -/
theorem raise_records {s : State} {i : Instr} {c : Ctx} (h : ctxOf s i = some c) (he : c.b.ended = false) (cs : List LaneCause) :
    ∃ n, tget (raise c cs).blocks c.bid = some (recordIn c.party
        { causeRec c cs c.second with errSeq := n }
        c.second c.issuingBlock)
      ∧ (c.b.h.halt ≠ .halting ∨ asyncNow s c.b = true → .blockHalt c.bid ∈ (raise c cs).agenda) := by
  obtain ⟨rfl, -⟩ := ctxOf_spec h
  obtain ⟨s', n, heq, -, hb, hasync, -⟩ := raise_eq c cs
  obtain ⟨gs, hgs⟩ := issuingBlock_eq c
  have hk : tget s'.blocks c.bid = some c.issuingBlock := hb ▸ tget_firstIssue h
  have hnow : asyncNow s' c.issuingBlock = asyncNow c.s c.b := by rw [hasync, hgs]; rfl
  have hhalt : c.issuingBlock.h = c.b.h := by rw [hgs]
  have hsecond : (!(c.b.h.halt != .halting || asyncNow c.s c.b)) = c.second := by simp [Ctx.second, bne]
  refine ⟨n, ?_, fun hdue => ?_⟩ <;>
    rw [heq, recordCause_eq hk (by rw [hgs]; exact he), hnow, hhalt]
  · rw [hsecond]
    dsimp only
    split <;> simp [dueEvents, tget_tmod, hk]
  · rw [if_pos (by simpa using hdue)]
    simp [dueEvents]

/-! #### Causes of a group -/

theorem raisingRecordsCause : Claims.RaisingRecordsCause := by
  intro s i c cs x h hq he hnone hl hx t
  obtain ⟨hs, hi, -, hgroup, -⟩ := ctxOf_spec h
  obtain ⟨hg, hp⟩ := hgroup hq
  obtain ⟨n, hblock, hdue⟩ := raise_records h he cs
  obtain ⟨a, k, ht, hlane, hleast, hmem⟩ := topCause_laneCauses hl hx
  refine ⟨_, { causeRec c cs c.second with errSeq := n }, ?_, rfl, rfl, ?_⟩
  · have hm : c.party ≠ mseqParty := by simp [mseqParty]; omega
    have hc : c.party ≠ cseqParty := by simp [cseqParty]; omega
    simp [t, groupAfter, hblock, recordIn, hm, hc, tget_tmod, issuingBlock_group hg, hnone, causeRec]
  · refine ⟨(causeRec_code c c.second ht).trans (codeOf_eq x).symm, hs ▸ rfl, causeRec_pc c c.second ht, by simp [causeRec, hi],
      fun j => ?_, fun j => ?_, fun y hy hyx hhigh => ?_, ⟨k, hlane, hleast, by rwa [causeRec_addr c _ ht]⟩, ?_, fun hne => ?_, hdue⟩
    · rw [causeRec_pmask c _ ht hq]; exact testBit_primaryMask hl j
    · rw [causeRec_lmask c _ ht hq]; exact testBit_lowerMask hl j
    · obtain ⟨b, hb⟩ := topCause_lower hl hy hyx hhigh
      rw [causeRec_lower c _ ht hq, hb, codeOf_eq]; rfl
    · exact hs ▸ (writesNothing_raise c cs).accesses
    · exact hs ▸ raise_mem (by rw [causeRec_code c _ ht]; exact fun hecc => hne (causeCode_ecc.1 hecc))

/-! #### Causes of a sequencer -/

theorem raisingInSequencer : Claims.RaisingInSequencer := by
  intro s i c cs x q h hq he hl hx t
  obtain ⟨-, -, -, -, hseq, -⟩ := ctxOf_spec h
  obtain ⟨-, hqeq, hparty⟩ := hseq q hq
  obtain ⟨hg, hpc⟩ := ctxOf_seq h hq
  obtain ⟨n, hblock, hdue⟩ := raise_records h he cs
  obtain ⟨a, k, ht, -⟩ := topCause_laneCauses (fun y hy => by rw [hl y hy]; decide) hx
  have hissue : c.issuingBlock = c.b := by simp [Ctx.issuingBlock, hg]
  refine ⟨_, { causeRec c cs c.second with errSeq := n }, ?_, rfl, ?_,
    by simp [causeRec, hq], by simp [causeRec, hq], ?_, fun hx => ?_, hdue⟩
  · rcases hparty with hp | hp <;>
      simp [t, seqAfter, hblock, hissue, recordIn, hp, hqeq, mseqParty, cseqParty]
  · exact (causeRec_code c c.second ht).trans (codeOf_eq x).symm
  · rcases hparty with hp | hp <;> simp [causeRec, hq, hp, mseqParty, cseqParty]
  · rw [← hpc]; exact (causeRec_pc c c.second ht).trans (if_neg hx)

/-! #### Causes that every instruction checks -/

/-- R61: the lanes of the slices of the sub-gang. -/
theorem causeAll_sliceLanes {c : Ctx} (hq : c.sq = none) (x : Cause) :
    causeAll x c.sliceLanes = (c.sl.flatMap fun k => [4 * k, 4 * k + 1, 4 * k + 2, 4 * k + 3]).map fun j => (j, x, 0) := by
  simp [causeAll, Ctx.sliceLanes, hq, span, List.flatMap_def, List.range_succ]

theorem genericCauses_ill {c : Ctx} (h : streamOk c = false ∨ c.instr.wellFormed = false ∨ c.g.badCtl = true) :
    genericCauses c = causeAll .ill c.sliceLanes := by
  unfold genericCauses
  rw [if_pos]
  rcases h with h | h | h <;> simp [h]

/-- R131, R158, R418: what a legal instruction of a group meets. -/
theorem genericCauses_legal {c : Ctx} (hq : c.sq = none) (hs : streamOk c = true) (hw : c.instr.wellFormed = true)
    (hb : c.g.badCtl = false) : genericCauses c = ((lkvSlices c).map fun k => causeAll .lkv (actLanes c.g k)).flatten
      ++ (if c.named.all (nameable c.g) then [] else causeAll .regx c.all)
      ++ (if c.use.reads.any (poisonedReg c.g) then causeAll .ecc c.lanes else []) := by
  simp [genericCauses, hq, hs, hw, hb]

theorem mem_causeAll {x : Cause} {lanes : List Nat} {k a : Nat} (h : k ∈ lanes) : (k, x, a) ∈ causeAll x lanes a :=
  List.mem_map.2 ⟨k, h, rfl⟩

theorem mem_lkvSlices {c : Ctx} {x : LongX} {r k : Nat} (hx : x ∈ c.g.longs) (hr : r ∈ x.regs) (hn : r ∈ c.named)
    (hf : readsFlags c.instr = false) (hk : k ∈ c.sl) (hrem : 0 < x.rem.getD k 0) : k ∈ lkvSlices c := by
  simp only [lkvSlices, hf, List.mem_filter, List.any_eq_true, Bool.and_eq_true, decide_eq_true_eq]
  exact ⟨hk, x, hx, hrem, r, hr, by simpa using hn⟩

theorem genericCauses_of_group : Claims.GenericCauses := by
  intro s i c h hq
  obtain ⟨-, rfl, -⟩ := ctxOf_spec h
  refine ⟨fun hill => (genericCauses_ill hill).trans (causeAll_sliceLanes hq _), fun hs hw hb => ?_⟩
  rw [genericCauses_legal hq hs hw hb]
  refine ⟨fun r hr hout k hk => ?_, fun x hx r hr hn hf k hk hrem j hj => ?_⟩
  · have hno : c.named.all (nameable c.g) = false := List.all_eq_false.2 ⟨r, hr, by simpa [nameable] using hout⟩
    rw [hno]
    exact List.mem_append_left _ (List.mem_append_right _ (mem_causeAll hk))
  · refine List.mem_append_left _ (List.mem_append_left _ (List.mem_flatten.2 ⟨_, List.mem_map.2 ⟨k, ?_, rfl⟩, mem_causeAll hj⟩))
    exact mem_lkvSlices hx hr hn hf hk hrem

theorem illegalEncodingRaises : Claims.IllegalEncodingRaises := by
  intro s i c hop h hfree hill
  obtain ⟨-, rfl, -, -, -, hlanes⟩ := ctxOf_spec h
  obtain ⟨body, hexec, -⟩ := exec_issues c.instr s hop
  have hgen : genericCauses c = causeAll .ill c.sliceLanes := genericCauses_ill (hill.imp_right .inl)
  have hany : (causeAll .ill c.sliceLanes).any (fun y => y.2.1 == .ill) = true := by
    obtain ⟨k, hk⟩ := List.exists_mem_of_ne_nil _ hlanes
    exact List.any_eq_true.2 ⟨_, mem_causeAll hk, rfl⟩
  rw [hexec]
  simp [issue, h, hfree, hgen, hany]

/-! #### Causes write nothing -/

/-- R404, R491: what an instruction does beside raising causes writes nothing. -/
theorem writesNothing_post {c : Ctx} {cs : List LaneCause} {post : State → State} (h : (Res.causes cs post).OnlyNotes c)
    (s : State) : WritesNothing s (post s) := by
  rcases h with rfl | ⟨eas, rfl⟩
  · exact .refl s
  · exact writesNothing_noteLanes c eas s

/-- R8, R404: an instruction that meets a cause of its frame has no effect. -/
theorem writesNothing_exec {i : Instr} {s t : State} {c : Ctx} (h : ctxOf s i = some c) (hop : (opInfo i).isSome = true)
    (hgen : genericCauses c ≠ []) (ht : exec i s = .next t) : WritesNothing s t := by
  obtain ⟨body, hexec, hnotes⟩ := exec_issues i s hop
  obtain ⟨c', hc', hcase⟩ := issue_next (hexec ▸ ht)
  obtain rfl : c = c' := Option.some.inj (h.symm.trans hc')
  obtain rfl : c.s = s := (ctxOf_spec h).1
  rcases hcase with rfl | rfl | ⟨cs, post, hbody, rfl⟩ | ⟨e, -, hnone, -⟩
  · exact .refl _
  · exact writesNothing_raise ..
  · exact (writesNothing_raise ..).trans (writesNothing_post (hbody ▸ hnotes c) _)
  · exact absurd hnone hgen

theorem causesWriteNothing : Claims.CausesWriteNothing := by
  constructor
  · intro i s c h hop hgen t ht
    have hw := writesNothing_exec h (Option.isSome_iff_ne_none.2 hop) hgen ht
    refine ⟨fun r k _ => regAfter_of_writesNothing h hw r k, hw.accesses, fun b k hk => ?_, hw.bytes⟩
    obtain ⟨k', hk', hkept⟩ := hw.blocks b k hk
    exact ⟨k', hk', hkept.scr⟩
  · intro i s c cs h hl hne
    obtain rfl : c.s = s := (ctxOf_spec h).1
    have hw := writesNothing_raise c cs
    refine ⟨⟨raise_mem (causeRec_code_ne_ecc c _ hl hne), fun b k hk => ?_⟩, fun r k _ => regAfter_of_writesNothing h hw r k⟩
    obtain ⟨k', hk', hkept⟩ := hw.blocks b k hk
    exact ⟨k', hk', hkept.scr⟩

/-- Settles O22: the record is the fold over the lanes' own highest causes, and what raising does beside it writes nothing. -/
theorem causesAreRecorded : Obligations.CausesAreRecorded :=
  ⟨raisingRecordsCause, raisingInSequencer, genericCauses_of_group, illegalEncodingRaises, causesWriteNothing⟩

end Sys2Proof.Machine
end
